-- ==== Sys2Proof/Word.lean ====
section
/-! DEFINITION. The word types of the Slarex H9 and their plainest arithmetic (00_scope.md R7, R8). -/

namespace Sys2Proof

/-- One byte of memory (R7: little-endian, sizes in bytes). -/
abbrev Byte := BitVec 8
/-- One 32-bit register, and one 32-bit parcel (R47, R51). -/
abbrev Word := BitVec 32
/-- One 64-bit register: sp, ln, a pair (R51). -/
abbrev DWord := BitVec 64

/-- The pair whose even register holds `lo` (R158). -/
def pair (lo hi : Word) : DWord := hi ++ lo
/-- Bits [31:0] of a pair (R158). -/
def lo32 (x : DWord) : Word := x.extractLsb' 0 32
/-- Bits [63:32] of a pair (R158). -/
def hi32 (x : DWord) : Word := x.extractLsb' 32 32

end Sys2Proof
end

