-- ==== Sys2Proof/Syntax.lean ====
section
/-! DEFINITION. The instructions and events of the Slarex H9: one constructor of `Instr` per row of
spec/opcode_table.json. Rows 0 to 182 are instruction words; the rest are the device's own steps
(spec/95_what_each_step_holds.md), whose operands say which agent, unit or request the step concerns. -/

namespace Sys2Proof

/-- A v register number (02_encoding.md R51). -/
abbrev VReg := BitVec 7
/-- A predicate number, 7 reading true (02 R51). -/
abbrev PReg := BitVec 3

/-- The guard of an instruction: active when `q` exclusive-or `neg` is true (02 R62). DEDUCED (log 95). -/
structure Guard where
  neg : Bool
  q   : PReg
  deriving DecidableEq, Repr

/-- A source that may be uniform (07_compute_instructions.md R181; 02 R51). -/
inductive Src where
  | v (n : VReg)
  | s (n : BitVec 6)
  | sp
  | ln
  deriving DecidableEq, Repr

/-- Operand B: a register, the 7-bit immediate of the 64-bit form or the literal of the 96-bit form (07 R182). -/
inductive OpB where
  | reg  (r : Src)
  | imm7 (x : BitVec 7)
  | lit  (x : Word)
  deriving DecidableEq, Repr

/-- A destination that may be sp or ln (07 R181). -/
inductive Dst where
  | v (n : VReg)
  | sp
  | ln
  deriving DecidableEq, Repr

/-- Integer-class formats (02 R54, Table 4); .bN is written with the code of .nN. -/
inductive IFmt where
  | i8 | i16 | i32 | i64 | n8 | n16 | n32 | n64 | b128
  deriving DecidableEq, Repr

/-- Floating-class formats (02 R54, Table 4). -/
inductive FFmt where
  | f64 | f32 | f16 | bf16 | e4m3 | e5m2 | bx8 | bx4
  deriving DecidableEq, Repr

/-- Rounding codes (02 R55, Table 5; 06_numbers.md R166). -/
inductive Rnd where
  | rn | rz | ru | rd | rs
  deriving DecidableEq, Repr

/-- Scope codes (02 R55, Table 5; 03_memory_model.md R87). -/
inductive Scope where
  | th | bnd | gang | team | dev | dom | sys
  deriving DecidableEq, Repr

/-- Ordering codes (02 R55, Table 5). -/
inductive Order where
  | relaxed | acq | rel | acqrel | sc
  deriving DecidableEq, Repr

/-- Comparison codes (02 R55, Table 5). -/
inductive Cmp where
  | eq | ne | lt | le | gt | ge
  deriving DecidableEq, Repr

/-- The combine of ISET and FSET with the predicate it names (07 R196). -/
inductive Comb where
  | none
  | and (q : PReg)
  | or  (q : PReg)
  deriving DecidableEq, Repr

/-- Three v registers of a short word (02 R48). -/
structure Rrr where
  d : VReg
  a : VReg
  b : VReg
  deriving DecidableEq, Repr

/-- Two v registers of a short word (02 R48). -/
structure Rr where
  d : VReg
  a : VReg
  deriving DecidableEq, Repr

/-- Three predicates with the negations of qa and qb (07 R191); the short forms have none. -/
structure Preds where
  d  : PReg
  a  : PReg
  b  : PReg
  na : Bool
  nb : Bool
  deriving DecidableEq, Repr

/-- Two predicates with the negation of qa (07 R191). -/
structure Pred2 where
  d  : PReg
  a  : PReg
  na : Bool
  deriving DecidableEq, Repr

/-- The displacement D of BRA and CALL in their 64-bit and 96-bit forms (02 R69). -/
inductive Disp where
  | d28 (d : BitVec 28)
  | d32 (d : Word)
  deriving DecidableEq, Repr

/-- The displacement D of BRC (02 R69). -/
inductive DispC where
  | d18 (d : BitVec 18)
  | d32 (d : Word)
  deriving DecidableEq, Repr

/-- The class and format of BRC, LRED and LSCAN (07 R187, R220). -/
inductive CFmt where
  | int (f : IFmt)
  | flt (f : FFmt)
  deriving DecidableEq, Repr

/-- BRC.cmp.fmt va, vb, target (07 R187). -/
structure BrcOps where
  cmp  : Cmp
  fmt  : CFmt
  a    : VReg
  b    : VReg
  disp : DispC
  deriving DecidableEq, Repr

/-- MNEMONIC.fmt vd, va, vb (07 R194). -/
structure Alu3 where
  fmt : IFmt
  d   : VReg
  a   : Src
  b   : OpB
  deriving DecidableEq, Repr

/-- MNEMONIC.fmt vd, va, vb, vc (07 R194, R198). -/
structure Alu4 where
  fmt : IFmt
  d   : VReg
  a   : Src
  b   : OpB
  c   : Src
  deriving DecidableEq, Repr

/-- MNEMONIC.fmt vd, va (07 R194). -/
structure Alu2 where
  fmt : IFmt
  d   : VReg
  a   : Src
  deriving DecidableEq, Repr

/-- SEL.fmt vd, va, vb, qc (07 R193). -/
structure SelOps where
  fmt : IFmt
  d   : VReg
  a   : Src
  b   : OpB
  q   : PReg
  deriving DecidableEq, Repr

/-- ISET.cmp.fmt qd, va, vb [, qc] (07 R196). -/
structure IsetOps where
  cmp  : Cmp
  fmt  : IFmt
  comb : Comb
  d    : PReg
  a    : Src
  b    : OpB
  deriving DecidableEq, Repr

/-- ADD64, SUB64 (sh 0) and LEA (07 R199): the format is the width of operand B. -/
structure Addr64 where
  fmt : IFmt
  d   : Dst
  a   : Src
  b   : OpB
  sh  : BitVec 3
  deriving DecidableEq, Repr

/-- MOV.fmt vd, va or an immediate (07 R201). -/
structure MovOps where
  fmt : IFmt
  d   : Dst
  a   : OpB
  deriving DecidableEq, Repr

/-- MOVI.fmt vd, imm (07 R202). -/
structure MoviOps where
  fmt : IFmt
  d   : VReg
  imm : BitVec 11
  deriving DecidableEq, Repr

/-- MOVS.fmt sd, va (07 R204). -/
structure MovsOps where
  fmt : IFmt
  d   : BitVec 6
  a   : OpB
  deriving DecidableEq, Repr

/-- RNGD.fmt vd, vb (07 R222). -/
structure RngdOps where
  fmt : IFmt
  d   : VReg
  b   : OpB
  deriving DecidableEq, Repr

/-- Special registers of 02 R52, Table 3a. -/
inductive SReg where
  | chron | beat | lane | bank | core | tid | gang | team
  | energy | fpflags | fsp | stklim | region | pnone | pskip | pdefer
  deriving DecidableEq, Repr

/-- FADD, FSUB, FMUL, FDIV, FMIN, FMAX (07 R205, R207, R213); x2 is the packed form (R206). -/
structure Flt3 where
  fmt : FFmt
  x2  : Bool
  rnd : Rnd
  d   : VReg
  a   : Src
  b   : OpB
  deriving DecidableEq, Repr

/-- FFMA (07 R205). -/
structure Flt4 where
  fmt : FFmt
  x2  : Bool
  rnd : Rnd
  d   : VReg
  a   : Src
  b   : OpB
  c   : Src
  deriving DecidableEq, Repr

/-- FSET.cmp.fmt qd, va, vb [, qc] (07 R208). -/
structure FsetOps where
  cmp  : Cmp
  fmt  : FFmt
  comb : Comb
  d    : PReg
  a    : Src
  b    : OpB
  deriving DecidableEq, Repr

/-- One floating source: FCLASS, FRND, FSQRT to FTANH (07 R209, R212, R213). -/
structure Flt2 where
  fmt : FFmt
  rnd : Rnd
  d   : VReg
  a   : Src
  deriving DecidableEq, Repr

/-- FCVT.fmt.from_g (07 R210). -/
structure FcvtOps where
  fmt : FFmt
  src : FFmt
  rnd : Rnd
  d   : VReg
  a   : Src
  deriving DecidableEq, Repr

/-- FTOI.fmt.to_g and ITOF.fmt.from_g (07 R211). -/
structure FiOps where
  fmt : FFmt
  int : IFmt
  rnd : Rnd
  d   : VReg
  a   : Src
  deriving DecidableEq, Repr

/-- BXQ and BXD (07 R214, R215): bx8 or bx4, and the half h. -/
structure BxOps where
  bx4 : Bool
  hi  : Bool
  d   : VReg
  a   : VReg
  e   : VReg
  deriving DecidableEq, Repr

/-- BXEX.fmt vbase, va, j, bs (07 R216). -/
structure BxexOps where
  bx4  : Bool
  base : VReg
  a    : VReg
  j    : BitVec 4
  bs   : Bool
  deriving DecidableEq, Repr

/-- The modes of SHFL (07 R218). -/
inductive ShflMode where
  | idx | up | dn | xor
  deriving DecidableEq, Repr

/-- SHFL.mode.fmt vd, va, vb (07 R218); READL without the mode (07 R219). -/
structure ShflOps where
  mode : ShflMode
  fmt  : IFmt
  d    : VReg
  a    : VReg
  b    : OpB
  deriving DecidableEq, Repr

/-- READL.fmt vd, va, vb (07 R219). -/
structure ReadlOps where
  fmt : IFmt
  d   : VReg
  a   : VReg
  b   : OpB
  deriving DecidableEq, Repr

/-- The modes of VOTE (07 R219). -/
inductive VoteMode where
  | all | any | uni
  deriving DecidableEq, Repr

/-- The operations of LRED and LSCAN (07 R220). -/
inductive RedOp where
  | add | min | max | and | or | xor
  deriving DecidableEq, Repr

/-- LRED and LSCAN (07 R220, R221); `exc` is LSCAN's variant. -/
structure RedOps where
  op  : RedOp
  fmt : CFmt
  rnd : Rnd
  exc : Bool
  d   : VReg
  a   : VReg
  deriving DecidableEq, Repr

/-- The base register of a memory operand (01_assembly_language.md R26; 04_memory_instructions.md R107). -/
inductive MBase where
  | v (n : VReg)
  | s (n : BitVec 6)
  | sp
  deriving DecidableEq, Repr

/-- The offset: the 7-bit field of the 64-bit form or the literal of the 96-bit form (02 R56; 04 R106). -/
inductive MOff where
  | imm7 (x : BitVec 7)
  | lit  (x : Word)
  deriving DecidableEq, Repr

/-- A memory operand (01 R26; 04 R106): `shift` is 0 without an index. -/
structure MemOp where
  base  : MBase
  win   : Bool
  idx   : Option VReg
  shift : BitVec 2
  off   : MOff
  deriving DecidableEq, Repr

/-- LD and ST (04 R112). -/
structure MemOps where
  fmt   : IFmt
  ord   : Order
  scope : Scope
  d     : VReg
  m     : MemOp
  deriving DecidableEq, Repr

/-- The operations of ATOM (04 R114, Table 2). -/
inductive AtomOp where
  | add | min | max | and | or | xor | exch | cas
  deriving DecidableEq, Repr

/-- ATOM.op.fmt vd, mem, vb [, vc] (04 R114); `c` is 0 but for .cas. -/
structure AtomOps where
  op    : AtomOp
  fmt   : IFmt
  ord   : Order
  scope : Scope
  d     : VReg
  m     : MemOp
  b     : VReg
  c     : VReg
  deriving DecidableEq, Repr

/-- ORDINIT and AADDF (04 R116, R117): `d` is the initial value or the rank pair, `b` the rank count or the value. -/
structure OrdOps where
  f64   : Bool
  ord   : Order
  scope : Scope
  d     : VReg
  m     : MemOp
  b     : VReg
  deriving DecidableEq, Repr

/-- CPY (04 R122): `m` is the destination, `src` the source base, `swin` its space, `c` the barrier offset. -/
structure CpyOps where
  fmt   : IFmt
  queue : BitVec 2
  scope : Scope
  d     : VReg
  m     : MemOp
  src   : VReg
  swin  : Bool
  c     : VReg
  deriving DecidableEq, Repr

/-- CPYS (04 R126): `c` is the descriptor quad. -/
structure CpysOps where
  queue : BitVec 2
  scope : Scope
  d     : VReg
  m     : MemOp
  src   : VReg
  c     : VReg
  deriving DecidableEq, Repr

/-- A barrier or cell instruction with one memory operand and up to two registers
(04 R108, R130; 05_promise_cells.md R148): `d` and `b` as the mnemonic's entry says, 0 where it has none. -/
structure CellOps where
  scope : Scope
  d     : VReg
  m     : MemOp
  b     : VReg
  deriving DecidableEq, Repr

/-- MLD, MLDC and MST (08_matrix_engine.md R243): `slot` for MLD, `tile` and `acc64` for the others. -/
structure MldOps where
  t      : BitVec 4
  a      : VReg
  stride : VReg
  slot   : BitVec 6
  deriving DecidableEq, Repr

/-- MLDC and MST (08 R243). -/
structure MldcOps where
  t      : BitVec 4
  fmt    : FFmt
  rnd    : Rnd
  a      : VReg
  stride : VReg
  acc64  : Bool
  tile   : BitVec 11
  deriving DecidableEq, Repr

/-- MMA (08 R245): `e` is the exponent base, 0 outside the block formats. -/
structure MmaOps where
  t    : BitVec 4
  fmt  : FFmt
  tile : BitVec 11
  a    : BitVec 6
  b    : BitVec 6
  e    : VReg
  deriving DecidableEq, Repr

/-- MTRN, and MRED with `col` and a rounding (08 R246). -/
structure MtrnOps where
  t    : BitVec 4
  fmt  : FFmt
  tile : BitVec 11
  slot : BitVec 6
  m    : BitVec 7
  deriving DecidableEq, Repr

/-- MPRM (08 R246): `p` holds the row index of each member. -/
structure MprmOps where
  t    : BitVec 4
  fmt  : FFmt
  tile : BitVec 11
  slot : BitVec 6
  p    : VReg
  m    : BitVec 7
  deriving DecidableEq, Repr

/-- MRED.row and MRED.col (08 R246). -/
structure MredOps where
  t    : BitVec 4
  fmt  : FFmt
  rnd  : Rnd
  tile : BitVec 11
  slot : BitVec 6
  col  : Bool
  m    : BitVec 7
  deriving DecidableEq, Repr

/-- SIGH.srp (09_signature_stage.md R255). -/
structure SighOps where
  t   : BitVec 4
  fmt : FFmt
  w   : BitVec 6
  q   : VReg
  kb  : BitVec 2
  h   : BitVec 5
  deriving DecidableEq, Repr

/-- SIGH.key (09 R255). -/
structure SighKeyOps where
  t  : BitVec 4
  q  : VReg
  kb : BitVec 2
  k  : VReg
  deriving DecidableEq, Repr

/-- The rules of SIGB (09 R255). -/
inductive SigRule where
  | group | first | mean | mednear
  deriving DecidableEq, Repr

/-- SIGB (09 R255). -/
structure SigbOps where
  t    : BitVec 4
  rule : SigRule
  fmt  : FFmt
  oD   : BitVec 6
  oW   : BitVec 6
  q    : VReg
  kb   : BitVec 2
  deriving DecidableEq, Repr

/-- SIGS and SIGG (09 R255); `avg` is SIGG's variant. -/
structure SigsOps where
  t   : BitVec 4
  f64 : Bool
  avg : Bool
  q   : VReg
  kb  : BitVec 2
  deriving DecidableEq, Repr

/-- SIGMAP (09 R255). -/
structure SigmapOps where
  t  : BitVec 4
  q  : VReg
  kb : BitVec 2
  deriving DecidableEq, Repr

/-- A pair that may be uniform: v or s (13_thread_instructions.md R301). -/
inductive UPair where
  | v (n : VReg)
  | s (n : BitVec 6)
  deriving DecidableEq, Repr

/-- FORK and FORKR (13 R301). -/
structure ForkOps where
  q     : PReg
  entry : UPair
  join  : UPair
  r     : VReg
  deriving DecidableEq, Repr

/-- SPAWN, and the work-list instructions (13 R301): `d` and `q` as the mnemonic's row says. -/
structure SpawnOps where
  q : PReg
  a : UPair
  b : VReg
  deriving DecidableEq, Repr

/-- WLPOP qd, vd, va (13 R301). -/
structure WlpopOps where
  q : PReg
  d : VReg
  a : UPair
  deriving DecidableEq, Repr

/-- WLCNT vd, va (13 R301). -/
structure WlcntOps where
  d : VReg
  a : UPair
  deriving DecidableEq, Repr

/-- What makes a word illegal (02 R63, R47), and whether the word is short (19_faults_traps_preemption.md R410). -/
inductive Illegal where
  | reserved
  | lineCrossing
  deriving DecidableEq, Repr

/-- The parcels of a word a decoder passes through as they stand: a retired word or an illegal one. -/
structure RawWord where
  len : BitVec 2
  p0  : Word
  p1  : Word
  deriving DecidableEq, Repr

/-- An event of another module at a promise cell of this one (05 R139, R142, R144). -/
inductive CellReq where
  | fill (x : DWord)
  | count (d : DWord)
  | link (t : Nat)
  /-- A WAIT, with the module, the core and the thread slot its record names. -/
  | wait (module core slot : Nat)
  | init (count : Bool) (m : DWord)
  /-- The relink of a cell from parent `p` to `g`, as a walk makes it. -/
  | relink (p g : Nat)
  /-- The reply of a walk that reached a FULL root of value `v`, at a cell it visited. -/
  | reply (v : DWord)
  /-- What that module's forced reset, swap and resumption do to the records that name a thread of it (05 R143): the record
  discarded, marked with the thread's team and index, or renamed to its new core and slot. A discarded thread is named by
  2048 × core + slot, or by its index in its swapped-out team. -/
  | discard (module place : Nat) (team : Option Nat)
  | mark (module core slot team tid : Nat)
  | rename (module team tid core slot : Nat)
  deriving DecidableEq, Repr

/-- A request of an agent outside the module: a PCI Express requester (03 R101, R102) or a peer module (22 R430). -/
inductive ReqKind where
  | read  (n : Nat)
  | write (bytes : List Byte) (relaxed : Bool)
  | add   (n : Nat) (x : DWord)
  | swap  (n : Nat) (x : DWord)
  | cas   (n : Nat) (x : DWord) (c : DWord)
  | atom  (op : AtomOp) (sgn : Bool) (n : Nat) (x : DWord) (c : DWord)
  | cell  (ev : CellReq)
  /-- An ORDINIT with its format, its count and its value, and an AADDF with its rank, its span and its value (03 R103). -/
  | ordinit (f64 : Bool) (n : Nat) (v : DWord)
  | aaddf (f64 : Bool) (k n : Nat) (x : DWord)
  deriving DecidableEq, Repr

/-- The readings firmware acts on (22 R436, R438): temperatures in 1/16 degree, power in mW, core supply in mV. -/
structure Readings where
  temps : List (BitVec 16)
  power : Word
  vcore : BitVec 16
  deriving DecidableEq, Repr

/-- Where an ECC error strikes (19 R398; 08 R238; 09 R267). -/
inductive EccSite where
  | sector (addr : Nat)
  | slot (core phys line : Nat)
  | tile (core tile row : Nat)
  | sigKey (core team buf : Nat)
  | sigMap (core team buf : Nat)
  deriving DecidableEq, Repr

/-- The instructions and the device's own steps: one constructor per row of spec/opcode_table.json. -/
inductive Instr where
  -- short words (02 R57)
  | nopShort  (g : Guard)
  | braShort  (g : Guard) (d : BitVec 21)
  | callShort (g : Guard) (d : BitVec 21)
  | retShort  (g : Guard)
  | exitShort (g : Guard)
  | movShort  (g : Guard) (o : Rr)
  | iaddShort (g : Guard) (o : Rrr)
  | isubShort (g : Guard) (o : Rrr)
  | imulShort (g : Guard) (o : Rrr)
  | andShort  (g : Guard) (o : Rrr)
  | orShort   (g : Guard) (o : Rrr)
  | xorShort  (g : Guard) (o : Rrr)
  | shlShort  (g : Guard) (o : Rrr)
  | shrShort  (g : Guard) (o : Rrr)
  | sarShort  (g : Guard) (o : Rrr)
  | iminShort (g : Guard) (o : Rrr)
  | imaxShort (g : Guard) (o : Rrr)
  | faddShort (g : Guard) (o : Rrr)
  | fsubShort (g : Guard) (o : Rrr)
  | fmulShort (g : Guard) (o : Rrr)
  | ffmaShort (g : Guard) (o : Rrr)
  | fminShort (g : Guard) (o : Rrr)
  | fmaxShort (g : Guard) (o : Rrr)
  | pandShort (g : Guard) (d a b : PReg)
  | porShort  (g : Guard) (d a b : PReg)
  | pxorShort (g : Guard) (d a b : PReg)
  | pnotShort (g : Guard) (d a : PReg)
  | pmovShort (g : Guard) (d a : PReg)
  | retiredOpcodeShort (g : Guard) (w : Word)
  | retiredOpcode (g : Guard) (w : RawWord)
  | reservedEncoding (g : Guard) (why : Illegal) (w : RawWord)
  -- control, predicates, selection (07 R186 to R193)
  | nop   (g : Guard)
  | bra   (g : Guard) (d : Disp)
  | brc   (g : Guard) (o : BrcOps)
  | brx   (g : Guard) (a : Src)
  | call  (g : Guard) (d : Disp)
  | callx (g : Guard) (a : Src)
  | ret   (g : Guard)
  | exit  (g : Guard)
  | pand  (g : Guard) (o : Preds)
  | por   (g : Guard) (o : Preds)
  | pxor  (g : Guard) (o : Preds)
  | pnot  (g : Guard) (o : Pred2)
  | pmov  (g : Guard) (o : Pred2)
  | ppack (g : Guard) (d : VReg)
  | punpk (g : Guard) (a : VReg)
  | sel   (g : Guard) (o : SelOps)
  -- integer and address arithmetic (07 R194 to R200)
  | iadd  (g : Guard) (sat : Bool) (o : Alu3)
  | isub  (g : Guard) (sat : Bool) (o : Alu3)
  | imul  (g : Guard) (o : Alu3)
  | imulh (g : Guard) (o : Alu3)
  | imad  (g : Guard) (o : Alu4)
  | idiv  (g : Guard) (la : BitVec 4) (o : Alu3)
  | irem  (g : Guard) (la : BitVec 4) (o : Alu3)
  | imin  (g : Guard) (o : Alu3)
  | imax  (g : Guard) (o : Alu3)
  | iabs  (g : Guard) (o : Alu2)
  | ineg  (g : Guard) (o : Alu2)
  | iset  (g : Guard) (o : IsetOps)
  | lea   (g : Guard) (o : Addr64)
  | add64 (g : Guard) (o : Addr64)
  | sub64 (g : Guard) (o : Addr64)
  | mul64 (g : Guard) (o : Alu3)
  | and   (g : Guard) (o : Alu3)
  | or    (g : Guard) (o : Alu3)
  | xor   (g : Guard) (o : Alu3)
  | not   (g : Guard) (o : Alu2)
  | shl   (g : Guard) (o : Alu3)
  | shr   (g : Guard) (o : Alu3)
  | sar   (g : Guard) (o : Alu3)
  | rol   (g : Guard) (o : Alu3)
  | bfx   (g : Guard) (o : Alu3)
  | bfi   (g : Guard) (o : Alu4)
  | popc  (g : Guard) (o : Alu2)
  | clz   (g : Guard) (o : Alu2)
  | ctz   (g : Guard) (o : Alu2)
  | brev  (g : Guard) (o : Alu2)
  -- moves, special registers, generator (07 R201 to R204, R222 to R225)
  | mov   (g : Guard) (o : MovOps)
  | movi  (g : Guard) (o : MoviOps)
  | lit   (g : Guard) (d : VReg) (x : Word)
  | movs  (g : Guard) (o : MovsOps)
  | gets  (g : Guard) (d : VReg) (r : SReg)
  | sets  (g : Guard) (r : SReg) (a : VReg)
  | rngd  (g : Guard) (la : BitVec 4) (o : RngdOps)
  | rngs  (g : Guard) (a b : VReg)
  -- block formats and floating point (07 R205 to R216)
  | bxq   (g : Guard) (la : BitVec 4) (o : BxOps)
  | bxd   (g : Guard) (o : BxOps)
  | bxex  (g : Guard) (o : BxexOps)
  | fadd  (g : Guard) (o : Flt3)
  | fsub  (g : Guard) (o : Flt3)
  | fmul  (g : Guard) (o : Flt3)
  | ffma  (g : Guard) (o : Flt4)
  | fmin  (g : Guard) (o : Flt3)
  | fmax  (g : Guard) (o : Flt3)
  | fset  (g : Guard) (o : FsetOps)
  | fclass (g : Guard) (o : Flt2)
  | fcvt  (g : Guard) (o : FcvtOps)
  | ftoi  (g : Guard) (o : FiOps)
  | itof  (g : Guard) (o : FiOps)
  | frnd  (g : Guard) (o : Flt2)
  | fdiv  (g : Guard) (la : BitVec 4) (o : Flt3)
  | fsqrt (g : Guard) (la : BitVec 4) (o : Flt2)
  | frcp  (g : Guard) (la : BitVec 4) (o : Flt2)
  | frsq  (g : Guard) (la : BitVec 4) (o : Flt2)
  | fexp2 (g : Guard) (la : BitVec 4) (o : Flt2)
  | flog2 (g : Guard) (la : BitVec 4) (o : Flt2)
  | fsin  (g : Guard) (la : BitVec 4) (o : Flt2)
  | fcos  (g : Guard) (la : BitVec 4) (o : Flt2)
  | ftanh (g : Guard) (la : BitVec 4) (o : Flt2)
  -- cross-lane (07 R217 to R221)
  | shfl  (g : Guard) (la : BitVec 4) (o : ShflOps)
  | vote  (g : Guard) (mode : VoteMode) (d a : PReg)
  | ballot (g : Guard) (d : VReg) (a : PReg)
  | lred  (g : Guard) (la : BitVec 4) (o : RedOps)
  | lscan (g : Guard) (la : BitVec 4) (o : RedOps)
  | elect (g : Guard) (d : PReg)
  | readl (g : Guard) (la : BitVec 4) (o : ReadlOps)
  -- memory, copies, barriers (04)
  | ld     (g : Guard) (la : BitVec 4) (o : MemOps)
  | st     (g : Guard) (o : MemOps)
  | atom   (g : Guard) (la : BitVec 4) (o : AtomOps)
  | ordinit (g : Guard) (o : OrdOps)
  | aaddf  (g : Guard) (o : OrdOps)
  | fence  (g : Guard) (ord : Order) (scope : Scope)
  | qfence (g : Guard) (scope : Scope) (queues : Byte)
  | pref   (g : Guard) (scope : Scope) (icache : Bool) (m : MemOp)
  | cpy    (g : Guard) (la : BitVec 4) (o : CpyOps)
  | cpys   (g : Guard) (la : BitVec 4) (o : CpysOps)
  | sleepto (g : Guard) (o : CellOps)
  | srput  (g : Guard) (scope : Scope) (ring : BitVec 3) (a : VReg)
  | srget  (g : Guard) (la : BitVec 4) (scope : Scope) (ring : BitVec 3) (d : VReg)
  | tbinit (g : Guard) (o : CellOps)
  | tbexp  (g : Guard) (o : CellOps)
  | tbarr  (g : Guard) (o : CellOps)
  | tbwait (g : Guard) (o : CellOps)
  | tbtest (g : Guard) (la : BitVec 4) (q : PReg) (o : CellOps)
  -- promise cells (05 R148)
  | cinit  (g : Guard) (o : CellOps)
  | cinitCount (g : Guard) (o : CellOps)
  | cfill  (g : Guard) (o : CellOps)
  | cfillCnt (g : Guard) (o : CellOps)
  | cwait  (g : Guard) (o : CellOps)
  | cequ   (g : Guard) (o : CellOps)
  | ctest  (g : Guard) (la : BitVec 4) (q : PReg) (o : CellOps)
  | cpeek  (g : Guard) (la : BitVec 4) (o : CellOps)
  -- matrix engine (08 R241)
  | mclaim (g : Guard) (slot : BitVec 6)
  | mrel   (g : Guard) (slot : BitVec 6)
  | mld    (g : Guard) (o : MldOps)
  | mldc   (g : Guard) (o : MldcOps)
  | mst    (g : Guard) (o : MldcOps)
  | mzero  (g : Guard) (t : BitVec 4) (acc64 : Bool) (tile : BitVec 11)
  | mma    (g : Guard) (o : MmaOps)
  | mtrn   (g : Guard) (o : MtrnOps)
  | mprm   (g : Guard) (o : MprmOps)
  | mred   (g : Guard) (o : MredOps)
  | mwait  (g : Guard) (d : VReg) (t : BitVec 4)
  | mtest  (g : Guard) (d : PReg) (t : BitVec 4)
  -- signature stage (09 R255)
  | sighSrp (g : Guard) (o : SighOps)
  | sighKey (g : Guard) (o : SighKeyOps)
  | sigb   (g : Guard) (o : SigbOps)
  | sigs   (g : Guard) (o : SigsOps)
  | sigg   (g : Guard) (o : SigsOps)
  | sigmap (g : Guard) (o : SigmapOps)
  -- threads and work lists (13 R301)
  | fork   (g : Guard) (o : ForkOps)
  | forkr  (g : Guard) (o : ForkOps)
  | iter   (g : Guard) (q : PReg) (d : VReg)
  | join   (g : Guard)
  | joinr  (g : Guard)
  | fdrop  (g : Guard) (q : PReg)
  | fdepth (g : Guard) (d : VReg)
  | bind   (g : Guard) (w : BitVec 2)
  | unbind (g : Guard)
  | reconv (g : Guard)
  | yield  (g : Guard) (beat : Bool)
  | acquire (g : Guard)
  | spawn  (g : Guard) (o : SpawnOps)
  | tdone  (g : Guard) (a : UPair) (v : VReg)
  | tdoneR (g : Guard)
  | wlpush (g : Guard) (o : SpawnOps)
  | wlpop  (g : Guard) (la : BitVec 4) (o : WlpopOps)
  | wlins  (g : Guard) (o : SpawnOps)
  | wlcnt  (g : Guard) (la : BitVec 4) (o : WlcntOps)
  -- system (19 R406)
  | trap   (g : Guard) (code : BitVec 11)
  | region (g : Guard) (tag : BitVec 11)
  | bkpt   (g : Guard) (imm : BitVec 11)
  | emuret (g : Guard)
  -- the device's own steps: `p` is a thread's place, `k` the number of a message, operation or record
  | sleeptoExpiry (p : Nat)
  | reconvTimeout (core bank : Nat) (pc : DWord)
  | copyLanding (core q op sector : Nat)
  | engineQueueAccept (p : Nat)
  | tileOpStart (core q : Nat)
  | tileOpComplete (core q op : Nat)
  | sigOpStart (core : Nat)
  | sigOpComplete (core : Nat)
  | orderedAddArrival (p : Nat)
  | walkStep (k : Nat)
  | walkReply (k : Nat)
  | fillEvent (k : Nat)
  | countEvent (k : Nat)
  | linkEvent (k : Nat)
  | waitEvent (k : Nat)
  | queryEvent (k : Nat)
  | initEvent (k : Nat)
  | waiterRecordForward (k : Nat)
  | causalApply (k : Nat)
  | beat
  | laneLend (p : Nat)
  | packetLookahead (q : Nat)
  | launchPacket (q : Nat)
  | tasksPacket (q : Nat)
  | callbufPacket (q : Nat)
  | joinPacket (q : Nat)
  | qfencePacket (q : Nat)
  | signalPacket (q : Nat)
  | waitPacket (q : Nat)
  | copyPacket (q : Nat)
  | teamPlacement
  | gangStart (team gang : Nat)
  | teamEnd (team : Nat)
  | packetCompletion (k : Nat)
  | teamSwapOut (team : Nat)
  | teamResume (team : Nat)
  | faultRecordWrite (k : Nat)
  | inval
  | grant
  | release
  | keyload
  | keyclear
  | resume
  | resumeall
  | preempt
  | restart
  | reset
  | preemptDrained (c : Nat)
  | preemptDeadline (c : Nat)
  | certify
  | fwload
  | transportAck (core op sector : Nat)
  | longLatencyCompletion (p k : Nat)
  | writeAcknowledgement (k : Nat)
  | copyOperationStart (core q : Nat)
  | waitPacketQueryAttempt (q : Nat)
  -- requests from outside, and what befalls the device
  | remoteAccess (ctx key : Nat) (kx : Bool) (addr : Nat) (req : ReqKind)
  | hostRequest (pasid : BitVec 20) (addr : DWord) (req : ReqKind)
  | atsInvalidation (pasid : BitVec 20) (addr : Nat) (size : Nat)
  | pageRequestResponse (p : Nat) (ok : Bool)
  | doorbell (fn off : Nat) (value : DWord)
  | queueEnable (q : Nat) (desc : BitVec 512)
  | queueRecovery (q : Nat) (desc : BitVec 512)
  | contextEnable (c : Nat)
  | contextDisable (c : Nat)
  | partitionWrite (c : Nat) (bits : BitVec 144)
  | forcedReset (c : Nat)
  | bellowsWrite (v : Word)
  | moduleWrite (v : Word)
  | interruptMapWrite (c : Nat) (v : Word)
  | registerWrite (off : Nat) (bytes : List Byte)
  | dramTrainingDone (failed : BitVec 144)
  | deviceReset
  | thermalThrottle (r : Readings)
  | thermalShutdown (r : Readings)
  | thermalRecovery (r : Readings)
  | moduleUnreachable (m : BitVec 12)
  | transportFailed (core op sector : Nat)
  | eccError (site : EccSite) (correctable : Bool)
  | thermalThrottleEnd (r : Readings)
  | holtlinkFlitRetransmit (port : Nat)
  | ethernetSectorRetransmit (port : Nat)
  | dramChannelCheckDone (failed : BitVec 144)
  deriving DecidableEq, Repr

end Sys2Proof
end

