-- ==== Sys2Proof/Machine/Legal.lean ====
section
/-! DEFINITION. What a decoded instruction must satisfy to be legal beyond the zero fields its layout checks:
formats, rounding and ordering codes, pairs, quads, uniform fields and ranges (02_encoding.md R51, R54, R55, R63). -/

namespace Sys2Proof.Legal

/-- The width in bits of an integer format (06_numbers.md R159). -/
def iwidth : IFmt → Nat
  | .i8 | .n8 => 8
  | .i16 | .n16 => 16
  | .i32 | .n32 => 32
  | .i64 | .n64 => 64
  | .b128 => 128

/-- Whether an integer format is signed (06 R159). -/
def isigned : IFmt → Bool
  | .i8 | .i16 | .i32 | .i64 => true
  | _ => false

/-- Whether an operand of an integer format is a pair. -/
def ipair (f : IFmt) : Bool := iwidth f == 64

/-- The width in bits of a floating format (06 R160). -/
def fwidth : FFmt → Nat
  | .f64 => 64
  | .f32 => 32
  | .f16 | .bf16 => 16
  | .e4m3 | .e5m2 | .bx8 => 8
  | .bx4 => 4

/-- The precision p of a floating format (06 R160, Table 1); block formats have none. -/
def fprec : FFmt → Nat
  | .f64 => 53
  | .f32 => 24
  | .f16 => 11
  | .bf16 => 8
  | .e4m3 => 4
  | .e5m2 => 3
  | .bx8 | .bx4 => 0

/-- Whether an operand of a floating format is a pair. -/
def fpair (f : FFmt) : Bool := f == .f64

/-- An even register number (02 R51). -/
def even7 (n : BitVec 7) : Bool := n.extractLsb' 0 1 == 0#1
/-- A register number that is a multiple of four (02 R51). -/
def quad7 (n : BitVec 7) : Bool := n.extractLsb' 0 2 == 0#2
/-- An even s register number (02 R51). -/
def even6 (n : BitVec 6) : Bool := n.extractLsb' 0 1 == 0#1

/-- A v register that is a pair when `w64` (02 R51, R63). -/
def vOk (w64 : Bool) (n : VReg) : Bool := !w64 || even7 n

/-- A source: a pair when `w64`; sp and ln only for a 64-bit operand whose entry permits them (07 R181). -/
def srcOk (w64 spln : Bool) : Src → Bool
  | .v n => !w64 || even7 n
  | .s n => !w64 || even6 n
  | .sp | .ln => w64 && spln

/-- A v register only, where no uniform bit is permitted (07 R181). -/
def srcV : Src → Bool
  | .v _ => true
  | _ => false

/-- An integer operand B: any immediate or literal, or a source (07 R182). -/
def opbOk (w64 spln : Bool) : OpB → Bool
  | .reg r => srcOk w64 spln r
  | .imm7 _ | .lit _ => true

/-- A literal that the format holds: the high bits of a 16-bit literal are zero (02 R59; 07 R182). -/
def flitOk (f : FFmt) (x : Word) : Bool :=
  match f with
  | .f16 | .bf16 => x.extractLsb' 16 16 == 0#16
  | .e4m3 | .e5m2 => x.extractLsb' 8 24 == 0#24
  | _ => true

/-- A floating operand B: a source, or a literal; the 7-bit immediate is of the integer class only (07 R182). -/
def fopbOk (f : FFmt) : OpB → Bool
  | .reg r => srcOk (fpair f) false r
  | .imm7 _ => false
  | .lit x => flitOk f x

/-- Signed or unsigned formats of 8 to 64 bits (07 R183, Table 1). -/
def fmtIN : IFmt → Bool
  | .b128 => false
  | _ => true
/-- Signed formats (07 R183). -/
def fmtI : IFmt → Bool := isigned
/-- Raw formats of 8 to 64 bits, with the codes of .n8 to .n64 (02 R54; 07 R183). -/
def fmtB : IFmt → Bool
  | .n8 | .n16 | .n32 | .n64 => true
  | _ => false
/-- The 32-bit and 64-bit formats of BFX, MOVI, BRC, LRED and ATOM. -/
def fmt3264 : IFmt → Bool
  | .i32 | .i64 | .n32 | .n64 => true
  | _ => false
/-- .b32 and .b64. -/
def fmtB3264 : IFmt → Bool
  | .n32 | .n64 => true
  | _ => false
/-- The widths of operand B of ADD64, SUB64 and LEA. -/
def fmtX : IFmt → Bool
  | .i32 | .n32 | .i64 => true
  | _ => false
/-- .i32 and .n32 of MUL64. -/
def fmtMul : IFmt → Bool
  | .i32 | .n32 => true
  | _ => false
/-- .f64, .f32, .f16, .bf16. -/
def fmtF4 : FFmt → Bool
  | .f64 | .f32 | .f16 | .bf16 => true
  | _ => false
/-- The six formats that are not block formats. -/
def fmtF6 : FFmt → Bool
  | .bx8 | .bx4 => false
  | _ => true
/-- .f64, .f32, .f16 (06 R169, Table 3). -/
def fmtF3 : FFmt → Bool
  | .f64 | .f32 | .f16 => true
  | _ => false
/-- .f32, .f16 (06 R169, Table 3). -/
def fmtF2 : FFmt → Bool
  | .f32 | .f16 => true
  | _ => false

/-- Three-operand integer forms (07 R194). -/
def alu3Ok (fs : IFmt → Bool) (o : Alu3) : Bool :=
  fs o.fmt && vOk (ipair o.fmt) o.d && srcOk (ipair o.fmt) false o.a && opbOk (ipair o.fmt) false o.b
/-- Shifts and BFX: operand B is one register whatever the width (07 R197). -/
def shiftOk (fs : IFmt → Bool) (o : Alu3) : Bool :=
  fs o.fmt && vOk (ipair o.fmt) o.d && srcOk (ipair o.fmt) false o.a && opbOk false false o.b
/-- IMAD: every operand has the format's width (07 R194). -/
def imadOk (o : Alu4) : Bool :=
  fmtIN o.fmt && vOk (ipair o.fmt) o.d && srcOk (ipair o.fmt) false o.a && opbOk (ipair o.fmt) false o.b
    && srcOk (ipair o.fmt) false o.c
/-- BFI: operand C is one register (07 R197, R198). -/
def bfiOk (o : Alu4) : Bool :=
  fmtB o.fmt && vOk (ipair o.fmt) o.d && srcOk (ipair o.fmt) false o.a && opbOk (ipair o.fmt) false o.b
    && srcOk false false o.c
/-- Two-operand integer forms (07 R194). -/
def alu2Ok (fs : IFmt → Bool) (o : Alu2) : Bool :=
  fs o.fmt && vOk (ipair o.fmt) o.d && srcOk (ipair o.fmt) false o.a
/-- POPC, CLZ and CTZ: the count goes to one register (07 R194). -/
def countOk (o : Alu2) : Bool := fmtB o.fmt && srcOk (ipair o.fmt) false o.a

/-- A destination that is a pair, sp or ln (07 R181, R199). -/
def dst64Ok : Dst → Bool
  | .v n => even7 n
  | .sp | .ln => true

/-- ADD64, SUB64 and LEA (07 R199): an immediate operand B counts as .i32. -/
def addr64Ok (o : Addr64) : Bool :=
  fmtX o.fmt && dst64Ok o.d && srcOk true true o.a &&
    (match o.b with
      | .reg r => srcOk (ipair o.fmt) true r
      | .imm7 _ | .lit _ => true)

/-- MOV (07 R201): pairs for .b64, sp and ln for .b64 only, quads for .b128: of v registers alone, since s registers form
pairs and no quads (02 R51, Table 3; log 21). -/
def movOk (o : MovOps) : Bool :=
  (fmtB o.fmt || o.fmt == .b128) &&
    (match o.d with
      | .v n => if o.fmt == .b128 then quad7 n else vOk (ipair o.fmt) n
      | .sp | .ln => o.fmt == .n64) &&
    (match o.a with
      | .reg (.v n) => if o.fmt == .b128 then quad7 n else vOk (ipair o.fmt) n
      | .reg (.s n) => o.fmt != .b128 && (!ipair o.fmt || even6 n)
      | .reg .sp | .reg .ln => o.fmt == .n64
      | .imm7 _ | .lit _ => true)

/-- MOVS (07 R204): a v source or an immediate. -/
def movsOk (o : MovsOps) : Bool :=
  fmtB3264 o.fmt && (!ipair o.fmt || even6 o.d) &&
    (match o.a with
      | .reg (.v n) => vOk (ipair o.fmt) n
      | .reg _ => false
      | .imm7 _ | .lit _ => true)

/-- RNGD (07 R222): a v register, or an immediate from 0 to 63. -/
def rngdOk (o : RngdOps) : Bool :=
  fmtB3264 o.fmt && vOk (ipair o.fmt) o.d &&
    (match o.b with
      | .reg r => srcV r
      | .imm7 x => x.extractLsb' 6 1 == 0#1
      | .lit _ => false)

/-- Whether a special register is 64 bits wide (02 R52, Table 3a). -/
def sregPair : SReg → Bool
  | .chron | .beat | .energy | .fsp | .stklim | .region | .pnone | .pskip | .pdefer => true
  | _ => false

/-- Rounding codes permitted where RS is not (06 R167). -/
def rndOk (r : Rnd) : Bool := r != .rs

/-- FADD to FDIV: formats, packing and rounding (07 R205, R206, R213). -/
def flt3Ok (fs : FFmt → Bool) (x2ok rounds : Bool) (o : Flt3) : Bool :=
  fs o.fmt && (!o.x2 || (x2ok && (o.fmt == .f16 || o.fmt == .bf16))) && (if rounds then rndOk o.rnd else o.rnd == .rn)
    && vOk (fpair o.fmt) o.d && srcOk (fpair o.fmt) false o.a && fopbOk o.fmt o.b
/-- FFMA (07 R205, R206). -/
def flt4Ok (o : Flt4) : Bool :=
  fmtF4 o.fmt && (!o.x2 || o.fmt == .f16 || o.fmt == .bf16) && rndOk o.rnd
    && vOk (fpair o.fmt) o.d && srcOk (fpair o.fmt) false o.a && fopbOk o.fmt o.b && srcOk (fpair o.fmt) false o.c
/-- One-source floating forms whose result has the format (07 R212, R213). -/
def flt2Ok (fs : FFmt → Bool) (o : Flt2) : Bool :=
  fs o.fmt && rndOk o.rnd && vOk (fpair o.fmt) o.d && srcOk (fpair o.fmt) false o.a
/-- FCLASS: the mask goes to one register, rs 0 (07 R209). -/
def fclassOk (o : Flt2) : Bool := fmtF6 o.fmt && o.rnd == .rn && srcOk (fpair o.fmt) false o.a
/-- FSET (07 R208). -/
def fsetOk (o : FsetOps) : Bool := fmtF4 o.fmt && srcOk (fpair o.fmt) false o.a && fopbOk o.fmt o.b
/-- FCVT (07 R210): RS only to a format of smaller precision (06 R167). -/
def fcvtOk (o : FcvtOps) : Bool :=
  fmtF6 o.fmt && fmtF6 o.src && (rndOk o.rnd || decide (fprec o.fmt < fprec o.src))
    && vOk (fpair o.fmt) o.d && srcOk (fpair o.src) false o.a
/-- FTOI (07 R211). -/
def ftoiOk (o : FiOps) : Bool :=
  fmtF4 o.fmt && fmtIN o.int && rndOk o.rnd && vOk (ipair o.int) o.d && srcOk (fpair o.fmt) false o.a
/-- ITOF (07 R211). -/
def itofOk (o : FiOps) : Bool :=
  fmtF4 o.fmt && fmtIN o.int && rndOk o.rnd && vOk (fpair o.fmt) o.d && srcOk (ipair o.int) false o.a
/-- BXEX (07 R216). -/
def bxexOk (o : BxexOps) : Bool :=
  quad7 o.base && (o.bx4 || o.j.extractLsb' 3 1 == 0#1) && (!o.bx4 || !o.bs)

/-- BRC (07 R187, R183). -/
def brcOk (o : BrcOps) : Bool :=
  match o.fmt with
  | .int f => fmt3264 f && vOk (ipair f) o.a && vOk (ipair f) o.b
  | .flt f => fmtF4 f && vOk (fpair f) o.a && vOk (fpair f) o.b

/-- A v register or an immediate of the 64-bit form (07 R218, R219). -/
def opbVOk : OpB → Bool
  | .reg r => srcV r
  | .imm7 _ => true
  | .lit _ => false

/-- LRED and LSCAN (07 R220): logical operations are integer only; an integer reduction has no rounding. A floating .min
or .max takes any mode but RS, which it does not use. DEDUCED (log 23). -/
def redOk (scan : Bool) (o : RedOps) : Bool :=
  (scan || !o.exc) &&
  match o.fmt with
  | .int f => fmt3264 f && o.rnd == .rn && vOk (ipair f) o.d && vOk (ipair f) o.a
  | .flt f => fmtF4 f && rndOk o.rnd && vOk (fpair f) o.d && vOk (fpair f) o.a
      && (o.op == .add || o.op == .min || o.op == .max)

/-- A memory operand (04 R107): pair bases outside the window, no sp inside it, a shift only with an index,
an index only where `idx` permits it, an offset in srcc only where `off7` gives srcc to it. -/
def memOk (idx off7 : Bool) (m : MemOp) : Bool :=
  (match m.base with
    | .v n => m.win || even7 n
    | .s n => m.win || even6 n
    | .sp => !m.win) &&
  (idx || m.idx.isNone) && (m.idx.isSome || m.shift == 0#2) &&
  (match m.off with
    | .imm7 x => off7 || x == 0#7
    | .lit _ => true)

/-- A v register of 32, 64 or 128 bits (02 R51). -/
def vwOk (f : IFmt) (n : VReg) : Bool := if f == .b128 then quad7 n else vOk (ipair f) n

/-- LD (04 R108, R112, R83). -/
def ldOk (o : MemOps) : Bool :=
  (match o.fmt with | .i8 | .i16 | .n8 | .n16 | .n32 | .n64 | .b128 => true | _ => false) &&
  (match o.ord with | .relaxed => o.scope == .th | .acq | .sc => true | _ => false) &&
  vwOk o.fmt o.d && memOk true true o.m
/-- ST (04 R108, R112, R83). -/
def stOk (o : MemOps) : Bool :=
  (match o.fmt with | .n8 | .n16 | .n32 | .n64 | .b128 => true | _ => false) &&
  (match o.ord with | .relaxed => o.scope == .th | .rel | .sc => true | _ => false) &&
  vwOk o.fmt o.d && memOk true true o.m
/-- ATOM (04 R108, R114): srcc holds the compare value of .cas. -/
def atomOk (o : AtomOps) : Bool :=
  fmt3264 o.fmt && vOk (ipair o.fmt) o.d && vOk (ipair o.fmt) o.b && memOk false (o.op != .cas) o.m &&
  (if o.op == .cas then vOk (ipair o.fmt) o.c else o.c == 0#7)
/-- ORDINIT (04 R108, R116). -/
def ordinitOk (o : OrdOps) : Bool := o.ord == .relaxed && vOk o.f64 o.d && memOk false true o.m
/-- AADDF (04 R108, R117). -/
def aaddfOk (o : OrdOps) : Bool := even7 o.d && vOk o.f64 o.b && memOk false true o.m
/-- CPY (04 R122). -/
def cpyOk (o : CpyOps) : Bool :=
  (match o.fmt with | .n32 | .n64 | .b128 => true | _ => false) && even7 o.d && (o.swin || even7 o.src) &&
  memOk false false o.m
/-- CPYS (04 R126). -/
def cpysOk (o : CpysOps) : Bool := even7 o.d && even7 o.src && quad7 o.c && memOk false false o.m
/-- A barrier or cell instruction: which of `d` and `b` are registers, pairs or quads (04 R108; 05 R148). -/
def cellOk (d b : VReg → Bool) (o : CellOps) : Bool := d o.d && b o.b && memOk false true o.m
/-- A field the entry does not use (02 R63). -/
def none7 (n : VReg) : Bool := n == 0#7
/-- A field that names any v register. -/
def any7 (_ : VReg) : Bool := true

/-- An FP64 operation names an even tile (08 R241). -/
def tileOk (w64 : Bool) (t : BitVec 11) : Bool := !w64 || t.extractLsb' 0 1 == 0#1
/-- K / 32 of a slot's format (00_scope.md R3, Table 2; 08 R241). -/
def chunks : FFmt → Nat
  | .f64 => 1
  | .f32 => 2
  | .f16 | .bf16 => 4
  | .e4m3 | .e5m2 | .bx8 => 8
  | .bx4 => 16
/-- MLDC and MST (08 R241, R243): RS on MST only. -/
def mldcOk (rs : Bool) (o : MldcOps) : Bool :=
  fmtF6 o.fmt && (rs || rndOk o.rnd) && even7 o.a && tileOk o.acc64 o.tile
/-- MMA (08 R245). -/
def mmaOk (o : MmaOps) : Bool :=
  tileOk (o.fmt == .f64) o.tile && (if fmtF6 o.fmt then o.e == 0#7 else quad7 o.e)
/-- MTRN and MPRM (08 R246). -/
def mtrnOk (fmt : FFmt) (tile : BitVec 11) (m : BitVec 7) : Bool :=
  fmtF6 fmt && tileOk (fmt == .f64) tile && decide (m.toNat < chunks fmt)
/-- MRED (08 R246). -/
def mredOk (o : MredOps) : Bool :=
  mtrnOk o.fmt o.tile o.m && rndOk o.rnd && (o.col || o.m == 0#7)
/-- SIGH.srp (09 R255). -/
def sighOk (o : SighOps) : Bool :=
  fmtF6 o.fmt && quad7 o.q && decide (1 ≤ o.h.toNat) && decide (o.h.toNat ≤ 16)

/-- A pair, v or s (13 R301). -/
def upairOk : UPair → Bool
  | .v n => even7 n
  | .s n => even6 n
/-- FORK and FORKR: pairs, and a block of `k` registers inside v0 to v127 (13 R301). -/
def forkOk (k : Nat) (o : ForkOps) : Bool :=
  upairOk o.entry && upairOk o.join && decide (o.r.toNat + k ≤ 128)

/-- A short word under its own guard (02 R46, R48). -/
def rawShort (g : Guard) (w : Word) : Bool :=
  !w.getLsbD 0 && g.neg == w.getLsbD 31 && g.q == w.extractLsb' 28 3
/-- The length a first parcel states (02 R46, R47). -/
def rawLength (p0 : Word) : BitVec 2 := if p0.getLsbD 0 then (if p0.getLsbD 1 then 3#2 else 2#2) else 1#2
/-- A 64-bit or 96-bit word under its own guard, of the length its first parcel states (02 R46, R49). -/
def rawLong (g : Guard) (w : RawWord) : Bool :=
  w.p0.getLsbD 0 && w.len == rawLength w.p0 && g.neg == w.p1.getLsbD 9 && g.q == w.p1.extractLsb' 6 3
/-- A reserved word under its own guard, or a word of a stated length that its line does not hold (02 R47, R63). -/
def reservedOk (g : Guard) (why : Illegal) (w : RawWord) : Bool :=
  match why with
  | .reserved => rawLong g w || (w.len == 1#2 && rawShort g w.p0 && w.p1 == 0#32)
  | .lineCrossing => g == ⟨false, 7#3⟩ && w.len == rawLength w.p0

/-- Legality of a decoded instruction (02 R63). The device's own steps are no words and are well formed as they stand.
DEDUCED (log 21). -/
def legal : Instr → Bool
  | .retiredOpcodeShort g w => rawShort g w && w.extractLsb' 2 5 == 31#5
  | .retiredOpcode g w => rawLong g w && w.p0.extractLsb' 5 5 == 30#5
  | .reservedEncoding g why w => reservedOk g why w
  | .brc _ o => brcOk o
  | .brx _ a | .callx _ a => srcOk true true a
  | .sel _ o => fmtB o.fmt && vOk (ipair o.fmt) o.d && srcOk (ipair o.fmt) false o.a && opbOk (ipair o.fmt) false o.b
  | .iadd _ _ o | .isub _ _ o => alu3Ok fmtIN o
  | .imul _ o | .imulh _ o | .imin _ o | .imax _ o => alu3Ok fmtIN o
  | .imad _ o => imadOk o
  | .idiv _ _ o | .irem _ _ o => alu3Ok fmtIN o
  | .iabs _ o => alu2Ok fmtI o
  | .ineg _ o => alu2Ok fmtIN o
  | .iset _ o => fmtIN o.fmt && srcOk (ipair o.fmt) false o.a && opbOk (ipair o.fmt) false o.b
  | .lea _ o => addr64Ok o
  | .add64 _ o | .sub64 _ o => addr64Ok o && o.sh == 0#3
  | .mul64 _ o => fmtMul o.fmt && even7 o.d && srcOk false false o.a && opbOk false false o.b
  | .and _ o | .or _ o | .xor _ o => alu3Ok fmtB o
  | .not _ o | .brev _ o => alu2Ok fmtB o
  | .shl _ o | .shr _ o | .rol _ o => shiftOk fmtB o
  | .sar _ o => shiftOk fmtI o
  | .bfx _ o => shiftOk fmt3264 o
  | .bfi _ o => bfiOk o
  | .popc _ o | .clz _ o | .ctz _ o => countOk o
  | .mov _ o => movOk o
  | .movi _ o => fmt3264 o.fmt && vOk (ipair o.fmt) o.d
  | .movs _ o => movsOk o
  | .gets _ d r => vOk (sregPair r) d
  | .sets _ r a => (r == .fpflags || r == .stklim) && vOk (sregPair r) a
  | .rngd _ _ o => rngdOk o
  | .rngs _ a b => even7 a && even7 b
  | .bxex _ o => bxexOk o
  | .fadd _ o | .fmul _ o => flt3Ok fmtF4 true true o
  | .fsub _ o => flt3Ok fmtF4 false true o
  | .ffma _ o => flt4Ok o
  | .fmin _ o | .fmax _ o => flt3Ok fmtF4 false false o
  | .fset _ o => fsetOk o
  | .fclass _ o => fclassOk o
  | .fcvt _ o => fcvtOk o
  | .ftoi _ o => ftoiOk o
  | .itof _ o => itofOk o
  | .frnd _ o => flt2Ok fmtF4 o
  | .fdiv _ _ o => flt3Ok fmtF3 false true o
  | .fsqrt _ _ o | .frcp _ _ o => flt2Ok fmtF3 o
  | .frsq _ _ o | .fexp2 _ _ o | .flog2 _ _ o | .fsin _ _ o | .fcos _ _ o | .ftanh _ _ o => flt2Ok fmtF2 o
  | .shfl _ _ o => fmtB3264 o.fmt && vOk (ipair o.fmt) o.d && vOk (ipair o.fmt) o.a && opbVOk o.b
  | .lred _ _ o => redOk false o
  | .lscan _ _ o => redOk true o
  | .readl _ _ o => fmtB3264 o.fmt && vOk (ipair o.fmt) o.d && vOk (ipair o.fmt) o.a && opbVOk o.b
  | .ld _ _ o => ldOk o
  | .st _ o => stOk o
  | .atom _ _ o => atomOk o
  | .ordinit _ o => ordinitOk o
  | .aaddf _ o => aaddfOk o
  | .fence _ ord _ => ord != .relaxed
  | .qfence _ _ m => m != 0#8
  | .pref _ sc _ m => sc == .th && memOk true true m
  | .cpy _ _ o => cpyOk o
  | .cpys _ _ o => cpysOk o
  | .sleepto _ o => cellOk even7 any7 o
  | .tbinit _ o | .tbexp _ o | .tbwait _ o | .tbtest _ _ _ o => cellOk none7 any7 o
  | .tbarr _ o | .cinit _ o => cellOk none7 none7 o
  | .cinitCount _ o | .cfill _ o | .cfillCnt _ o | .cwait _ o | .ctest _ _ _ o => cellOk even7 none7 o
  | .cequ _ o => cellOk none7 even7 o
  | .cpeek _ _ o => cellOk quad7 none7 o
  | .mld _ o => even7 o.a
  | .mldc _ o => mldcOk false o
  | .mst _ o => mldcOk true o
  | .mzero _ _ w t => tileOk w t
  | .mma _ o => mmaOk o
  | .mtrn _ o => mtrnOk o.fmt o.tile o.m
  | .mprm _ o => mtrnOk o.fmt o.tile o.m
  | .mred _ o => mredOk o
  | .sighSrp _ o => sighOk o
  | .sighKey _ o => quad7 o.q && quad7 o.k
  | .sigb _ o => fmtF6 o.fmt && quad7 o.q
  | .sigs _ o => quad7 o.q && !o.avg
  | .sigg _ o => quad7 o.q
  | .sigmap _ o => quad7 o.q
  | .fork _ o => forkOk 6 o
  | .forkr _ o => forkOk 7 o
  | .spawn _ o | .wlpush _ o | .wlins _ o => upairOk o.a
  | .tdone _ a v => upairOk a && even7 v
  | .wlpop _ _ o => upairOk o.a
  | .wlcnt _ _ o => even7 o.d && upairOk o.a
  | _ => true

end Sys2Proof.Legal
end

