-- ==== Sys2Proof/Machine/Numbers.lean ====
section
/-! DEFINITION. Number formats to the last bit (06_numbers.md): decoded values, exact sums and products,
RoundToFormat, the quantiser and the generator. -/

namespace Sys2Proof.Numbers

open Sys2Proof.Legal (fwidth fprec iwidth isigned)

/-- A decoded floating operand, or an exact result (06 R163): `fin s m e` is (−1)^s × m × 2^e with m > 0, and `frac`
is (−1)^s × (m / d) × 2^e. The unsigned zero is a value of the pseudocode only. -/
inductive Val where
  | snan
  | qnan
  | inf  (s : Bool)
  | zero (s : Bool)
  | uzero
  | fin  (s : Bool) (m : Nat) (e : Int)
  | frac (s : Bool) (m d : Nat) (e : Int)
  deriving DecidableEq, Repr

/-- The exponent of the least normal number (06 R160, Table 1). -/
def emin : FFmt → Int
  | .f64 => -1022
  | .f32 | .bf16 => -126
  | .f16 | .e5m2 => -14
  | _ => -6
/-- The exponent of the largest finite number. -/
def emax : FFmt → Int
  | .f64 => 1023
  | .f32 | .bf16 => 127
  | .f16 | .e5m2 => 15
  | _ => 8
/-- Whether a format has infinities. -/
def hasInf (f : FFmt) : Bool := f != .e4m3
/-- The integer significand of the largest finite number: 1.110 in E4M3, all ones elsewhere. -/
def maxSig (f : FFmt) : Nat := if f == .e4m3 then 14 else 2 ^ fprec f - 1
/-- The bits of +infinity. -/
def infBits (f : FFmt) : Nat := (2 ^ (fwidth f - fprec f) - 1) * 2 ^ (fprec f - 1)
/-- The sign bit. -/
def signBit (f : FFmt) : Nat := 2 ^ (fwidth f - 1)
/-- The bits of the default NaN (06 R160, Table 1). -/
def nanBits : FFmt → Nat
  | .f64 => 0x7FF8000000000000
  | .f32 => 0x7FC00000
  | .f16 => 0x7E00
  | .bf16 => 0x7FC0
  | .e5m2 => 0x7E
  | _ => 0x7F

/-- Flags, at the bit positions of %fpflags (06 R170, Table 4). -/
abbrev Flags := BitVec 5
/-- No flag. -/
def noFlags : Flags := 0#5
/-- Invalid. -/
def fInvalid : Flags := 1#5
/-- Division by zero. -/
def fDiv : Flags := 2#5
/-- Overflow. -/
def fOverflow : Flags := 4#5
/-- Underflow. -/
def fUnderflow : Flags := 8#5
/-- Inexact. -/
def fInexact : Flags := 16#5

/-- Whether bits are a NaN (06 R160). -/
def isNan (f : FFmt) (x : Nat) : Bool :=
  let a := x % signBit f
  if f == .e4m3 then a == 0x7F else decide (infBits f < a)
/-- Whether bits are a signalling NaN (06 R161). -/
def isSnan (f : FFmt) (x : Nat) : Bool :=
  f != .e4m3 && isNan f x && (x / 2 ^ (fprec f - 2)) % 2 == 0
/-- Whether the sign bit is set. -/
def isNeg (f : FFmt) (x : Nat) : Bool := x / signBit f % 2 == 1

/-- The value of bits (06 R160). -/
def decode (f : FFmt) (x : Nat) : Val :=
  let s := isNeg f x
  let a := x % signBit f
  if isNan f x then (if isSnan f x then .snan else .qnan)
  else if hasInf f && a == infBits f then .inf s
  else if a == 0 then .zero s
  else
    let ex := a / 2 ^ (fprec f - 1)
    let fr := a % 2 ^ (fprec f - 1)
    if ex == 0 then .fin s fr (emin f - (fprec f : Int) + 1)
    else .fin s (2 ^ (fprec f - 1) + fr) (emin f + (ex : Int) - 1 - (fprec f : Int) + 1)

/-- The value of an integer operand (06 R159); 0 gives +0 in every mode (06 R164; 07 R211). DESIGN CHOICE (log 117). -/
def ofInt (x : Int) : Val :=
  if x = 0 then .zero false else .fin (decide (x < 0)) x.natAbs 0

/-- The negation of a value; a NaN stays of its kind (07 R205). -/
def neg : Val → Val
  | .inf s => .inf (!s)
  | .zero s => .zero (!s)
  | .fin s m e => .fin (!s) m e
  | .frac s m d e => .frac (!s) m d e
  | v => v

/-- Whether a value is a NaN. -/
def Val.isNan : Val → Bool
  | .snan | .qnan => true
  | _ => false
/-- The sign of a value that has one. -/
def Val.sign : Val → Bool
  | .inf s | .zero s | .fin s _ _ | .frac s _ _ _ => s
  | _ => false
/-- Whether a value is a zero. -/
def Val.isZero : Val → Bool
  | .zero _ | .uzero => true
  | _ => false
/-- Whether a value is infinite. -/
def Val.isInf : Val → Bool
  | .inf _ => true
  | _ => false

/-- The exact product of two decoded values (06 R163). -/
def mul (a b : Val) : Val :=
  match a, b with
  | .snan, _ | _, .snan => .snan
  | .qnan, _ | _, .qnan => .qnan
  | .inf s, y => if y.isZero then .snan else .inf (s ^^ y.sign)
  | x, .inf s => if x.isZero then .snan else .inf (x.sign ^^ s)
  | .fin s m e, .fin t n k => .fin (s ^^ t) (m * n) (e + k)
  | .frac s m d e, .fin t n k => .frac (s ^^ t) (m * n) d (e + k)
  | .fin s m e, .frac t n d k => .frac (s ^^ t) (m * n) d (e + k)
  | .frac s m d e, .frac t n c k => .frac (s ^^ t) (m * n) (d * c) (e + k)
  | x, y => .zero (x.sign ^^ y.sign)

/-- The signed significand of a finite value at exponent `q`, which is at most its own. -/
def scaled (q : Int) : Val → Int
  | .fin s m e => (if s then -1 else 1) * ((m <<< (e - q).toNat : Nat) : Int)
  | _ => 0
/-- The exponent of a finite nonzero value. -/
def expOf : Val → Option Int
  | .fin _ _ e => some e
  | _ => none
/-- The least exponent of the finite terms. -/
def minExp : List Val → Option Int
  | [] => none
  | v :: r =>
    match expOf v, minExp r with
    | none, x => x
    | some e, none => some e
    | some e, some k => some (min e k)

/-- ExactSum (06 R163) of decoded values. -/
def exactSum (l : List Val) : Val :=
  if l.any (· == .snan) then .snan
  else if l.any (· == .qnan) then .qnan
  else if l.any (· == .inf false) && l.any (· == .inf true) then .snan
  else if l.any (· == .inf false) then .inf false
  else if l.any (· == .inf true) then .inf true
  else
    match minExp l with
    | none =>
      if l.all (· == .zero false) && !l.isEmpty then .zero false
      else if l.all (· == .zero true) && !l.isEmpty then .zero true
      else .uzero
    | some q =>
      let t := l.foldl (fun a v => a + scaled q v) (0 : Int)
      if t = 0 then .uzero else .fin (decide (t < 0)) t.natAbs q

/-- a × 2^k for a natural a, rounded up to a whole number of the larger of numerator and denominator: the fraction
m × 2^e / d as a numerator and a denominator. -/
def ratio (m d : Nat) (e : Int) : Nat × Nat :=
  if 0 ≤ e then (m <<< e.toNat, d) else (m, d <<< (-e).toNat)

/-- floor(log2 (m / d)) for positive m and d. -/
def flog2 (m d : Nat) : Int :=
  let l : Int := (m.log2 : Int) - (d.log2 : Int)
  let (n, c) := ratio m d (-l)
  if c ≤ n then l else l - 1

/-- Whether a magnitude with floor k and remainder r / d is rounded up (06 R164): `draw` is r32 under RS. -/
def roundUp (s : Bool) (m : Rnd) (draw : Nat) (k r d : Nat) : Bool :=
  if r = 0 then false
  else
    match m with
    | .rn => decide (d < 2 * r) || (2 * r == d && k % 2 == 1)
    | .rz => false
    | .ru => !s
    | .rd => s
    | .rs => decide (draw < r * 2 ^ 32 / d)

/-- Round of 06 R164 at the quantum 2^q: the rounded multiple of it, and whether it is inexact. -/
def roundAt (s : Bool) (m : Rnd) (draw : Nat) (n d : Nat) (e q : Int) : Nat × Bool :=
  let (a, b) := ratio n d (e - q)
  let k := a / b
  let r := a % b
  (if roundUp s m draw k r b then k + 1 else k, r != 0)

/-- Whether k × 2^q exceeds c × 2^p. -/
def above (k : Nat) (q : Int) (c : Nat) (p : Int) : Bool :=
  if p ≤ q then decide (c < k <<< (q - p).toNat) else decide (c <<< (p - q).toNat < k)

/-- Whether k × 2^q lies below c × 2^p. -/
def below (k : Nat) (q : Int) (c : Nat) (p : Int) : Bool :=
  if p ≤ q then decide (k <<< (q - p).toNat < c) else decide (k < c <<< (p - q).toNat)

/-- RoundToFormat of a positive rational (n / d) × 2^e with a sign (06 R164). -/
def roundPos (f : FFmt) (m : Rnd) (draw : Nat) (s : Bool) (n d : Nat) (e : Int) : Nat × Flags :=
  let p : Int := fprec f
  let ex0 := flog2 n d + e
  let ex := max ex0 (emin f)
  let (k, inexact) := roundAt s m draw n d e (ex - p + 1)
  let (k0, _) := roundAt s m draw n d e (ex0 - p + 1)
  let tiny := below k0 (ex0 - p + 1) 1 (emin f)
  let sb := if s then signBit f else 0
  let fl0 := (if inexact then fInexact else noFlags) ||| (if tiny && inexact then fUnderflow else noFlags)
  if above k (ex - p + 1) (maxSig f) (emax f - p + 1) then
    let toInf := hasInf f && (m == .rn || m == .rs || (m == .ru && !s) || (m == .rd && s))
    (sb + (if toInf then infBits f else (emax f - emin f).toNat * 2 ^ (fprec f - 1) + maxSig f),
      fl0 ||| fOverflow ||| fInexact)
  else (sb + (ex - emin f).toNat * 2 ^ (fprec f - 1) + k, fl0)

/-- RoundToFormat for a floating format (06 R164): the bits and the flags. -/
def round (f : FFmt) (m : Rnd) (draw : Nat) (v : Val) : Nat × Flags :=
  match v with
  | .snan => (nanBits f, fInvalid)
  | .qnan => (nanBits f, noFlags)
  | .inf s => if hasInf f then ((if s then signBit f else 0) + infBits f, noFlags) else (nanBits f, fInvalid)
  | .uzero => (if m == .rd then signBit f else 0, noFlags)
  | .zero s => (if s then signBit f else 0, noFlags)
  | .fin s n e => roundPos f m draw s n 1 e
  | .frac s n d e => roundPos f m draw s n d e

/-- The least value of an integer format (06 R159). -/
def imin (f : IFmt) : Int := if isigned f then -(2 ^ (iwidth f - 1) : Nat) else 0
/-- The largest value of an integer format. -/
def imax (f : IFmt) : Int := if isigned f then (2 ^ (iwidth f - 1) : Nat) - 1 else (2 ^ iwidth f : Nat) - 1

/-- RoundToFormat for an integer format (06 R165), for a rational. -/
def roundIntPos (g : IFmt) (m : Rnd) (s : Bool) (n d : Nat) (e : Int) : Int × Flags :=
  let (k, inexact) := roundAt s m 0 n d e 0
  let x : Int := if s then -(k : Int) else k
  if x < imin g then (imin g, fInvalid)
  else if imax g < x then (imax g, fInvalid)
  else (x, if inexact then fInexact else noFlags)

/-- RoundToFormat for an integer format (06 R165). -/
def roundInt (g : IFmt) (m : Rnd) (v : Val) : Int × Flags :=
  match v with
  | .snan | .qnan => (0, fInvalid)
  | .inf s => (if s then imin g else imax g, fInvalid)
  | .zero _ | .uzero => (0, noFlags)
  | .fin s n e => roundIntPos g m s n 1 e
  | .frac s n d e => roundIntPos g m s n d e

/-- a / b of decoded values with its special results (06 R169, Table 3): the value and the flags it forces. -/
def divide (a b : Val) : Val × Flags :=
  match a, b with
  | .snan, _ | _, .snan => (.snan, noFlags)
  | .qnan, _ | _, .qnan => (.qnan, noFlags)
  | .inf _, .inf _ => (.snan, noFlags)
  | .inf s, y => (.inf (s ^^ y.sign), noFlags)
  | x, .inf s => (.zero (x.sign ^^ s), noFlags)
  | .zero s, .fin t _ _ => (.zero (s ^^ t), noFlags)
  | .uzero, .fin _ _ _ => (.uzero, noFlags)
  | .fin s m e, .fin t n k => (.frac (s ^^ t) m n (e - k), noFlags)
  | .fin s _ _, y => (.inf (s ^^ y.sign), fDiv)
  | _, _ => (.snan, noFlags)

/-- The greatest r with r² ≤ n, by bits from `b` down. -/
def isqrtGo (n : Nat) : Nat → Nat → Nat
  | 0, r => r
  | b + 1, r => if (r + 2 ^ b) * (r + 2 ^ b) ≤ n then isqrtGo n b (r + 2 ^ b) else isqrtGo n b r
/-- The integer square root. -/
def isqrt (n : Nat) : Nat := isqrtGo n (n.log2 / 2 + 1) 0

/-- √(m × 2^e) to 70 bits and a sticky bit below them: enough for every format and mode (06 R169). -/
def sqrtPos (m : Nat) (e : Int) : Val :=
  let k : Nat := if (e - 140) % 2 = 0 then 140 else 141
  let n := m <<< k
  let r := isqrt n
  .fin false (2 * r + (if r * r = n then 0 else 1)) ((e - k) / 2 - 1)

/-- FSQRT (06 R169, Table 3). -/
def sqrtVal : Val → Val
  | .snan => .snan
  | .qnan => .qnan
  | .zero s => .zero s
  | .inf s => if s then .snan else .inf false
  | .fin s m e => if s then .snan else sqrtPos m e
  | v => v

/-- 1 / √(m × 2^e) to 70 bits and a sticky bit. -/
def rsqrtPos (m : Nat) (e : Int) : Val :=
  let (m, e) := if e % 2 = 0 then (m, e) else (2 * m, e - 1)
  let j := 140 + m.log2
  let j := if j % 2 = 0 then j else j + 1
  let n := 2 ^ j
  let r := isqrt (n / m)
  .fin false (2 * r + (if r * r * m = n then 0 else 1)) (-((j : Int) / 2) - e / 2 - 1)

/-- FRSQ (06 R169, Table 3). -/
def rsqrtVal : Val → Val × Flags
  | .snan => (.snan, noFlags)
  | .qnan => (.qnan, noFlags)
  | .zero s => (.inf s, fDiv)
  | .inf s => (if s then .snan else .zero false, noFlags)
  | .fin s m e => (if s then .snan else rsqrtPos m e, noFlags)
  | v => (v, noFlags)

/-! Comparisons, by the order of sign and magnitude. -/

/-- The order of a number's bits: −0 lies just below +0. -/
def orderKey (f : FFmt) (x : Nat) : Int :=
  let a := x % signBit f
  if isNeg f x then -(a : Int) - 1 else a
/-- The order in which −0 equals +0 (07 R208). -/
def valueKey (f : FFmt) (x : Nat) : Int :=
  let a := x % signBit f
  if isNeg f x then -(a : Int) else a

/-- FMIN and FMAX (07 R207): `big` for FMAX. -/
def minmax (f : FFmt) (big : Bool) (x y : Nat) : Nat × Flags :=
  let fl := if isSnan f x || isSnan f y then fInvalid else noFlags
  let m := 2 ^ fwidth f
  if isNan f x && isNan f y then (nanBits f, fl)
  else if isNan f x then (y % m, fl)
  else if isNan f y then (x % m, fl)
  else if decide (orderKey f x ≤ orderKey f y) == big then (y % m, fl) else (x % m, fl)

/-- The comparison of a code on two keys (02 R55, Table 5). -/
def cmpKeys (c : Cmp) (x y : Int) : Bool :=
  match c with
  | .eq => decide (x = y)
  | .ne => decide (x ≠ y)
  | .lt => decide (x < y)
  | .le => decide (x ≤ y)
  | .gt => decide (y < x)
  | .ge => decide (y ≤ x)

/-- The comparison of FSET (07 R208), with its flags. -/
def fcompare (f : FFmt) (c : Cmp) (x y : Nat) : Bool × Flags :=
  let s := isSnan f x || isSnan f y
  if isNan f x || isNan f y then
    match c with
    | .eq => (false, if s then fInvalid else noFlags)
    | .ne => (true, if s then fInvalid else noFlags)
    | _ => (false, fInvalid)
  else (cmpKeys c (valueKey f x) (valueKey f y), noFlags)

/-- The class mask of FCLASS (07 R209). -/
def classMask (f : FFmt) (x : Nat) : Nat :=
  if isNan f x then (if isSnan f x then 1 else 2)
  else
    let n := isNeg f x
    match decode f x with
    | .inf _ => if n then 4 else 512
    | .zero _ => if n then 32 else 64
    | _ =>
      if x % signBit f / 2 ^ (fprec f - 1) == 0 then (if n then 16 else 128) else (if n then 8 else 256)

/-- FRND (07 R212): rounded to an integral value in its own format. -/
def roundIntegral (f : FFmt) (m : Rnd) (x : Nat) : Nat × Flags :=
  match decode f x with
  | .snan => (nanBits f, fInvalid)
  | .qnan => (nanBits f, noFlags)
  | .fin s n e =>
    let (k, inexact) := roundAt s m 0 n 1 e 0
    let fl := if inexact then fInexact else noFlags
    if k = 0 then (if s then signBit f else 0, fl) else ((roundPos f .rz 0 s k 1 0).1, fl)
  | _ => (x % 2 ^ fwidth f, noFlags)

/-! Block formats (06 R173 to R176). -/

/-- The magnitude bits of a block element. -/
def bxW (bx4 : Bool) : Nat := if bx4 then 2 else 6
/-- The exponent bias of a block element. -/
def bxC (bx4 : Bool) : Int := if bx4 then 128 else 132

/-- The value of a block element with its exponent pair (06 R173, Table 5). -/
def bxDecode (bx4 : Bool) (x ehi elo : Nat) : Val :=
  let w := bxW bx4
  let m := x % 2 ^ w
  let s := x / 2 ^ w % 2 == 1
  let e := if x / 2 ^ (w + 1) % 2 == 1 then elo else ehi
  if e == 255 then .qnan
  else if m == 0 then .zero s
  else .fin s m ((e : Int) - bxC bx4)

/-- rne(|x| × 2^(c − E)) for a value (06 R176). -/
def rneScaled (bx4 : Bool) (v : Val) (e : Nat) : Nat :=
  match v with
  | .fin _ m k => (roundAt false .rn 0 m 1 k ((e : Int) - bxC bx4)).1
  | _ => 0

/-- The least exponent from `e` up that holds a magnitude, or 254 (06 R176, Fit). -/
def fitFrom (bx4 : Bool) (v : Val) : Nat → Nat → Nat
  | 0, _ => 254
  | n + 1, e => if rneScaled bx4 v e ≤ 2 ^ bxW bx4 - 1 then e else fitFrom bx4 v n (e + 1)

/-- Fit (06 R176). -/
def fit (bx4 : Bool) (v : Val) : Nat :=
  match v with
  | .fin .. => fitFrom bx4 v 255 0
  | _ => 0

/-- The magnitude of a value as a multiple of 2^q, q at most its exponent. -/
def magAt (q : Int) : Val → Nat
  | .fin _ m e => m <<< (e - q).toNat
  | _ => 0

/-- The value of largest magnitude (q below every exponent of FP32). -/
def maxMag : List Val → Val
  | [] => .zero false
  | v :: r => if magAt (-160) (maxMag r) < magAt (-160) v then v else maxMag r

/-- One element under an exponent pair (06 R176): the element's code and the flags of its lane. -/
def bxCode (bx4 : Bool) (v : Val) (ehi elo : Nat) : Nat × Flags :=
  let top := 2 ^ bxW bx4 - 1
  let q : Int := -300
  let th := rneScaled bx4 v ehi
  let tl := rneScaled bx4 v elo
  let mh := min th top
  let ml := min tl top
  let at_ (m e : Nat) : Nat := m <<< (((e : Int) - bxC bx4) - q).toNat
  let x := magAt q v
  let eh := if at_ mh ehi ≤ x then x - at_ mh ehi else at_ mh ehi - x
  let el := if at_ ml elo ≤ x then x - at_ ml elo else at_ ml elo - x
  let (sel, m, sat, err) := if el ≤ eh then (1, ml, decide (top < tl), el) else (0, mh, decide (top < th), eh)
  let s := if v.sign then 1 else 0
  (sel * 2 ^ (bxW bx4 + 1) + s * 2 ^ bxW bx4 + m,
   (if err != 0 then fInexact else noFlags) ||| (if sat then fOverflow else noFlags)
     ||| (if !v.isZero && m == 0 then fUnderflow else noFlags))

/-- The quantiser (06 R176) on FP32 bits: E_hi, E_lo, and each lane's element and flags. -/
def quantise (bx4 : Bool) (xs : List Nat) : Nat × Nat × List (Nat × Flags) :=
  let vs := xs.map (decode .f32)
  if vs.any fun v => v.isNan || v.isInf then
    (255, 255, xs.map fun x =>
      ((if isNeg .f32 x then 2 ^ bxW bx4 else 0),
       if (decode .f32 x).isInf || isSnan .f32 x then fInvalid else noFlags))
  else
    let ehi := fit bx4 (maxMag vs)
    let q : Int := (ehi : Int) - 127 - bxW bx4
    let small := vs.filter fun v => below (magAt (-300) v) (-300) 1 q
    let elo := if small.all (·.isZero) then ehi else fit bx4 (maxMag small)
    (ehi, elo, vs.map fun v => bxCode bx4 v ehi elo)

/-! The generator (06 R177, R178). -/

/-- SplitMix (06 R177). -/
def splitMix (z : DWord) : DWord :=
  let z := (z ^^^ (z >>> 30)) * 0xBF58476D1CE4E5B9#64
  let z := (z ^^^ (z >>> 27)) * 0x94D049BB133111EB#64
  z ^^^ (z >>> 31)

/-- Rand(c, n) of a thread at position t under key K (06 R178). -/
def rand (key c : DWord) (t n : Nat) : DWord :=
  splitMix (key + 0x9E3779B97F4A7C15#64 * (BitVec.ofNat 64 32 * c + BitVec.ofNat 64 (t % 32))
    + BitVec.ofNat 64 ((n + 128 * (t / 32)) * 2 ^ 40))

/-- r32 of an element (06 R168). -/
def draw32 (key c : DWord) (t n : Nat) : Nat := (rand key c t n).toNat / 2 ^ 32

end Sys2Proof.Numbers
end

