-- ==== Sys2Proof/WellFormed.lean ====
section
/-! DEFINITION. Well-formed instructions: the terms an encoding of the spec admits (02_encoding.md R46, R63). -/

namespace Sys2Proof

/-- A term that some word of the spec encodes, or one of the device's own steps. -/
def Instr.wellFormed (i : Instr) : Bool := Legal.legal i

end Sys2Proof
end

