-- ==== Sys2Proof/Decode.lean ====
section
/-! DEFINITION. The decoder, total on any bytes, and after it the encoder (02_encoding.md R46 to R64).
Both go through `Fields`, the fields of a 64-bit or 96-bit word: the decoder reads a word's fields and then the
operands of its opcode; the encoder writes the operands into fields and lays the fields out. -/

namespace Sys2Proof

namespace Decode

/-- The fields of a 64-bit or 96-bit word (02 R49, Table 2; R50): `lit` is 0 in the 64-bit form. -/
structure Fields where
  wide : Bool
  dst  : BitVec 7
  a    : BitVec 7
  b    : BitVec 7
  c    : BitVec 7
  g    : Guard
  la   : BitVec 4
  fmt  : BitVec 4
  rs   : BitVec 3
  tail : BitVec 11
  lit  : Word
  deriving DecidableEq, Repr

/-- Tail layout A (02 R56, Table 7). -/
structure TailA where
  ua : Bool
  ub : Bool
  uc : Bool
  ud : Bool
  ib : Bool
  x2 : Bool
  variant : BitVec 5
  deriving DecidableEq, Repr

/-- Tail layout M (02 R56, Table 7). -/
structure TailM where
  ua    : Bool
  win   : Bool
  shift : BitVec 2
  xi    : Bool
  ord   : BitVec 3
  variant : BitVec 3
  deriving DecidableEq, Repr

/-- A word whose fields are all zero, with a guard. -/
def blank (g : Guard) : Fields :=
  { wide := false, dst := 0#7, a := 0#7, b := 0#7, c := 0#7, g := g, la := 0#4, fmt := 0#4, rs := 0#3,
    tail := 0#11, lit := 0#32 }

/-- Layout A with nothing set. -/
def tailA0 : TailA := ⟨false, false, false, false, false, false, 0#5⟩
/-- Layout M with nothing set. -/
def tailM0 : TailM := ⟨false, false, 0#2, false, 0#3, 0#3⟩

/-- Layout A read from a tail. -/
def readA (t : BitVec 11) : TailA :=
  ⟨t.getLsbD 0, t.getLsbD 1, t.getLsbD 2, t.getLsbD 3, t.getLsbD 4, t.getLsbD 5, t.extractLsb' 6 5⟩
/-- Layout A written to a tail. -/
def writeA (t : TailA) : BitVec 11 :=
  t.variant ++ BitVec.ofBool t.x2 ++ BitVec.ofBool t.ib ++ BitVec.ofBool t.ud ++ BitVec.ofBool t.uc
    ++ BitVec.ofBool t.ub ++ BitVec.ofBool t.ua
/-- Layout M read from a tail. -/
def readM (t : BitVec 11) : TailM :=
  ⟨t.getLsbD 0, t.getLsbD 1, t.extractLsb' 2 2, t.getLsbD 4, t.extractLsb' 5 3, t.extractLsb' 8 3⟩
/-- Layout M written to a tail. -/
def writeM (t : TailM) : BitVec 11 :=
  t.variant ++ t.ord ++ BitVec.ofBool t.xi ++ t.shift ++ BitVec.ofBool t.win ++ BitVec.ofBool t.ua

/-- The guard in bits [9:6] of the second parcel (02 R49). -/
def guard64 (p1 : Word) : Guard := ⟨p1.getLsbD 9, p1.extractLsb' 6 3⟩
/-- The guard of a short word (02 R48). -/
def guard32 (p0 : Word) : Guard := ⟨p0.getLsbD 31, p0.extractLsb' 28 3⟩

/-- The fields of the word with parcels p0, p1 and, in the 96-bit form, p2 (02 R49, R50). -/
def readFields (wide : Bool) (p0 p1 p2 : Word) : Fields :=
  { wide := wide
    dst  := p0.extractLsb' 10 7
    a    := p0.extractLsb' 17 7
    b    := p0.extractLsb' 24 7
    c    := p1.extractLsb' 0 6 ++ p0.extractLsb' 31 1
    g    := guard64 p1
    la   := p1.extractLsb' 10 4
    fmt  := p1.extractLsb' 14 4
    rs   := p1.extractLsb' 18 3
    tail := p1.extractLsb' 21 11
    lit  := if wide then p2 else 0#32 }

/-- The first parcel of a 64-bit or 96-bit word (02 R49). -/
def parcel0 (op : BitVec 8) (f : Fields) : Word :=
  f.c.extractLsb' 0 1 ++ f.b ++ f.a ++ f.dst ++ op ++ (if f.wide then 3#2 else 1#2)
/-- The second parcel (02 R49). -/
def parcel1 (f : Fields) : Word :=
  f.tail ++ f.rs ++ f.fmt ++ f.la ++ BitVec.ofBool f.g.neg ++ f.g.q ++ f.c.extractLsb' 1 6
/-- The parcels of a word, first at the lowest address (02 R47). -/
def writeFields (op : BitVec 8) (f : Fields) : List Word :=
  [parcel0 op f, parcel1 f] ++ (if f.wide then [f.lit] else [])

/-- A check of a decoder: nothing is decoded where it fails (02 R63). -/
def chk (b : Bool) : Option Unit := if b then some () else none

/-! Codes (02 R54, R55). -/

/-- The integer class of Table 4. -/
def ifmtOf (x : BitVec 4) : Option IFmt :=
  match x.toNat with
  | 0 => some .i8
  | 1 => some .i16
  | 2 => some .i32
  | 3 => some .i64
  | 4 => some .n8
  | 5 => some .n16
  | 6 => some .n32
  | 7 => some .n64
  | 8 => some .b128
  | _ => none
/-- The code of an integer format. -/
def ifmtCode : IFmt → BitVec 4
  | .i8 => 0#4 | .i16 => 1#4 | .i32 => 2#4 | .i64 => 3#4 | .n8 => 4#4 | .n16 => 5#4 | .n32 => 6#4 | .n64 => 7#4
  | .b128 => 8#4
/-- The floating class of Table 4. -/
def ffmtOf (x : BitVec 4) : Option FFmt :=
  match x.toNat with
  | 0 => some .f64
  | 1 => some .f32
  | 2 => some .f16
  | 3 => some .bf16
  | 4 => some .e4m3
  | 5 => some .e5m2
  | 6 => some .bx8
  | 7 => some .bx4
  | _ => none
/-- The code of a floating format. -/
def ffmtCode : FFmt → BitVec 4
  | .f64 => 0#4 | .f32 => 1#4 | .f16 => 2#4 | .bf16 => 3#4 | .e4m3 => 4#4 | .e5m2 => 5#4 | .bx8 => 6#4 | .bx4 => 7#4
/-- Rounding codes. -/
def rndOf (x : BitVec 3) : Option Rnd :=
  match x.toNat with
  | 0 => some .rn
  | 1 => some .rz
  | 2 => some .ru
  | 3 => some .rd
  | 4 => some .rs
  | _ => none
/-- The code of a rounding mode. -/
def rndCode : Rnd → BitVec 3
  | .rn => 0#3 | .rz => 1#3 | .ru => 2#3 | .rd => 3#3 | .rs => 4#3
/-- Scope codes. -/
def scopeOf (x : BitVec 3) : Option Scope :=
  match x.toNat with
  | 0 => some .th
  | 1 => some .bnd
  | 2 => some .gang
  | 3 => some .team
  | 4 => some .dev
  | 5 => some .dom
  | 6 => some .sys
  | _ => none
/-- The code of a scope. -/
def scopeCode : Scope → BitVec 3
  | .th => 0#3 | .bnd => 1#3 | .gang => 2#3 | .team => 3#3 | .dev => 4#3 | .dom => 5#3 | .sys => 6#3
/-- Ordering codes. -/
def ordOf (x : BitVec 3) : Option Order :=
  match x.toNat with
  | 0 => some .relaxed
  | 1 => some .acq
  | 2 => some .rel
  | 3 => some .acqrel
  | 4 => some .sc
  | _ => none
/-- The code of an ordering. -/
def ordCode : Order → BitVec 3
  | .relaxed => 0#3 | .acq => 1#3 | .rel => 2#3 | .acqrel => 3#3 | .sc => 4#3
/-- Comparison codes. -/
def cmpOf (x : BitVec 3) : Option Cmp :=
  match x.toNat with
  | 0 => some .eq
  | 1 => some .ne
  | 2 => some .lt
  | 3 => some .le
  | 4 => some .gt
  | 5 => some .ge
  | _ => none
/-- The code of a comparison. -/
def cmpCode : Cmp → BitVec 3
  | .eq => 0#3 | .ne => 1#3 | .lt => 2#3 | .le => 3#3 | .gt => 4#3 | .ge => 5#3
/-- Special-register numbers (02 R52, Table 3a). -/
def sregOf (x : BitVec 7) : Option SReg :=
  match x.toNat with
  | 0 => some .chron
  | 1 => some .beat
  | 2 => some .lane
  | 3 => some .bank
  | 4 => some .core
  | 5 => some .tid
  | 6 => some .gang
  | 7 => some .team
  | 8 => some .energy
  | 9 => some .fpflags
  | 10 => some .fsp
  | 11 => some .stklim
  | 12 => some .region
  | 13 => some .pnone
  | 14 => some .pskip
  | 15 => some .pdefer
  | _ => none
/-- The number of a special register. -/
def sregCode : SReg → BitVec 7
  | .chron => 0#7 | .beat => 1#7 | .lane => 2#7 | .bank => 3#7 | .core => 4#7 | .tid => 5#7 | .gang => 6#7
  | .team => 7#7 | .energy => 8#7 | .fpflags => 9#7 | .fsp => 10#7 | .stklim => 11#7 | .region => 12#7
  | .pnone => 13#7 | .pskip => 14#7 | .pdefer => 15#7
/-- The operations of LRED and LSCAN (07 R220). -/
def redOpOf (x : BitVec 3) : Option RedOp :=
  match x.toNat with
  | 0 => some .add
  | 1 => some .min
  | 2 => some .max
  | 3 => some .and
  | 4 => some .or
  | 5 => some .xor
  | _ => none
/-- The code of a reduction. -/
def redOpCode : RedOp → BitVec 3
  | .add => 0#3 | .min => 1#3 | .max => 2#3 | .and => 3#3 | .or => 4#3 | .xor => 5#3
/-- The operations of ATOM (04 R114, Table 2): every code is used. -/
def atomOpOf (x : BitVec 3) : AtomOp :=
  match x.toNat with
  | 0 => .add
  | 1 => .min
  | 2 => .max
  | 3 => .and
  | 4 => .or
  | 5 => .xor
  | 6 => .exch
  | _ => .cas
/-- The code of an atomic operation. -/
def atomOpCode : AtomOp → BitVec 3
  | .add => 0#3 | .min => 1#3 | .max => 2#3 | .and => 3#3 | .or => 4#3 | .xor => 5#3 | .exch => 6#3 | .cas => 7#3
/-- The modes of SHFL (07 R218): every code is used. -/
def shflOf (x : BitVec 2) : ShflMode :=
  match x.toNat with
  | 0 => .idx
  | 1 => .up
  | 2 => .dn
  | _ => .xor
/-- The code of a SHFL mode. -/
def shflCode : ShflMode → BitVec 2
  | .idx => 0#2 | .up => 1#2 | .dn => 2#2 | .xor => 3#2
/-- The modes of VOTE (07 R219). -/
def voteOf (x : BitVec 2) : Option VoteMode :=
  match x.toNat with
  | 0 => some .all
  | 1 => some .any
  | 2 => some .uni
  | _ => none
/-- The code of a VOTE mode. -/
def voteCode : VoteMode → BitVec 2
  | .all => 0#2 | .any => 1#2 | .uni => 2#2
/-- The rules of SIGB (09 R255): every code is used. -/
def ruleOf (x : BitVec 2) : SigRule :=
  match x.toNat with
  | 0 => .group
  | 1 => .first
  | 2 => .mean
  | _ => .mednear
/-- The code of a SIGB rule. -/
def ruleCode : SigRule → BitVec 2
  | .group => 0#2 | .first => 1#2 | .mean => 2#2 | .mednear => 3#2
/-- The combine of ISET and FSET with its predicate field, which is zero without a combine (07 R196). -/
def combOf (x : BitVec 2) (c : BitVec 7) : Option Comb :=
  match x.toNat with
  | 0 => if c == 0#7 then some .none else none
  | 1 => if c.extractLsb' 3 4 == 0#4 then some (.and (c.extractLsb' 0 3)) else none
  | 2 => if c.extractLsb' 3 4 == 0#4 then some (.or (c.extractLsb' 0 3)) else none
  | _ => none

/-! Register fields (02 R51). -/

/-- A predicate in a 7-bit field: 0 to 7. -/
def predOf (x : BitVec 7) : Option PReg := if x.extractLsb' 3 4 == 0#4 then some (x.extractLsb' 0 3) else none
/-- A predicate's field. -/
def predF (q : PReg) : BitVec 7 := 0#4 ++ q
/-- A token in a 7-bit field: 0 to 15. -/
def tokOf (x : BitVec 7) : Option (BitVec 4) :=
  if x.extractLsb' 4 3 == 0#3 then some (x.extractLsb' 0 4) else none
/-- A token's field. -/
def tokF (t : BitVec 4) : BitVec 7 := 0#3 ++ t
/-- A slot, or an s register, in a 7-bit field: 0 to 63. -/
def slotOf (x : BitVec 7) : Option (BitVec 6) :=
  if x.extractLsb' 6 1 == 0#1 then some (x.extractLsb' 0 6) else none
/-- A slot's field. -/
def slotF (s : BitVec 6) : BitVec 7 := 0#1 ++ s
/-- A 0 or 1 in a 7-bit field. -/
def bitOf (x : BitVec 7) : Option Bool :=
  if x == 0#7 then some false else if x == 1#7 then some true else none
/-- The field of a 0 or 1. -/
def bitF (b : Bool) : BitVec 7 := if b then 1#7 else 0#7

/-- A source under its uniform bit (02 R51, Table 3). -/
def srcOf (u : Bool) (x : BitVec 7) : Option Src :=
  if u then
    if x.extractLsb' 6 1 == 0#1 then some (.s (x.extractLsb' 0 6))
    else if x == 64#7 then some .sp
    else if x == 65#7 then some .ln
    else none
  else some (.v x)
/-- The uniform bit of a source. -/
def srcU : Src → Bool
  | .v _ => false
  | _ => true
/-- The field of a source. -/
def srcF : Src → BitVec 7
  | .v n => n
  | .s n => slotF n
  | .sp => 64#7
  | .ln => 65#7

/-- A destination under its uniform bit: sp or ln only (07 R181). -/
def dstOf (u : Bool) (x : BitVec 7) : Option Dst :=
  if u then
    if x == 64#7 then some .sp else if x == 65#7 then some .ln else none
  else some (.v x)
/-- The uniform bit of a destination. -/
def dstU : Dst → Bool
  | .v _ => false
  | _ => true
/-- The field of a destination. -/
def dstF : Dst → BitVec 7
  | .v n => n
  | .sp => 64#7
  | .ln => 65#7

/-- A pair, v or s (13 R301). -/
def upairOf (u : Bool) (x : BitVec 7) : Option UPair :=
  if u then (slotOf x).map .s else some (.v x)
/-- The uniform bit of a pair. -/
def upairU : UPair → Bool
  | .v _ => false
  | .s _ => true
/-- The field of a pair. -/
def upairF : UPair → BitVec 7
  | .v n => n
  | .s n => slotF n

/-- Operand B (07 R182): in the 96-bit form it is the literal, and only that (02 R63). -/
def opbOf (wide ib ub : Bool) (b : BitVec 7) (lit : Word) : Option OpB :=
  if ib then
    if ub then none
    else if wide then (if b == 0#7 then some (.lit lit) else none)
    else some (.imm7 b)
  else if wide then none
  else (srcOf ub b).map .reg
/-- Whether operand B is an immediate. -/
def opbIb : OpB → Bool
  | .reg _ => false
  | _ => true
/-- Whether operand B is a literal. -/
def opbWide : OpB → Bool
  | .lit _ => true
  | _ => false
/-- The uniform bit of operand B. -/
def opbU : OpB → Bool
  | .reg r => srcU r
  | _ => false
/-- The srcb field of operand B. -/
def opbF : OpB → BitVec 7
  | .reg r => srcF r
  | .imm7 x => x
  | .lit _ => 0#7
/-- The literal of operand B. -/
def opbL : OpB → Word
  | .lit x => x
  | _ => 0#32

/-! Operand shapes. Each decoder checks that every field its shape does not use is zero (02 R63). -/

/-- The fields of a word that carries a guard only: everything else is zero. -/
def bare (f : Fields) : Option Unit :=
  chk (!f.wide && f.dst == 0#7 && f.a == 0#7 && f.b == 0#7 && f.c == 0#7 && f.la == 0#4 && f.fmt == 0#4
    && f.rs == 0#3 && f.tail == 0#11)

/-- The displacement of BRA and CALL (07 R186). -/
def dispOf (f : Fields) : Option Disp := do
  chk (f.la == 0#4 && f.fmt == 0#4 && f.rs == 0#3 && f.tail == 0#11)
  if f.wide then
    chk (f.dst == 0#7 && f.a == 0#7 && f.b == 0#7 && f.c == 0#7)
    pure (.d32 f.lit)
  else pure (.d28 (f.c ++ f.b ++ f.a ++ f.dst))
/-- The word of a displacement. -/
def dispF (g : Guard) : Disp → Fields
  | .d28 d => { blank g with dst := d.extractLsb' 0 7, a := d.extractLsb' 7 7, b := d.extractLsb' 14 7,
                             c := d.extractLsb' 21 7 }
  | .d32 d => { blank g with wide := true, lit := d }

/-- BRC (07 R187). -/
def brcOf (f : Fields) : Option BrcOps := do
  chk (f.la == 0#4 && f.rs == 0#3 && f.dst.extractLsb' 4 3 == 0#3)
  let cmp ← cmpOf (f.dst.extractLsb' 0 3)
  let fmt ← if f.dst.getLsbD 3 then (ffmtOf f.fmt).map .flt else (ifmtOf f.fmt).map .int
  let disp ← if f.wide then do
      chk (f.tail == 0#11 && f.c == 0#7)
      pure (DispC.d32 f.lit)
    else pure (.d18 (f.tail ++ f.c))
  pure ⟨cmp, fmt, f.a, f.b, disp⟩
/-- The class bit and the code of a class and format. -/
def cfmtCode : CFmt → Bool × BitVec 4
  | .int f => (false, ifmtCode f)
  | .flt f => (true, ffmtCode f)
/-- The word of BRC. -/
def brcF (g : Guard) (o : BrcOps) : Fields :=
  let w : Fields := { blank g with dst := 0#3 ++ BitVec.ofBool (cfmtCode o.fmt).1 ++ cmpCode o.cmp, a := o.a, b := o.b,
                                   fmt := (cfmtCode o.fmt).2 }
  match o.disp with
  | .d18 d => { w with tail := d.extractLsb' 7 11, c := d.extractLsb' 0 7 }
  | .d32 d => { w with wide := true, lit := d }

/-- A word whose one operand is a source A that may be uniform: BRX and CALLX (07 R188). -/
def srcAOf (f : Fields) : Option Src := do
  let t := readA f.tail
  chk (!f.wide && f.dst == 0#7 && f.b == 0#7 && f.c == 0#7 && f.la == 0#4 && f.fmt == 0#4 && f.rs == 0#3
    && t == { tailA0 with ua := t.ua })
  srcOf t.ua f.a
/-- The word of a lone source A. -/
def srcAF (g : Guard) (s : Src) : Fields :=
  { blank g with a := srcF s, tail := writeA { tailA0 with ua := srcU s } }

/-- PAND, POR, PXOR (07 R191). -/
def predsOf (f : Fields) : Option Preds := do
  let t := readA f.tail
  chk (!f.wide && f.c == 0#7 && f.la == 0#4 && f.fmt == 0#4 && f.rs == 0#3
    && t == { tailA0 with variant := 0#3 ++ t.variant.extractLsb' 0 2 })
  let d ← predOf f.dst
  let a ← predOf f.a
  let b ← predOf f.b
  pure ⟨d, a, b, t.variant.getLsbD 0, t.variant.getLsbD 1⟩
/-- The word of three predicates. -/
def predsF (g : Guard) (o : Preds) : Fields :=
  { blank g with dst := predF o.d, a := predF o.a, b := predF o.b,
                 tail := writeA { tailA0 with variant := 0#3 ++ BitVec.ofBool o.nb ++ BitVec.ofBool o.na } }
/-- PNOT, PMOV (07 R191). -/
def pred2Of (f : Fields) : Option Pred2 := do
  let t := readA f.tail
  chk (!f.wide && f.b == 0#7 && f.c == 0#7 && f.la == 0#4 && f.fmt == 0#4 && f.rs == 0#3
    && t == { tailA0 with variant := 0#4 ++ t.variant.extractLsb' 0 1 })
  let d ← predOf f.dst
  let a ← predOf f.a
  pure ⟨d, a, t.variant.getLsbD 0⟩
/-- The word of two predicates. -/
def pred2F (g : Guard) (o : Pred2) : Fields :=
  { blank g with dst := predF o.d, a := predF o.a,
                 tail := writeA { tailA0 with variant := 0#4 ++ BitVec.ofBool o.na } }

/-- A destination, a source A, an operand B and a format: what the forms of layout A share. Answers the variant too. -/
def alu3vOf (f : Fields) : Option (Alu3 × BitVec 5) := do
  let t := readA f.tail
  chk (f.c == 0#7 && f.rs == 0#3 && !t.uc && !t.ud && !t.x2)
  let fmt ← ifmtOf f.fmt
  let a ← srcOf t.ua f.a
  let b ← opbOf f.wide t.ib t.ub f.b f.lit
  pure (⟨fmt, f.dst, a, b⟩, t.variant)
/-- The word of an Alu3 with a variant and a lookahead. -/
def alu3vF (g : Guard) (la : BitVec 4) (o : Alu3) (v : BitVec 5) : Fields :=
  { blank g with wide := opbWide o.b, dst := o.d, a := srcF o.a, b := opbF o.b, la := la, fmt := ifmtCode o.fmt,
                 tail := writeA { tailA0 with ua := srcU o.a, ub := opbU o.b, ib := opbIb o.b, variant := v },
                 lit := opbL o.b }
/-- An Alu3 without a variant. -/
def alu3Of (f : Fields) : Option Alu3 := do
  let (o, v) ← alu3vOf f
  chk (v == 0#5)
  pure o
/-- An Alu3 whose variant bit [59] is .sat (07 R194). -/
def alu3satOf (f : Fields) : Option (Bool × Alu3) := do
  let (o, v) ← alu3vOf f
  chk (v.extractLsb' 1 4 == 0#4)
  pure (v.getLsbD 0, o)

/-- IMAD and BFI: a fourth operand in srcc, which may be uniform (07 R181, R194, R198). -/
def alu4Of (f : Fields) : Option Alu4 := do
  let t := readA f.tail
  chk (f.rs == 0#3 && !t.ud && !t.x2 && t.variant == 0#5)
  let fmt ← ifmtOf f.fmt
  let a ← srcOf t.ua f.a
  let b ← opbOf f.wide t.ib t.ub f.b f.lit
  let c ← srcOf t.uc f.c
  pure ⟨fmt, f.dst, a, b, c⟩
/-- The word of an Alu4. -/
def alu4F (g : Guard) (o : Alu4) : Fields :=
  { blank g with wide := opbWide o.b, dst := o.d, a := srcF o.a, b := opbF o.b, c := srcF o.c, fmt := ifmtCode o.fmt,
                 tail := writeA { tailA0 with ua := srcU o.a, ub := opbU o.b, uc := srcU o.c, ib := opbIb o.b },
                 lit := opbL o.b }

/-- One source (07 R194): no operand B, so no immediate and no 96-bit form (02 R63). -/
def alu2Of (f : Fields) : Option Alu2 := do
  let t := readA f.tail
  chk (!f.wide && f.b == 0#7 && f.c == 0#7 && f.rs == 0#3 && t == { tailA0 with ua := t.ua })
  let fmt ← ifmtOf f.fmt
  let a ← srcOf t.ua f.a
  pure ⟨fmt, f.dst, a⟩
/-- The word of an Alu2. -/
def alu2F (g : Guard) (o : Alu2) : Fields :=
  { blank g with dst := o.d, a := srcF o.a, fmt := ifmtCode o.fmt, tail := writeA { tailA0 with ua := srcU o.a } }

/-- SEL (07 R193): srcc names a predicate. DEDUCED (log 21). -/
def selOf (f : Fields) : Option SelOps := do
  let t := readA f.tail
  chk (f.rs == 0#3 && !t.uc && !t.ud && !t.x2 && t.variant == 0#5)
  let fmt ← ifmtOf f.fmt
  let a ← srcOf t.ua f.a
  let b ← opbOf f.wide t.ib t.ub f.b f.lit
  let q ← predOf f.c
  pure ⟨fmt, f.dst, a, b, q⟩
/-- The word of SEL. -/
def selF (g : Guard) (o : SelOps) : Fields :=
  { blank g with wide := opbWide o.b, dst := o.d, a := srcF o.a, b := opbF o.b, c := predF o.q, fmt := ifmtCode o.fmt,
                 tail := writeA { tailA0 with ua := srcU o.a, ub := opbU o.b, ib := opbIb o.b },
                 lit := opbL o.b }

/-- The combine's code and predicate field. -/
def combCode : Comb → BitVec 2 × BitVec 7
  | .none => (0#2, 0#7)
  | .and q => (1#2, predF q)
  | .or q => (2#2, predF q)
/-- ISET (07 R196). DEDUCED (log 21). -/
def isetOf (f : Fields) : Option IsetOps := do
  let t := readA f.tail
  chk (f.rs == 0#3 && !t.uc && !t.ud && !t.x2)
  let cmp ← cmpOf (t.variant.extractLsb' 0 3)
  let fmt ← ifmtOf f.fmt
  let comb ← combOf (t.variant.extractLsb' 3 2) f.c
  let d ← predOf f.dst
  let a ← srcOf t.ua f.a
  let b ← opbOf f.wide t.ib t.ub f.b f.lit
  pure ⟨cmp, fmt, comb, d, a, b⟩
/-- The word of ISET. -/
def isetF (g : Guard) (o : IsetOps) : Fields :=
  { blank g with wide := opbWide o.b, dst := predF o.d, a := srcF o.a, b := opbF o.b, c := (combCode o.comb).2,
                 fmt := ifmtCode o.fmt,
                 tail := writeA { tailA0 with ua := srcU o.a, ub := opbU o.b, ib := opbIb o.b,
                                              variant := (combCode o.comb).1 ++ cmpCode o.cmp },
                 lit := opbL o.b }

/-- ADD64, SUB64 and LEA (07 R181, R199): sh in variant [61:59]. -/
def addr64Of (f : Fields) : Option Addr64 := do
  let t := readA f.tail
  chk (f.c == 0#7 && f.rs == 0#3 && !t.uc && !t.x2 && t.variant.extractLsb' 3 2 == 0#2)
  let fmt ← ifmtOf f.fmt
  let d ← dstOf t.ud f.dst
  let a ← srcOf t.ua f.a
  let b ← opbOf f.wide t.ib t.ub f.b f.lit
  pure ⟨fmt, d, a, b, t.variant.extractLsb' 0 3⟩
/-- The word of an address form. -/
def addr64F (g : Guard) (o : Addr64) : Fields :=
  { blank g with wide := opbWide o.b, dst := dstF o.d, a := srcF o.a, b := opbF o.b, fmt := ifmtCode o.fmt,
                 tail := writeA { tailA0 with ua := srcU o.a, ub := opbU o.b, ud := dstU o.d, ib := opbIb o.b,
                                              variant := 0#2 ++ o.sh },
                 lit := opbL o.b }

/-- The operand of MOV and MOVS (07 R201, R204): srca, or operand B as an immediate with srca zero. -/
def movSrcOf (f : Fields) (t : TailA) : Option OpB :=
  if t.ib then do
    chk (f.a == 0#7 && !t.ua)
    opbOf f.wide true t.ub f.b f.lit
  else do
    chk (!f.wide && f.b == 0#7 && !t.ub)
    (srcOf t.ua f.a).map .reg
/-- The srca field of the operand of MOV. -/
def movA : OpB → BitVec 7
  | .reg r => srcF r
  | _ => 0#7
/-- The srcb field of the operand of MOV. -/
def movB : OpB → BitVec 7
  | .imm7 x => x
  | _ => 0#7
/-- MOV (07 R201). -/
def movOf (f : Fields) : Option MovOps := do
  let t := readA f.tail
  chk (f.c == 0#7 && f.rs == 0#3 && !t.uc && !t.x2 && t.variant == 0#5)
  let fmt ← ifmtOf f.fmt
  let d ← dstOf t.ud f.dst
  let a ← movSrcOf f t
  pure ⟨fmt, d, a⟩
/-- The word of MOV. -/
def movF (g : Guard) (o : MovOps) : Fields :=
  { blank g with wide := opbWide o.a, dst := dstF o.d, a := movA o.a, b := movB o.a, fmt := ifmtCode o.fmt,
                 tail := writeA { tailA0 with ua := opbU o.a, ud := dstU o.d, ib := opbIb o.a },
                 lit := opbL o.a }
/-- MOVS (07 R204): ud = 1. -/
def movsOf (f : Fields) : Option MovsOps := do
  let t := readA f.tail
  chk (f.c == 0#7 && f.rs == 0#3 && !t.uc && t.ud && !t.x2 && t.variant == 0#5)
  let fmt ← ifmtOf f.fmt
  let d ← slotOf f.dst
  let a ← movSrcOf f t
  pure ⟨fmt, d, a⟩
/-- The word of MOVS. -/
def movsF (g : Guard) (o : MovsOps) : Fields :=
  { blank g with wide := opbWide o.a, dst := slotF o.d, a := movA o.a, b := movB o.a, fmt := ifmtCode o.fmt,
                 tail := writeA { tailA0 with ua := opbU o.a, ud := true, ib := opbIb o.a },
                 lit := opbL o.a }
/-- MOVI (07 R202): layout I. -/
def moviOf (f : Fields) : Option MoviOps := do
  chk (!f.wide && f.a == 0#7 && f.b == 0#7 && f.c == 0#7 && f.rs == 0#3)
  let fmt ← ifmtOf f.fmt
  pure ⟨fmt, f.dst, f.tail⟩
/-- The word of MOVI. -/
def moviF (g : Guard) (o : MoviOps) : Fields :=
  { blank g with dst := o.d, fmt := ifmtCode o.fmt, tail := o.imm }
/-- LIT (07 R203): the 96-bit form only. -/
def litOf (f : Fields) : Option (VReg × Word) := do
  chk (f.wide && f.a == 0#7 && f.b == 0#7 && f.c == 0#7 && f.la == 0#4 && f.fmt == 0#4 && f.rs == 0#3
    && f.tail == 0#11)
  pure (f.dst, f.lit)
/-- RNGD (07 R222). -/
def rngdOf (f : Fields) : Option RngdOps := do
  let t := readA f.tail
  chk (!f.wide && f.a == 0#7 && f.c == 0#7 && f.rs == 0#3 && t == { tailA0 with ib := t.ib })
  let fmt ← ifmtOf f.fmt
  let b ← opbOf f.wide t.ib false f.b f.lit
  pure ⟨fmt, f.dst, b⟩
/-- The word of RNGD. -/
def rngdF (g : Guard) (la : BitVec 4) (o : RngdOps) : Fields :=
  { blank g with dst := o.d, b := opbF o.b, la := la, fmt := ifmtCode o.fmt,
                 tail := writeA { tailA0 with ib := opbIb o.b } }

/-- Three operands of the floating forms (07 R205, R206). -/
def flt3Of (f : Fields) : Option Flt3 := do
  let t := readA f.tail
  chk (f.c == 0#7 && !t.uc && !t.ud && t.variant == 0#5)
  let fmt ← ffmtOf f.fmt
  let rnd ← rndOf f.rs
  let a ← srcOf t.ua f.a
  let b ← opbOf f.wide t.ib t.ub f.b f.lit
  pure ⟨fmt, t.x2, rnd, f.dst, a, b⟩
/-- The word of a Flt3. -/
def flt3F (g : Guard) (la : BitVec 4) (o : Flt3) : Fields :=
  { blank g with wide := opbWide o.b, dst := o.d, a := srcF o.a, b := opbF o.b, la := la, fmt := ffmtCode o.fmt,
                 rs := rndCode o.rnd,
                 tail := writeA { tailA0 with ua := srcU o.a, ub := opbU o.b, ib := opbIb o.b, x2 := o.x2 },
                 lit := opbL o.b }
/-- FFMA (07 R205). -/
def flt4Of (f : Fields) : Option Flt4 := do
  let t := readA f.tail
  chk (!t.ud && t.variant == 0#5)
  let fmt ← ffmtOf f.fmt
  let rnd ← rndOf f.rs
  let a ← srcOf t.ua f.a
  let b ← opbOf f.wide t.ib t.ub f.b f.lit
  let c ← srcOf t.uc f.c
  pure ⟨fmt, t.x2, rnd, f.dst, a, b, c⟩
/-- The word of FFMA. -/
def flt4F (g : Guard) (o : Flt4) : Fields :=
  { blank g with wide := opbWide o.b, dst := o.d, a := srcF o.a, b := opbF o.b, c := srcF o.c, fmt := ffmtCode o.fmt,
                 rs := rndCode o.rnd,
                 tail := writeA { tailA0 with ua := srcU o.a, ub := opbU o.b, uc := srcU o.c, ib := opbIb o.b,
                                              x2 := o.x2 },
                 lit := opbL o.b }
/-- One floating source, with a variant (07 R209 to R213). -/
def flt2vOf (f : Fields) : Option (Flt2 × BitVec 5) := do
  let t := readA f.tail
  chk (!f.wide && f.b == 0#7 && f.c == 0#7 && t == { tailA0 with ua := t.ua, variant := t.variant })
  let fmt ← ffmtOf f.fmt
  let rnd ← rndOf f.rs
  let a ← srcOf t.ua f.a
  pure (⟨fmt, rnd, f.dst, a⟩, t.variant)
/-- The word of one floating source with a variant. -/
def flt2vF (g : Guard) (la : BitVec 4) (o : Flt2) (v : BitVec 5) : Fields :=
  { blank g with dst := o.d, a := srcF o.a, la := la, fmt := ffmtCode o.fmt, rs := rndCode o.rnd,
                 tail := writeA { tailA0 with ua := srcU o.a, variant := v } }
/-- One floating source without a variant. -/
def flt2Of (f : Fields) : Option Flt2 := do
  let (o, v) ← flt2vOf f
  chk (v == 0#5)
  pure o
/-- FCVT (07 R210): the source format in variant [62:59]. -/
def fcvtOf (f : Fields) : Option FcvtOps := do
  let (o, v) ← flt2vOf f
  chk (!v.getLsbD 4)
  let g ← ffmtOf (v.extractLsb' 0 4)
  pure ⟨o.fmt, g, o.rnd, o.d, o.a⟩
/-- FTOI and ITOF (07 R211): the integer format in variant [62:59]. -/
def fiOf (f : Fields) : Option FiOps := do
  let (o, v) ← flt2vOf f
  chk (!v.getLsbD 4)
  let g ← ifmtOf (v.extractLsb' 0 4)
  pure ⟨o.fmt, g, o.rnd, o.d, o.a⟩
/-- FSET (07 R208). -/
def fsetOf (f : Fields) : Option FsetOps := do
  let t := readA f.tail
  chk (f.rs == 0#3 && !t.uc && !t.ud && !t.x2)
  let cmp ← cmpOf (t.variant.extractLsb' 0 3)
  let fmt ← ffmtOf f.fmt
  let comb ← combOf (t.variant.extractLsb' 3 2) f.c
  let d ← predOf f.dst
  let a ← srcOf t.ua f.a
  let b ← opbOf f.wide t.ib t.ub f.b f.lit
  pure ⟨cmp, fmt, comb, d, a, b⟩
/-- The word of FSET. -/
def fsetF (g : Guard) (o : FsetOps) : Fields :=
  { blank g with wide := opbWide o.b, dst := predF o.d, a := srcF o.a, b := opbF o.b, c := (combCode o.comb).2,
                 fmt := ffmtCode o.fmt,
                 tail := writeA { tailA0 with ua := srcU o.a, ub := opbU o.b, ib := opbIb o.b,
                                              variant := (combCode o.comb).1 ++ cmpCode o.cmp },
                 lit := opbL o.b }
/-- The block formats: codes 6 and 7 of the floating class. -/
def bxOf (x : BitVec 4) : Option Bool :=
  if x == 6#4 then some false else if x == 7#4 then some true else none
/-- The code of a block format. -/
def bxCode (bx4 : Bool) : BitVec 4 := if bx4 then 7#4 else 6#4
/-- BXQ and BXD (07 R214, R215): ve in srcb, the half in variant [59]. -/
def bxOpsOf (f : Fields) : Option BxOps := do
  let t := readA f.tail
  chk (!f.wide && f.c == 0#7 && f.rs == 0#3 && t == { tailA0 with variant := 0#4 ++ t.variant.extractLsb' 0 1 })
  let k ← bxOf f.fmt
  pure ⟨k, t.variant.getLsbD 0, f.dst, f.a, f.b⟩
/-- The word of BXQ and BXD. -/
def bxOpsF (g : Guard) (la : BitVec 4) (o : BxOps) : Fields :=
  { blank g with dst := o.d, a := o.a, b := o.e, la := la, fmt := bxCode o.bx4,
                 tail := writeA { tailA0 with variant := 0#4 ++ BitVec.ofBool o.hi } }
/-- BXEX (07 R216). -/
def bxexOf (f : Fields) : Option BxexOps := do
  let t := readA f.tail
  chk (!f.wide && f.b == 0#7 && f.c == 0#7 && f.rs == 0#3 && t == { tailA0 with variant := t.variant })
  let k ← bxOf f.fmt
  pure ⟨k, f.dst, f.a, t.variant.extractLsb' 0 4, t.variant.getLsbD 4⟩
/-- The word of BXEX. -/
def bxexF (g : Guard) (o : BxexOps) : Fields :=
  { blank g with dst := o.base, a := o.a, fmt := bxCode o.bx4,
                 tail := writeA { tailA0 with variant := BitVec.ofBool o.bs ++ o.j } }

/-- SHFL (07 R218) and READL (07 R219): the variant is answered too. -/
def crossOf (f : Fields) : Option (IFmt × OpB × BitVec 5) := do
  let t := readA f.tail
  chk (!f.wide && f.c == 0#7 && f.rs == 0#3 && t == { tailA0 with ib := t.ib, variant := t.variant })
  let fmt ← ifmtOf f.fmt
  let b ← opbOf f.wide t.ib false f.b f.lit
  pure (fmt, b, t.variant)
/-- The word of SHFL and READL. -/
def crossF (g : Guard) (la : BitVec 4) (fmt : IFmt) (d a : VReg) (b : OpB) (v : BitVec 5) : Fields :=
  { blank g with dst := d, a := a, b := opbF b, la := la, fmt := ifmtCode fmt,
                 tail := writeA { tailA0 with ib := opbIb b, variant := v } }
/-- SHFL. -/
def shflOpsOf (f : Fields) : Option ShflOps := do
  let (fmt, b, v) ← crossOf f
  chk (v == 0#2 ++ v.extractLsb' 1 2 ++ 0#1)
  pure ⟨shflOf (v.extractLsb' 1 2), fmt, f.dst, f.a, b⟩
/-- READL. -/
def readlOf (f : Fields) : Option ReadlOps := do
  let (fmt, b, v) ← crossOf f
  chk (v == 0#5)
  pure ⟨fmt, f.dst, f.a, b⟩
/-- LRED and LSCAN (07 R220, R221). -/
def redOf (f : Fields) : Option RedOps := do
  let t := readA f.tail
  chk (!f.wide && f.b == 0#7 && f.c == 0#7 && t == { tailA0 with variant := t.variant })
  let fmt ← if t.variant.getLsbD 0 then (ffmtOf f.fmt).map .flt else (ifmtOf f.fmt).map CFmt.int
  let op ← redOpOf (t.variant.extractLsb' 1 3)
  let rnd ← rndOf f.rs
  pure ⟨op, fmt, rnd, t.variant.getLsbD 4, f.dst, f.a⟩
/-- The word of LRED and LSCAN. -/
def redF (g : Guard) (la : BitVec 4) (o : RedOps) : Fields :=
  { blank g with dst := o.d, a := o.a, la := la, fmt := (cfmtCode o.fmt).2, rs := rndCode o.rnd,
                 tail := writeA { tailA0 with variant := BitVec.ofBool o.exc ++ redOpCode o.op
                                                           ++ BitVec.ofBool (cfmtCode o.fmt).1 } }
/-- VOTE, BALLOT and ELECT (07 R219): dst and srca, the mode in variant [61:60]. -/
def voteFieldsOf (f : Fields) : Option (BitVec 2) := do
  let t := readA f.tail
  chk (!f.wide && f.b == 0#7 && f.c == 0#7 && f.la == 0#4 && f.fmt == 0#4 && f.rs == 0#3
    && t == { tailA0 with variant := 0#2 ++ t.variant.extractLsb' 1 2 ++ 0#1 })
  pure (t.variant.extractLsb' 1 2)
/-- The word of VOTE, BALLOT and ELECT. -/
def voteF (g : Guard) (dst a : BitVec 7) (m : BitVec 2) : Fields :=
  { blank g with dst := dst, a := a, tail := writeA { tailA0 with variant := 0#2 ++ m ++ 0#1 } }

/-! Memory operands (04 R106, R107). -/

/-- The base register under ua. -/
def baseOf (u : Bool) (x : BitVec 7) : Option MBase :=
  if u then
    if x.extractLsb' 6 1 == 0#1 then some (.s (x.extractLsb' 0 6)) else if x == 64#7 then some .sp else none
  else some (.v x)
/-- The uniform bit of a base. -/
def baseU : MBase → Bool
  | .v _ => false
  | _ => true
/-- The field of a base. -/
def baseF : MBase → BitVec 7
  | .v n => n
  | .s n => slotF n
  | .sp => 64#7
/-- The offset: the literal, or srcc where `off7` gives srcc to it, or zero (04 R106). -/
def offOf (wide off7 : Bool) (c : BitVec 7) (lit : Word) : Option MOff :=
  if wide then (if !off7 || c == 0#7 then some (.lit lit) else none)
  else some (.imm7 (if off7 then c else 0#7))
/-- A memory operand; srcb is its index only under xi, and zero or a data operand otherwise. -/
def memOf (off7 : Bool) (f : Fields) (t : TailM) : Option MemOp := do
  let base ← baseOf t.ua f.a
  let off ← offOf f.wide off7 f.c f.lit
  pure ⟨base, t.win, if t.xi then some f.b else none, t.shift, off⟩
/-- Whether a memory operand takes the 96-bit form. -/
def memWide (m : MemOp) : Bool :=
  match m.off with
  | .lit _ => true
  | .imm7 _ => false
/-- The literal of a memory operand. -/
def memLit (m : MemOp) : Word :=
  match m.off with
  | .lit x => x
  | .imm7 _ => 0#32
/-- The srcc field of a memory operand. -/
def memC (m : MemOp) : BitVec 7 :=
  match m.off with
  | .lit _ => 0#7
  | .imm7 x => x
/-- The tail of a memory operand. -/
def memTail (m : MemOp) (ord variant : BitVec 3) : BitVec 11 :=
  writeM { ua := baseU m.base, win := m.win, shift := m.shift, xi := m.idx.isSome, ord := ord, variant := variant }
/-- The word of a memory operand, with its other fields. -/
def memF (g : Guard) (m : MemOp) (la : BitVec 4) (fmt : BitVec 4) (sc : Scope) (ord variant : BitVec 3)
    (dst b c : BitVec 7) : Fields :=
  { blank g with wide := memWide m, dst := dst, a := baseF m.base, b := b, c := c, la := la, fmt := fmt,
                 rs := scopeCode sc, tail := memTail m ord variant, lit := memLit m }

/-- LD and ST (04 R108): index or zero in srcb. -/
def ldstOf (f : Fields) : Option MemOps := do
  let t := readM f.tail
  chk (t.variant == 0#3 && (t.xi || f.b == 0#7))
  let fmt ← ifmtOf f.fmt
  let ord ← ordOf t.ord
  let sc ← scopeOf f.rs
  let m ← memOf true f t
  pure ⟨fmt, ord, sc, f.dst, m⟩
/-- The word of LD and ST. -/
def ldstF (g : Guard) (la : BitVec 4) (o : MemOps) : Fields :=
  memF g o.m la (ifmtCode o.fmt) o.scope (ordCode o.ord) 0#3 o.d (o.m.idx.getD 0#7) (memC o.m)
/-- ATOM (04 R108, R114). -/
def atomOf (f : Fields) : Option AtomOps := do
  let t := readM f.tail
  chk (!t.xi)
  let fmt ← ifmtOf f.fmt
  let ord ← ordOf t.ord
  let sc ← scopeOf f.rs
  let op := atomOpOf t.variant
  let m ← memOf (op != .cas) f t
  pure ⟨op, fmt, ord, sc, f.dst, m, f.b, if op == .cas then f.c else 0#7⟩
/-- The word of ATOM. -/
def atomF (g : Guard) (la : BitVec 4) (o : AtomOps) : Fields :=
  memF g o.m la (ifmtCode o.fmt) o.scope (ordCode o.ord) (atomOpCode o.op) o.d o.b
    (if o.op == .cas then o.c else memC o.m)
/-- ORDINIT and AADDF (04 R108, R109). -/
def ordOpsOf (f : Fields) : Option OrdOps := do
  let t := readM f.tail
  chk (t.variant == 0#3 && !t.xi)
  let w ← if f.fmt == 6#4 then some false else if f.fmt == 7#4 then some true else none
  let ord ← ordOf t.ord
  let sc ← scopeOf f.rs
  let m ← memOf true f t
  pure ⟨w, ord, sc, f.dst, m, f.b⟩
/-- The word of ORDINIT and AADDF. -/
def ordOpsF (g : Guard) (o : OrdOps) : Fields :=
  memF g o.m 0#4 (if o.f64 then 7#4 else 6#4) o.scope (ordCode o.ord) 0#3 o.d o.b (memC o.m)
/-- FENCE, QFENCE, SRPUT and SRGET: no memory operand and no 96-bit form (04 R108). -/
def noMemOf (f : Fields) : Option (TailM × Scope) := do
  let t := readM f.tail
  chk (!f.wide && f.b == 0#7 && f.c == 0#7 && f.fmt == 0#4
    && t == { tailM0 with ord := t.ord, variant := t.variant })
  let sc ← scopeOf f.rs
  pure (t, sc)
/-- The word of an instruction without a memory operand. -/
def noMemF (g : Guard) (la : BitVec 4) (sc : Scope) (ord variant : BitVec 3) (dst a : BitVec 7) : Fields :=
  { blank g with dst := dst, a := a, la := la, rs := scopeCode sc,
                 tail := writeM { tailM0 with ord := ord, variant := variant } }
/-- CPY (04 R108, R122). -/
def cpyOf (f : Fields) : Option CpyOps := do
  let t := readM f.tail
  chk (t.ord == 0#3 && !t.xi)
  let fmt ← ifmtOf f.fmt
  let sc ← scopeOf f.rs
  let m ← memOf false f t
  pure ⟨fmt, t.variant.extractLsb' 0 2, sc, f.dst, m, f.b, t.variant.getLsbD 2, f.c⟩
/-- The word of CPY. -/
def cpyF (g : Guard) (la : BitVec 4) (o : CpyOps) : Fields :=
  memF g o.m la (ifmtCode o.fmt) o.scope 0#3 (BitVec.ofBool o.swin ++ o.queue) o.d o.src o.c
/-- CPYS (04 R108, R126). -/
def cpysOf (f : Fields) : Option CpysOps := do
  let t := readM f.tail
  chk (t.ord == 0#3 && !t.xi && f.fmt == 0#4 && !t.variant.getLsbD 2)
  let sc ← scopeOf f.rs
  let m ← memOf false f t
  pure ⟨t.variant.extractLsb' 0 2, sc, f.dst, m, f.b, f.c⟩
/-- The word of CPYS. -/
def cpysF (g : Guard) (la : BitVec 4) (o : CpysOps) : Fields :=
  memF g o.m la 0#4 o.scope 0#3 (0#1 ++ o.queue) o.d o.src o.c
/-- SLEEPTO, the barrier and the cell instructions (04 R108; 05 R148): the variant is answered too. -/
def cellOf (f : Fields) : Option (CellOps × BitVec 3) := do
  let t := readM f.tail
  chk (t.ord == 0#3 && !t.xi && f.fmt == 0#4)
  let sc ← scopeOf f.rs
  let m ← memOf true f t
  pure (⟨sc, f.dst, m, f.b⟩, t.variant)
/-- The word of a barrier or cell instruction. -/
def cellF (g : Guard) (la : BitVec 4) (o : CellOps) (v : BitVec 3) : Fields :=
  memF g o.m la 0#4 o.scope 0#3 v o.d o.b (memC o.m)
/-- PREF (04 R108, R120). -/
def prefOf (f : Fields) : Option (Scope × Bool × MemOp) := do
  let t := readM f.tail
  chk (t.ord == 0#3 && f.fmt == 0#4 && t.variant.extractLsb' 1 2 == 0#2 && (t.xi || f.b == 0#7))
  let sc ← scopeOf f.rs
  let m ← memOf true f t
  pure (sc, t.variant.getLsbD 0, m)

/-! Matrix, signature, thread and system words (08 R241; 09 R255; 13 R301; 19 R406). -/

/-- A matrix word: 64-bit form, lookahead zero (08 R241). -/
def matOf (f : Fields) : Option Unit := chk (!f.wide && f.la == 0#4)
/-- A signature or thread word: 64-bit form, no rounding, only ua and the variant set (09 R255; 13 R301). -/
def tailVOf (f : Fields) : Option TailA := do
  let t := readA f.tail
  chk (!f.wide && f.rs == 0#3 && !t.uc && !t.ud && !t.ib && !t.x2)
  pure t

/-- MLDC and MST (08 R243). -/
def mldcOf (f : Fields) : Option MldcOps := do
  matOf f
  let t ← tokOf f.dst
  let fmt ← ffmtOf f.fmt
  let rnd ← rndOf f.rs
  let w ← bitOf f.c
  pure ⟨t, fmt, rnd, f.a, f.b, w, f.tail⟩
/-- The word of MLDC and MST. -/
def mldcF (g : Guard) (o : MldcOps) : Fields :=
  { blank g with dst := tokF o.t, a := o.a, b := o.stride, c := bitF o.acc64, fmt := ffmtCode o.fmt,
                 rs := rndCode o.rnd, tail := o.tile }
/-- A signature word's token, format, quad and key buffer, with variant [63] zero (09 R255). -/
def sigOf (f : Fields) : Option (BitVec 4 × TailA) := do
  let t ← tailVOf f
  chk (f.la == 0#4 && !t.ua && !t.ub && !t.variant.getLsbD 4)
  let tk ← tokOf f.dst
  pure (tk, t)
/-- The word of a signature instruction. -/
def sigF (g : Guard) (tk : BitVec 4) (a q c : BitVec 7) (fmt : BitVec 4) (hi : BitVec 2) (kb : BitVec 2) : Fields :=
  { blank g with dst := tokF tk, a := a, b := q, c := c, fmt := fmt,
                 tail := writeA { tailA0 with variant := 0#1 ++ hi ++ kb } }
/-- A thread word (13 R301): fmt zero; which uniform bits are permitted. -/
def thrOf (ua ub : Bool) (f : Fields) : Option TailA := do
  let t ← tailVOf f
  chk (f.fmt == 0#4 && (ua || !t.ua) && (ub || !t.ub))
  pure t
/-- A thread word without lookahead or variant. -/
def thr0Of (ua ub : Bool) (f : Fields) : Option TailA := do
  let t ← thrOf ua ub f
  chk (f.la == 0#4 && t.variant == 0#5)
  pure t
/-- FORK and FORKR (13 R301). -/
def forkOf (f : Fields) : Option ForkOps := do
  let t ← thr0Of true true f
  let q ← predOf f.dst
  let e ← upairOf t.ua f.a
  let j ← upairOf t.ub f.b
  pure ⟨q, e, j, f.c⟩
/-- The word of FORK and FORKR. -/
def forkF (g : Guard) (o : ForkOps) : Fields :=
  { blank g with dst := predF o.q, a := upairF o.entry, b := upairF o.join, c := o.r,
                 tail := writeA { tailA0 with ua := upairU o.entry, ub := upairU o.join } }
/-- SPAWN, WLPUSH and WLINS (13 R301). -/
def spawnOf (f : Fields) : Option SpawnOps := do
  let t ← thr0Of true false f
  chk (f.c == 0#7)
  let q ← predOf f.dst
  let a ← upairOf t.ua f.a
  pure ⟨q, a, f.b⟩
/-- The word of SPAWN, WLPUSH and WLINS. -/
def spawnF (g : Guard) (o : SpawnOps) : Fields :=
  { blank g with dst := predF o.q, a := upairF o.a, b := o.b, tail := writeA { tailA0 with ua := upairU o.a } }
/-- A thread word with a guard and nothing else. -/
def thrBare (f : Fields) : Option Unit := do
  let _ ← thr0Of false false f
  chk (f.dst == 0#7 && f.a == 0#7 && f.b == 0#7 && f.c == 0#7)
/-- TRAP, REGION and BKPT (19 R406): layout I. -/
def immOf (f : Fields) : Option (BitVec 11) := do
  chk (!f.wide && f.dst == 0#7 && f.a == 0#7 && f.b == 0#7 && f.c == 0#7 && f.la == 0#4 && f.fmt == 0#4 && f.rs == 0#3)
  pure f.tail
/-- The word of TRAP, REGION and BKPT. -/
def immF (g : Guard) (x : BitVec 11) : Fields := { blank g with tail := x }

/-- A word without lookahead: every opcode without an asterisk in Table 9 (02 R58, R63). -/
def nl (f : Fields) (x : Option Instr) : Option Instr := if f.la == 0#4 then x else none

/-! The opcode map, row by row (02 R58, Table 9). -/

/-- Row 0x0_. -/
def row0 (col : Nat) (f : Fields) : Option Instr :=
  match col with
  | 0 => (bare f).map fun _ => .nop f.g
  | 1 => (dispOf f).map (.bra f.g)
  | 2 => (brcOf f).map (.brc f.g)
  | 3 => (srcAOf f).map (.brx f.g)
  | 4 => (dispOf f).map (.call f.g)
  | 5 => (srcAOf f).map (.callx f.g)
  | 6 => (bare f).map fun _ => .ret f.g
  | 7 => (bare f).map fun _ => .exit f.g
  | 8 => (predsOf f).map (.pand f.g)
  | 9 => (predsOf f).map (.por f.g)
  | 10 => (predsOf f).map (.pxor f.g)
  | 11 => (pred2Of f).map (.pnot f.g)
  | 12 => (pred2Of f).map (.pmov f.g)
  | 13 => (bare { f with dst := 0#7 }).map fun _ => .ppack f.g f.dst
  | 14 => (bare { f with a := 0#7 }).map fun _ => .punpk f.g f.a
  | 15 => nl f ((selOf f).map (.sel f.g))
  | _ => none

/-- Row 0x1_. -/
def row1 (col : Nat) (f : Fields) : Option Instr :=
  match col with
  | 0 => nl f ((alu3satOf f).map fun (s, o) => .iadd f.g s o)
  | 1 => nl f ((alu3satOf f).map fun (s, o) => .isub f.g s o)
  | 2 => nl f ((alu3Of f).map (.imul f.g))
  | 3 => nl f ((alu3Of f).map (.imulh f.g))
  | 4 => nl f ((alu4Of f).map (.imad f.g))
  | 5 => (alu3Of f).map (.idiv f.g f.la)
  | 6 => (alu3Of f).map (.irem f.g f.la)
  | 7 => nl f ((alu3Of f).map (.imin f.g))
  | 8 => nl f ((alu3Of f).map (.imax f.g))
  | 9 => nl f ((alu2Of f).map (.iabs f.g))
  | 10 => nl f ((alu2Of f).map (.ineg f.g))
  | 11 => nl f ((isetOf f).map (.iset f.g))
  | 12 => nl f ((addr64Of f).map (.lea f.g))
  | 13 => nl f ((addr64Of f).map (.add64 f.g))
  | 14 => nl f ((addr64Of f).map (.sub64 f.g))
  | 15 => nl f ((alu3Of f).map (.mul64 f.g))
  | _ => none

/-- Row 0x2_. -/
def row2 (col : Nat) (f : Fields) : Option Instr :=
  match col with
  | 0 => nl f ((alu3Of f).map (.and f.g))
  | 1 => nl f ((alu3Of f).map (.or f.g))
  | 2 => nl f ((alu3Of f).map (.xor f.g))
  | 3 => nl f ((alu2Of f).map (.not f.g))
  | 4 => nl f ((alu3Of f).map (.shl f.g))
  | 5 => nl f ((alu3Of f).map (.shr f.g))
  | 6 => nl f ((alu3Of f).map (.sar f.g))
  | 7 => nl f ((alu3Of f).map (.rol f.g))
  | 8 => nl f ((alu3Of f).map (.bfx f.g))
  | 9 => nl f ((alu4Of f).map (.bfi f.g))
  | 10 => nl f ((alu2Of f).map (.popc f.g))
  | 11 => nl f ((alu2Of f).map (.clz f.g))
  | 12 => nl f ((alu2Of f).map (.ctz f.g))
  | 13 => nl f ((alu2Of f).map (.brev f.g))
  | _ => none

/-- Row 0x3_. -/
def row3 (col : Nat) (f : Fields) : Option Instr :=
  match col with
  | 0 => nl f ((movOf f).map (.mov f.g))
  | 1 => nl f ((moviOf f).map (.movi f.g))
  | 2 => (litOf f).map fun (d, x) => .lit f.g d x
  | 3 => nl f ((movsOf f).map (.movs f.g))
  | 4 => (bare { f with dst := 0#7, a := 0#7 }).bind fun _ => (sregOf f.a).map (.gets f.g f.dst)
  | 5 => (bare { f with dst := 0#7, a := 0#7 }).bind fun _ => (sregOf f.dst).map fun r => .sets f.g r f.a
  | 6 => (rngdOf f).map (.rngd f.g f.la)
  | 7 => if f.fmt == 7#4 then (bare { f with a := 0#7, b := 0#7, fmt := 0#4 }).map fun _ => .rngs f.g f.a f.b else none
  | 8 => (bxOpsOf f).map (.bxq f.g f.la)
  | 9 => nl f ((bxOpsOf f).map (.bxd f.g))
  | 10 => nl f ((bxexOf f).map (.bxex f.g))
  | _ => none

/-- Row 0x4_. -/
def row4 (col : Nat) (f : Fields) : Option Instr :=
  match col with
  | 0 => nl f ((flt3Of f).map (.fadd f.g))
  | 1 => nl f ((flt3Of f).map (.fsub f.g))
  | 2 => nl f ((flt3Of f).map (.fmul f.g))
  | 3 => nl f ((flt4Of f).map (.ffma f.g))
  | 4 => nl f ((flt3Of f).map (.fmin f.g))
  | 5 => nl f ((flt3Of f).map (.fmax f.g))
  | 6 => nl f ((fsetOf f).map (.fset f.g))
  | 7 => nl f ((flt2Of f).map (.fclass f.g))
  | 8 => nl f ((fcvtOf f).map (.fcvt f.g))
  | 9 => nl f ((fiOf f).map (.ftoi f.g))
  | 10 => nl f ((fiOf f).map (.itof f.g))
  | 11 => nl f ((flt2Of f).map (.frnd f.g))
  | _ => none

/-- Row 0x5_. -/
def row5 (col : Nat) (f : Fields) : Option Instr :=
  match col with
  | 0 => (flt3Of f).map (.fdiv f.g f.la)
  | 1 => (flt2Of f).map (.fsqrt f.g f.la)
  | 2 => (flt2Of f).map (.frcp f.g f.la)
  | 3 => (flt2Of f).map (.frsq f.g f.la)
  | 4 => (flt2Of f).map (.fexp2 f.g f.la)
  | 5 => (flt2Of f).map (.flog2 f.g f.la)
  | 6 => (flt2Of f).map (.fsin f.g f.la)
  | 7 => (flt2Of f).map (.fcos f.g f.la)
  | 8 => (flt2Of f).map (.ftanh f.g f.la)
  | _ => none

/-- Row 0x6_. -/
def row6 (col : Nat) (f : Fields) : Option Instr :=
  match col with
  | 0 => (shflOpsOf f).map (.shfl f.g f.la)
  | 1 => do
      let m ← voteFieldsOf f
      let mode ← voteOf m
      let d ← predOf f.dst
      let a ← predOf f.a
      pure (.vote f.g mode d a)
  | 2 => do
      let m ← voteFieldsOf f
      chk (m == 0#2)
      let a ← predOf f.a
      pure (.ballot f.g f.dst a)
  | 3 => (redOf f).map (.lred f.g f.la)
  | 4 => (redOf f).map (.lscan f.g f.la)
  | 5 => do
      let m ← voteFieldsOf f
      chk (m == 0#2 && f.a == 0#7)
      let d ← predOf f.dst
      pure (.elect f.g d)
  | 6 => (readlOf f).map (.readl f.g f.la)
  | _ => none

/-- Row 0x7_. -/
def row7 (col : Nat) (f : Fields) : Option Instr :=
  match col with
  | 0 => (ldstOf f).map (.ld f.g f.la)
  | 1 => nl f ((ldstOf f).map (.st f.g))
  | 2 => (atomOf f).map (.atom f.g f.la)
  | 3 => nl f ((ordOpsOf f).map (.ordinit f.g))
  | 4 => nl f ((ordOpsOf f).map (.aaddf f.g))
  | 5 => nl f do
      let (t, sc) ← noMemOf f
      chk (f.dst == 0#7 && f.a == 0#7 && t.variant == 0#3)
      let ord ← ordOf t.ord
      pure (.fence f.g ord sc)
  | 6 => nl f do
      let (t, sc) ← noMemOf f
      chk (f.a.extractLsb' 1 6 == 0#6 && t.variant == 0#3 && t.ord == 0#3)
      pure (.qfence f.g sc (f.a.extractLsb' 0 1 ++ f.dst))
  | 7 => nl f (if f.dst == 0#7 then (prefOf f).map fun (sc, i, m) => .pref f.g sc i m else none)
  | 8 => (cpyOf f).map (.cpy f.g f.la)
  | 9 => (cpysOf f).map (.cpys f.g f.la)
  | 10 => nl f ((cellOf f).bind fun (o, v) => if v == 0#3 then some (.sleepto f.g o) else none)
  | 11 => nl f do
      let (t, sc) ← noMemOf f
      chk (f.a == 0#7 && t.ord == 0#3)
      pure (.srput f.g sc t.variant f.dst)
  | 12 => do
      let (t, sc) ← noMemOf f
      chk (f.a == 0#7 && t.ord == 0#3)
      pure (.srget f.g f.la sc t.variant f.dst)
  | _ => none

/-- Row 0x8_. -/
def row8 (col : Nat) (f : Fields) : Option Instr :=
  match col with
  | 0 => nl f ((cellOf f).bind fun (o, v) => if v == 0#3 then some (.tbinit f.g o) else none)
  | 1 => nl f ((cellOf f).bind fun (o, v) => if v == 0#3 then some (.tbexp f.g o) else none)
  | 2 => nl f ((cellOf f).bind fun (o, v) => if v == 0#3 then some (.tbarr f.g o) else none)
  | 3 => nl f ((cellOf f).bind fun (o, v) => if v == 0#3 then some (.tbwait f.g o) else none)
  | 4 => do
      let (o, v) ← cellOf f
      chk (v == 0#3)
      let q ← predOf f.dst
      pure (.tbtest f.g f.la q { o with d := 0#7 })
  | 8 => nl f ((cellOf f).bind fun (o, v) =>
      if v == 0#3 then some (.cinit f.g o) else if v == 1#3 then some (.cinitCount f.g o) else none)
  | 9 => nl f ((cellOf f).bind fun (o, v) =>
      if v == 0#3 then some (.cfill f.g o) else if v == 1#3 then some (.cfillCnt f.g o) else none)
  | 10 => nl f ((cellOf f).bind fun (o, v) => if v == 0#3 then some (.cwait f.g o) else none)
  | 11 => nl f ((cellOf f).bind fun (o, v) => if v == 0#3 then some (.cequ f.g o) else none)
  | 12 => do
      let (o, v) ← cellOf f
      chk (v == 0#3)
      let q ← predOf f.b
      pure (.ctest f.g f.la q { o with b := 0#7 })
  | 13 => (cellOf f).bind fun (o, v) => if v == 0#3 then some (.cpeek f.g f.la o) else none
  | _ => none

/-- Row 0x9_. -/
def row9 (col : Nat) (f : Fields) : Option Instr :=
  match col with
  | 0 => (bare { f with a := 0#7 }).bind fun _ => (slotOf f.a).map (.mclaim f.g)
  | 1 => (bare { f with a := 0#7 }).bind fun _ => (slotOf f.a).map (.mrel f.g)
  | 2 => do
      matOf f
      chk (f.fmt == 0#4 && f.rs == 0#3 && f.tail == 0#11)
      let t ← tokOf f.dst
      let s ← slotOf f.c
      pure (.mld f.g ⟨t, f.a, f.b, s⟩)
  | 3 => do
      matOf f
      chk (f.fmt == 0#4 && f.rs == 0#3 && f.a == 0#7 && f.b == 0#7)
      let t ← tokOf f.dst
      let w ← bitOf f.c
      pure (.mzero f.g t w f.tail)
  | 4 => do
      matOf f
      chk (f.rs == 0#3)
      let t ← tokOf f.dst
      let fmt ← ffmtOf f.fmt
      let a ← slotOf f.a
      let b ← slotOf f.b
      pure (.mma f.g ⟨t, fmt, f.tail, a, b, f.c⟩)
  | 5 => do
      matOf f
      chk (f.rs == 0#3 && f.b == 0#7)
      let t ← tokOf f.dst
      let fmt ← ffmtOf f.fmt
      let a ← slotOf f.a
      pure (.mtrn f.g ⟨t, fmt, f.tail, a, f.c⟩)
  | 6 => do
      matOf f
      chk (f.rs == 0#3)
      let t ← tokOf f.dst
      let fmt ← ffmtOf f.fmt
      let a ← slotOf f.a
      pure (.mprm f.g ⟨t, fmt, f.tail, a, f.b, f.c⟩)
  | 7 => do
      matOf f
      let t ← tokOf f.dst
      let fmt ← ffmtOf f.fmt
      let rnd ← rndOf f.rs
      let a ← slotOf f.a
      let col ← bitOf f.b
      pure (.mred f.g ⟨t, fmt, rnd, f.tail, a, col, f.c⟩)
  | 8 => (mldcOf f).map (.mst f.g)
  | 9 => (mldcOf f).map (.mldc f.g)
  | 10 => (bare { f with dst := 0#7, a := 0#7 }).bind fun _ => (tokOf f.a).map (.mwait f.g f.dst)
  | 11 => do
      bare { f with dst := 0#7, a := 0#7 }
      let d ← predOf f.dst
      let t ← tokOf f.a
      pure (.mtest f.g d t)
  | _ => none

/-- Row 0xA_. -/
def rowA (col : Nat) (f : Fields) : Option Instr :=
  match col with
  | 0 => do
      let (tk, t) ← sigOf f
      chk (!t.variant.getLsbD 3)
      if t.variant.getLsbD 2 then
        chk (f.fmt == 0#4 && f.a == 0#7)
        pure (.sighKey f.g ⟨tk, f.b, t.variant.extractLsb' 0 2, f.c⟩)
      else
        let fmt ← ffmtOf f.fmt
        let w ← slotOf f.a
        chk (f.c.extractLsb' 5 2 == 0#2)
        pure (.sighSrp f.g ⟨tk, fmt, w, f.b, t.variant.extractLsb' 0 2, f.c.extractLsb' 0 5⟩)
  | 1 => do
      let (tk, t) ← sigOf f
      let fmt ← ffmtOf f.fmt
      let w ← slotOf f.a
      let d ← slotOf f.c
      pure (.sigb f.g ⟨tk, ruleOf (t.variant.extractLsb' 2 2), fmt, d, w, f.b, t.variant.extractLsb' 0 2⟩)
  | 2 => do
      let (tk, t) ← sigOf f
      chk (t.variant.extractLsb' 2 2 == 0#2 && f.a == 0#7 && f.c == 0#7)
      let w ← if f.fmt == 0#4 then some true else if f.fmt == 1#4 then some false else none
      pure (.sigs f.g ⟨tk, w, false, f.b, t.variant.extractLsb' 0 2⟩)
  | 3 => do
      let (tk, t) ← sigOf f
      chk (!t.variant.getLsbD 3 && f.a == 0#7 && f.c == 0#7)
      let w ← if f.fmt == 0#4 then some true else if f.fmt == 1#4 then some false else none
      pure (.sigg f.g ⟨tk, w, t.variant.getLsbD 2, f.b, t.variant.extractLsb' 0 2⟩)
  | 4 => do
      let (tk, t) ← sigOf f
      chk (t.variant.extractLsb' 2 2 == 0#2 && f.a == 0#7 && f.c == 0#7 && f.fmt == 0#4)
      pure (.sigmap f.g ⟨tk, f.b, t.variant.extractLsb' 0 2⟩)
  | _ => none

/-- Row 0xB_. -/
def rowB (col : Nat) (f : Fields) : Option Instr :=
  match col with
  | 0 => (forkOf f).map (.fork f.g)
  | 1 => (forkOf f).map (.forkr f.g)
  | 2 => do
      let _ ← thr0Of false false f
      chk (f.a == 0#7 && f.c == 0#7)
      let q ← predOf f.b
      pure (.iter f.g q f.dst)
  | 3 => (thrBare f).map fun _ => .join f.g
  | 4 => (thrBare f).map fun _ => .joinr f.g
  | 5 => do
      thrBare { f with dst := 0#7 }
      let q ← predOf f.dst
      pure (.fdrop f.g q)
  | 6 => (thrBare { f with dst := 0#7 }).map fun _ => .fdepth f.g f.dst
  | 7 => do
      let t ← thrOf false false f
      chk (f.la == 0#4 && f.dst == 0#7 && f.a == 0#7 && f.b == 0#7 && f.c == 0#7 && t.variant.extractLsb' 2 3 == 0#3)
      pure (.bind f.g (t.variant.extractLsb' 0 2))
  | 8 => (thrBare f).map fun _ => .unbind f.g
  | 9 => (thrBare f).map fun _ => .reconv f.g
  | 10 => do
      let t ← thrOf false false f
      chk (f.la == 0#4 && f.dst == 0#7 && f.a == 0#7 && f.b == 0#7 && f.c == 0#7 && t.variant.extractLsb' 1 4 == 0#4)
      pure (.yield f.g (t.variant.getLsbD 0))
  | 11 => (thrBare f).map fun _ => .acquire f.g
  | 12 => (spawnOf f).map (.spawn f.g)
  | 13 => do
      let t ← thrOf true false f
      chk (f.la == 0#4 && f.dst == 0#7 && f.c == 0#7 && t.variant.extractLsb' 1 4 == 0#4)
      if t.variant.getLsbD 0 then
        chk (f.a == 0#7 && f.b == 0#7 && !t.ua)
        pure (.tdoneR f.g)
      else
        let a ← upairOf t.ua f.a
        pure (.tdone f.g a f.b)
  | _ => none

/-- Row 0xC_. -/
def rowC (col : Nat) (f : Fields) : Option Instr :=
  match col with
  | 0 => (spawnOf f).map (.wlpush f.g)
  | 1 => do
      let t ← thrOf true false f
      chk (f.c == 0#7 && t.variant == 0#5)
      let q ← predOf f.b
      let a ← upairOf t.ua f.a
      pure (.wlpop f.g f.la ⟨q, f.dst, a⟩)
  | 2 => (spawnOf f).map (.wlins f.g)
  | 3 => do
      let t ← thrOf true false f
      chk (f.b == 0#7 && f.c == 0#7 && t.variant == 0#5)
      let a ← upairOf t.ua f.a
      pure (.wlcnt f.g f.la ⟨f.dst, a⟩)
  | 8 => (immOf f).map (.trap f.g)
  | 9 => (immOf f).map (.region f.g)
  | 10 => (immOf f).map (.bkpt f.g)
  | 11 => (bare f).map fun _ => .emuret f.g
  | _ => none

/-- The instruction an opcode's fields name, before the checks of `Legal.legal` (02 R58). -/
def opcode (op : BitVec 8) (f : Fields) : Option Instr :=
  let col := (op.extractLsb' 0 4).toNat
  match (op.extractLsb' 4 4).toNat with
  | 0 => row0 col f
  | 1 => row1 col f
  | 2 => row2 col f
  | 3 => row3 col f
  | 4 => row4 col f
  | 5 => row5 col f
  | 6 => row6 col f
  | 7 => row7 col f
  | 8 => row8 col f
  | 9 => row9 col f
  | 10 => rowA col f
  | 11 => rowB col f
  | 12 => rowC col f
  | _ => none

/-- A legal candidate, or nothing (02 R63). -/
def legalOnly (x : Option Instr) : Option Instr := x.bind fun i => if Legal.legal i then some i else none

/-- Opcodes 0xF0 to 0xF7 (02 R60). -/
def retired (op : BitVec 8) : Bool := op.extractLsb' 3 5 == 30#5

/-- A 64-bit or 96-bit word (02 R46): an instruction of Table 9, a retired word or a reserved one. -/
def long (wide : Bool) (p0 p1 p2 : Word) : Instr :=
  let f := readFields wide p0 p1 p2
  let op := p0.extractLsb' 2 8
  let raw : RawWord := ⟨if wide then 3#2 else 2#2, p0, p1⟩
  if retired op then .retiredOpcode f.g raw
  else
    match legalOnly (opcode op f) with
    | some i => i
    | none => .reservedEncoding f.g .reserved raw

/-- Three v registers of a short word (02 R48). -/
def rrrOf (w : Word) : Rrr := ⟨w.extractLsb' 7 7, w.extractLsb' 14 7, w.extractLsb' 21 7⟩
/-- Two v registers of a short word, srcb zero. -/
def rrOf (w : Word) : Option Rr :=
  if w.extractLsb' 21 7 == 0#7 then some ⟨w.extractLsb' 7 7, w.extractLsb' 14 7⟩ else none
/-- A short word that uses no field. -/
def shortBare (w : Word) : Option Unit := chk (w.extractLsb' 7 21 == 0#21)
/-- Three predicates of a short word. -/
def shortPreds (w : Word) : Option (PReg × PReg × PReg) := do
  let d ← predOf (w.extractLsb' 7 7)
  let a ← predOf (w.extractLsb' 14 7)
  let b ← predOf (w.extractLsb' 21 7)
  pure (d, a, b)

/-- The short opcodes of Table 8 (02 R57), the retired ones apart. -/
def shortOp (op6 : Nat) (g : Guard) (w : Word) : Option Instr :=
  match op6 with
  | 0x01 => (shortBare w).map fun _ => .nopShort g
  | 0x02 => some (.braShort g (w.extractLsb' 7 21))
  | 0x03 => some (.callShort g (w.extractLsb' 7 21))
  | 0x04 => (shortBare w).map fun _ => .retShort g
  | 0x05 => (shortBare w).map fun _ => .exitShort g
  | 0x06 => (rrOf w).map (.movShort g)
  | 0x07 => some (.iaddShort g (rrrOf w))
  | 0x08 => some (.isubShort g (rrrOf w))
  | 0x09 => some (.imulShort g (rrrOf w))
  | 0x0A => some (.andShort g (rrrOf w))
  | 0x0B => some (.orShort g (rrrOf w))
  | 0x0C => some (.xorShort g (rrrOf w))
  | 0x0D => some (.shlShort g (rrrOf w))
  | 0x0E => some (.shrShort g (rrrOf w))
  | 0x0F => some (.sarShort g (rrrOf w))
  | 0x10 => some (.iminShort g (rrrOf w))
  | 0x11 => some (.imaxShort g (rrrOf w))
  | 0x12 => some (.faddShort g (rrrOf w))
  | 0x13 => some (.fsubShort g (rrrOf w))
  | 0x14 => some (.fmulShort g (rrrOf w))
  | 0x15 => some (.ffmaShort g (rrrOf w))
  | 0x16 => some (.fminShort g (rrrOf w))
  | 0x17 => some (.fmaxShort g (rrrOf w))
  | 0x18 => (shortPreds w).map fun (d, a, b) => .pandShort g d a b
  | 0x19 => (shortPreds w).map fun (d, a, b) => .porShort g d a b
  | 0x1A => (shortPreds w).map fun (d, a, b) => .pxorShort g d a b
  | 0x1B => (shortPreds w).bind fun (d, a, b) => if b == 0#3 then some (.pnotShort g d a) else none
  | 0x1C => (shortPreds w).bind fun (d, a, b) => if b == 0#3 then some (.pmovShort g d a) else none
  | _ => none

/-- A short word (02 R46, R57). -/
def short (w : Word) : Instr :=
  let g := guard32 w
  let op6 := (w.extractLsb' 1 6).toNat
  if op6 == 0x3E || op6 == 0x3F then .retiredOpcodeShort g w
  else
    match shortOp op6 g w with
    | some i => i
    | none => .reservedEncoding g .reserved ⟨1#2, w, 0#32⟩

/-- The parcels of the instruction that starts with p0 (02 R47). -/
def parcelCount (p0 : Word) : Nat :=
  if p0.getLsbD 0 then (if p0.getLsbD 1 then 3 else 2) else 1

/-- The instruction with these three parcels, of which a shorter one uses the first ones only. -/
def word (p0 p1 p2 : Word) : Instr :=
  if p0.getLsbD 0 then long (p0.getLsbD 1) p0 p1 p2 else short p0

/-- A word that its line does not wholly contain: no field is decoded, and every thread faults (02 R47).
DEDUCED (log 22). -/
def crossing (p0 p1 : Word) : Instr :=
  .reservedEncoding ⟨false, 7#3⟩ .lineCrossing ⟨BitVec.ofNat 2 (parcelCount p0), p0, p1⟩

/-- Four bytes, the first at the lowest address (00_scope.md R7). DEDUCED (log 22). -/
def parcelOf (b0 b1 b2 b3 : Byte) : Word := b3 ++ b2 ++ b1 ++ b0

end Decode

/-- Why bytes give no instruction: fewer than the first parcel, or fewer than its length says (02 R47). -/
inductive Reject where
  | tooShort
  deriving DecidableEq, Repr

/-- Little-endian parcels of a list of bytes; trailing bytes short of a parcel are dropped. -/
def parcels : List Byte → List Word
  | b0 :: b1 :: b2 :: b3 :: rest => Decode.parcelOf b0 b1 b2 b3 :: parcels rest
  | _ => []

/-- The instruction at the head of a list of parcels. -/
def decodeParcels (ps : List Word) : Except Reject Instr :=
  match ps with
  | [] => .error .tooShort
  | p0 :: ps =>
    match Decode.parcelCount p0, ps with
    | 1, _ => .ok (Decode.word p0 0#32 0#32)
    | 2, p1 :: _ => .ok (Decode.word p0 p1 0#32)
    | 3, p1 :: p2 :: _ => .ok (Decode.word p0 p1 p2)
    | _, _ => .error .tooShort

/-- The instruction at the head of a list of bytes: every word has exactly one fate (02 R46).
DESIGN CHOICE (log 99). -/
def decode (bytes : List Byte) : Except Reject Instr := decodeParcels (parcels bytes)

/-- The instruction at parcel `i` of a line (02 R47): one that would pass parcel 14 is a line crossing. -/
def decodeAt (i : Nat) (p0 p1 p2 : Word) : Instr :=
  if i + Decode.parcelCount p0 ≤ 15 then Decode.word p0 p1 p2 else Decode.crossing p0 p1

namespace Decode

/-! The encoder. -/

/-- The opcode and the fields of an instruction of the 64-bit map; none for every other constructor. -/
def fieldsOf : Instr → Option (BitVec 8 × Fields)
  | .nop g => some (0x00#8, blank g)
  | .bra g d => some (0x01#8, dispF g d)
  | .brc g o => some (0x02#8, brcF g o)
  | .brx g a => some (0x03#8, srcAF g a)
  | .call g d => some (0x04#8, dispF g d)
  | .callx g a => some (0x05#8, srcAF g a)
  | .ret g => some (0x06#8, blank g)
  | .exit g => some (0x07#8, blank g)
  | .pand g o => some (0x08#8, predsF g o)
  | .por g o => some (0x09#8, predsF g o)
  | .pxor g o => some (0x0A#8, predsF g o)
  | .pnot g o => some (0x0B#8, pred2F g o)
  | .pmov g o => some (0x0C#8, pred2F g o)
  | .ppack g d => some (0x0D#8, { blank g with dst := d })
  | .punpk g a => some (0x0E#8, { blank g with a := a })
  | .sel g o => some (0x0F#8, selF g o)
  | .iadd g s o => some (0x10#8, alu3vF g 0#4 o (0#4 ++ BitVec.ofBool s))
  | .isub g s o => some (0x11#8, alu3vF g 0#4 o (0#4 ++ BitVec.ofBool s))
  | .imul g o => some (0x12#8, alu3vF g 0#4 o 0#5)
  | .imulh g o => some (0x13#8, alu3vF g 0#4 o 0#5)
  | .imad g o => some (0x14#8, alu4F g o)
  | .idiv g la o => some (0x15#8, alu3vF g la o 0#5)
  | .irem g la o => some (0x16#8, alu3vF g la o 0#5)
  | .imin g o => some (0x17#8, alu3vF g 0#4 o 0#5)
  | .imax g o => some (0x18#8, alu3vF g 0#4 o 0#5)
  | .iabs g o => some (0x19#8, alu2F g o)
  | .ineg g o => some (0x1A#8, alu2F g o)
  | .iset g o => some (0x1B#8, isetF g o)
  | .lea g o => some (0x1C#8, addr64F g o)
  | .add64 g o => some (0x1D#8, addr64F g o)
  | .sub64 g o => some (0x1E#8, addr64F g o)
  | .mul64 g o => some (0x1F#8, alu3vF g 0#4 o 0#5)
  | .and g o => some (0x20#8, alu3vF g 0#4 o 0#5)
  | .or g o => some (0x21#8, alu3vF g 0#4 o 0#5)
  | .xor g o => some (0x22#8, alu3vF g 0#4 o 0#5)
  | .not g o => some (0x23#8, alu2F g o)
  | .shl g o => some (0x24#8, alu3vF g 0#4 o 0#5)
  | .shr g o => some (0x25#8, alu3vF g 0#4 o 0#5)
  | .sar g o => some (0x26#8, alu3vF g 0#4 o 0#5)
  | .rol g o => some (0x27#8, alu3vF g 0#4 o 0#5)
  | .bfx g o => some (0x28#8, alu3vF g 0#4 o 0#5)
  | .bfi g o => some (0x29#8, alu4F g o)
  | .popc g o => some (0x2A#8, alu2F g o)
  | .clz g o => some (0x2B#8, alu2F g o)
  | .ctz g o => some (0x2C#8, alu2F g o)
  | .brev g o => some (0x2D#8, alu2F g o)
  | .mov g o => some (0x30#8, movF g o)
  | .movi g o => some (0x31#8, moviF g o)
  | .lit g d x => some (0x32#8, { blank g with wide := true, dst := d, lit := x })
  | .movs g o => some (0x33#8, movsF g o)
  | .gets g d r => some (0x34#8, { blank g with dst := d, a := sregCode r })
  | .sets g r a => some (0x35#8, { blank g with dst := sregCode r, a := a })
  | .rngd g la o => some (0x36#8, rngdF g la o)
  | .rngs g a b => some (0x37#8, { blank g with a := a, b := b, fmt := 7#4 })
  | .bxq g la o => some (0x38#8, bxOpsF g la o)
  | .bxd g o => some (0x39#8, bxOpsF g 0#4 o)
  | .bxex g o => some (0x3A#8, bxexF g o)
  | .fadd g o => some (0x40#8, flt3F g 0#4 o)
  | .fsub g o => some (0x41#8, flt3F g 0#4 o)
  | .fmul g o => some (0x42#8, flt3F g 0#4 o)
  | .ffma g o => some (0x43#8, flt4F g o)
  | .fmin g o => some (0x44#8, flt3F g 0#4 o)
  | .fmax g o => some (0x45#8, flt3F g 0#4 o)
  | .fset g o => some (0x46#8, fsetF g o)
  | .fclass g o => some (0x47#8, flt2vF g 0#4 o 0#5)
  | .fcvt g o => some (0x48#8, flt2vF g 0#4 ⟨o.fmt, o.rnd, o.d, o.a⟩ (0#1 ++ ffmtCode o.src))
  | .ftoi g o => some (0x49#8, flt2vF g 0#4 ⟨o.fmt, o.rnd, o.d, o.a⟩ (0#1 ++ ifmtCode o.int))
  | .itof g o => some (0x4A#8, flt2vF g 0#4 ⟨o.fmt, o.rnd, o.d, o.a⟩ (0#1 ++ ifmtCode o.int))
  | .frnd g o => some (0x4B#8, flt2vF g 0#4 o 0#5)
  | .fdiv g la o => some (0x50#8, flt3F g la o)
  | .fsqrt g la o => some (0x51#8, flt2vF g la o 0#5)
  | .frcp g la o => some (0x52#8, flt2vF g la o 0#5)
  | .frsq g la o => some (0x53#8, flt2vF g la o 0#5)
  | .fexp2 g la o => some (0x54#8, flt2vF g la o 0#5)
  | .flog2 g la o => some (0x55#8, flt2vF g la o 0#5)
  | .fsin g la o => some (0x56#8, flt2vF g la o 0#5)
  | .fcos g la o => some (0x57#8, flt2vF g la o 0#5)
  | .ftanh g la o => some (0x58#8, flt2vF g la o 0#5)
  | .shfl g la o => some (0x60#8, crossF g la o.fmt o.d o.a o.b (0#2 ++ shflCode o.mode ++ 0#1))
  | .vote g m d a => some (0x61#8, voteF g (predF d) (predF a) (voteCode m))
  | .ballot g d a => some (0x62#8, voteF g d (predF a) 0#2)
  | .lred g la o => some (0x63#8, redF g la o)
  | .lscan g la o => some (0x64#8, redF g la o)
  | .elect g d => some (0x65#8, voteF g (predF d) 0#7 0#2)
  | .readl g la o => some (0x66#8, crossF g la o.fmt o.d o.a o.b 0#5)
  | .ld g la o => some (0x70#8, ldstF g la o)
  | .st g o => some (0x71#8, ldstF g 0#4 o)
  | .atom g la o => some (0x72#8, atomF g la o)
  | .ordinit g o => some (0x73#8, ordOpsF g o)
  | .aaddf g o => some (0x74#8, ordOpsF g o)
  | .fence g ord sc => some (0x75#8, noMemF g 0#4 sc (ordCode ord) 0#3 0#7 0#7)
  | .qfence g sc m => some (0x76#8, noMemF g 0#4 sc 0#3 0#3 (m.extractLsb' 0 7) (0#6 ++ m.extractLsb' 7 1))
  | .pref g sc i m => some (0x77#8, memF g m 0#4 0#4 sc 0#3 (0#2 ++ BitVec.ofBool i) 0#7 (m.idx.getD 0#7) (memC m))
  | .cpy g la o => some (0x78#8, cpyF g la o)
  | .cpys g la o => some (0x79#8, cpysF g la o)
  | .sleepto g o => some (0x7A#8, cellF g 0#4 o 0#3)
  | .srput g sc r a => some (0x7B#8, noMemF g 0#4 sc 0#3 r a 0#7)
  | .srget g la sc r d => some (0x7C#8, noMemF g la sc 0#3 r d 0#7)
  | .tbinit g o => some (0x80#8, cellF g 0#4 o 0#3)
  | .tbexp g o => some (0x81#8, cellF g 0#4 o 0#3)
  | .tbarr g o => some (0x82#8, cellF g 0#4 o 0#3)
  | .tbwait g o => some (0x83#8, cellF g 0#4 o 0#3)
  | .tbtest g la q o => some (0x84#8, cellF g la { o with d := predF q } 0#3)
  | .cinit g o => some (0x88#8, cellF g 0#4 o 0#3)
  | .cinitCount g o => some (0x88#8, cellF g 0#4 o 1#3)
  | .cfill g o => some (0x89#8, cellF g 0#4 o 0#3)
  | .cfillCnt g o => some (0x89#8, cellF g 0#4 o 1#3)
  | .cwait g o => some (0x8A#8, cellF g 0#4 o 0#3)
  | .cequ g o => some (0x8B#8, cellF g 0#4 o 0#3)
  | .ctest g la q o => some (0x8C#8, cellF g la { o with b := predF q } 0#3)
  | .cpeek g la o => some (0x8D#8, cellF g la o 0#3)
  | .mclaim g s => some (0x90#8, { blank g with a := slotF s })
  | .mrel g s => some (0x91#8, { blank g with a := slotF s })
  | .mld g o => some (0x92#8, { blank g with dst := tokF o.t, a := o.a, b := o.stride, c := slotF o.slot })
  | .mzero g t w tile => some (0x93#8, { blank g with dst := tokF t, c := bitF w, tail := tile })
  | .mma g o => some (0x94#8, { blank g with dst := tokF o.t, a := slotF o.a, b := slotF o.b, c := o.e,
                                             fmt := ffmtCode o.fmt, tail := o.tile })
  | .mtrn g o => some (0x95#8, { blank g with dst := tokF o.t, a := slotF o.slot, c := o.m, fmt := ffmtCode o.fmt,
                                              tail := o.tile })
  | .mprm g o => some (0x96#8, { blank g with dst := tokF o.t, a := slotF o.slot, b := o.p, c := o.m,
                                              fmt := ffmtCode o.fmt, tail := o.tile })
  | .mred g o => some (0x97#8, { blank g with dst := tokF o.t, a := slotF o.slot, b := bitF o.col, c := o.m,
                                              fmt := ffmtCode o.fmt, rs := rndCode o.rnd, tail := o.tile })
  | .mst g o => some (0x98#8, mldcF g o)
  | .mldc g o => some (0x99#8, mldcF g o)
  | .mwait g d t => some (0x9A#8, { blank g with dst := d, a := tokF t })
  | .mtest g d t => some (0x9B#8, { blank g with dst := predF d, a := tokF t })
  | .sighSrp g o => some (0xA0#8, sigF g o.t (slotF o.w) o.q (0#2 ++ o.h) (ffmtCode o.fmt) 0#2 o.kb)
  | .sighKey g o => some (0xA0#8, sigF g o.t 0#7 o.q o.k 0#4 1#2 o.kb)
  | .sigb g o => some (0xA1#8, sigF g o.t (slotF o.oW) o.q (slotF o.oD) (ffmtCode o.fmt) (ruleCode o.rule) o.kb)
  | .sigs g o => some (0xA2#8, sigF g o.t 0#7 o.q 0#7 (if o.f64 then 0#4 else 1#4) 0#2 o.kb)
  | .sigg g o => some (0xA3#8, sigF g o.t 0#7 o.q 0#7 (if o.f64 then 0#4 else 1#4) (0#1 ++ BitVec.ofBool o.avg) o.kb)
  | .sigmap g o => some (0xA4#8, sigF g o.t 0#7 o.q 0#7 0#4 0#2 o.kb)
  | .fork g o => some (0xB0#8, forkF g o)
  | .forkr g o => some (0xB1#8, forkF g o)
  | .iter g q d => some (0xB2#8, { blank g with dst := d, b := predF q })
  | .join g => some (0xB3#8, blank g)
  | .joinr g => some (0xB4#8, blank g)
  | .fdrop g q => some (0xB5#8, { blank g with dst := predF q })
  | .fdepth g d => some (0xB6#8, { blank g with dst := d })
  | .bind g w => some (0xB7#8, { blank g with tail := writeA { tailA0 with variant := 0#3 ++ w } })
  | .unbind g => some (0xB8#8, blank g)
  | .reconv g => some (0xB9#8, blank g)
  | .yield g b => some (0xBA#8, { blank g with tail := writeA { tailA0 with variant := 0#4 ++ BitVec.ofBool b } })
  | .acquire g => some (0xBB#8, blank g)
  | .spawn g o => some (0xBC#8, spawnF g o)
  | .tdone g a v => some (0xBD#8, { blank g with a := upairF a, b := v, tail := writeA { tailA0 with ua := upairU a } })
  | .tdoneR g => some (0xBD#8, { blank g with tail := writeA { tailA0 with variant := 1#5 } })
  | .wlpush g o => some (0xC0#8, spawnF g o)
  | .wlpop g la o => some (0xC1#8, { blank g with dst := o.d, a := upairF o.a, b := predF o.q, la := la,
                                                  tail := writeA { tailA0 with ua := upairU o.a } })
  | .wlins g o => some (0xC2#8, spawnF g o)
  | .wlcnt g la o => some (0xC3#8, { blank g with dst := o.d, a := upairF o.a, la := la,
                                                  tail := writeA { tailA0 with ua := upairU o.a } })
  | .trap g x => some (0xC8#8, immF g x)
  | .region g x => some (0xC9#8, immF g x)
  | .bkpt g x => some (0xCA#8, immF g x)
  | .emuret g => some (0xCB#8, blank g)
  | _ => none

/-- A short word from its guard, its fields and its short opcode (02 R48). -/
def shortWord (g : Guard) (b a d : BitVec 7) (op6 : BitVec 6) : Word :=
  BitVec.ofBool g.neg ++ g.q ++ b ++ a ++ d ++ op6 ++ 0#1
/-- A short word with three v registers. -/
def shortRrr (g : Guard) (o : Rrr) (op6 : BitVec 6) : Word := shortWord g o.b o.a o.d op6
/-- A short word with a displacement. -/
def shortDisp (g : Guard) (d : BitVec 21) (op6 : BitVec 6) : Word := BitVec.ofBool g.neg ++ g.q ++ d ++ op6 ++ 0#1

/-- The word of a short form (02 R57, Table 8); none for every other constructor. -/
def shortOf : Instr → Option Word
  | .nopShort g => some (shortWord g 0#7 0#7 0#7 0x01#6)
  | .braShort g d => some (shortDisp g d 0x02#6)
  | .callShort g d => some (shortDisp g d 0x03#6)
  | .retShort g => some (shortWord g 0#7 0#7 0#7 0x04#6)
  | .exitShort g => some (shortWord g 0#7 0#7 0#7 0x05#6)
  | .movShort g o => some (shortWord g 0#7 o.a o.d 0x06#6)
  | .iaddShort g o => some (shortRrr g o 0x07#6)
  | .isubShort g o => some (shortRrr g o 0x08#6)
  | .imulShort g o => some (shortRrr g o 0x09#6)
  | .andShort g o => some (shortRrr g o 0x0A#6)
  | .orShort g o => some (shortRrr g o 0x0B#6)
  | .xorShort g o => some (shortRrr g o 0x0C#6)
  | .shlShort g o => some (shortRrr g o 0x0D#6)
  | .shrShort g o => some (shortRrr g o 0x0E#6)
  | .sarShort g o => some (shortRrr g o 0x0F#6)
  | .iminShort g o => some (shortRrr g o 0x10#6)
  | .imaxShort g o => some (shortRrr g o 0x11#6)
  | .faddShort g o => some (shortRrr g o 0x12#6)
  | .fsubShort g o => some (shortRrr g o 0x13#6)
  | .fmulShort g o => some (shortRrr g o 0x14#6)
  | .ffmaShort g o => some (shortRrr g o 0x15#6)
  | .fminShort g o => some (shortRrr g o 0x16#6)
  | .fmaxShort g o => some (shortRrr g o 0x17#6)
  | .pandShort g d a b => some (shortWord g (predF b) (predF a) (predF d) 0x18#6)
  | .porShort g d a b => some (shortWord g (predF b) (predF a) (predF d) 0x19#6)
  | .pxorShort g d a b => some (shortWord g (predF b) (predF a) (predF d) 0x1A#6)
  | .pnotShort g d a => some (shortWord g 0#7 (predF a) (predF d) 0x1B#6)
  | .pmovShort g d a => some (shortWord g 0#7 (predF a) (predF d) 0x1C#6)
  | .retiredOpcodeShort _ w => some w
  | _ => none

/-- The parcels of a raw word; the literal of a raw 96-bit word is no part of it and is written as 0. -/
def rawParcels (w : RawWord) : List Word :=
  match w.len.toNat with
  | 1 => [w.p0]
  | 2 => [w.p0, w.p1]
  | 3 => [w.p0, w.p1, 0#32]
  | _ => []

end Decode

/-- The parcels of an instruction, first at the lowest address; the device's own steps have none. -/
def encode (i : Instr) : List Word :=
  match Decode.shortOf i with
  | some w => [w]
  | none =>
    match Decode.fieldsOf i with
    | some (op, f) => Decode.writeFields op f
    | none =>
      match i with
      | .retiredOpcode _ w => Decode.rawParcels w
      | .reservedEncoding _ _ w => Decode.rawParcels w
      | _ => []

/-- The parcels an instruction's word takes (02 R47): its length in 4-byte units. -/
def parcelsOf (i : Instr) : Nat := (encode i).length

/-- The instruction in the `nbits` low bits of `w`, bit 0 being the least significant bit of the first parcel; the
bits above `nbits` are 0. -/
def decodeTableWord (nbits w : Nat) : Option Instr :=
  let x := w % 2 ^ nbits
  match decodeParcels [BitVec.ofNat 32 x, BitVec.ofNat 32 (x / 2 ^ 32), BitVec.ofNat 32 (x / 2 ^ 64)] with
  | .ok i => some i
  | .error _ => none

end Sys2Proof
end

