-- ==== Sys2Proof/Config.lean ====
section
/-! DEFINITION. What one implementation fixes, and the free values: constants without a body where the
spec leaves a value open. -/

namespace Sys2Proof.Config

/-- The revision identifier of stepping A0 (22_host_fabric_bringup.md R427).
DESIGN CHOICE (log 3): which stepping this module is. -/
def revision : Word := 0x48390000#32

/-- The x coordinate of the fused root public key (17_code_objects.md R382). DESIGN CHOICE (log 12): a free value. -/
opaque rootKeyX : Nat
/-- The y coordinate of the fused root public key (17_code_objects.md R382). DESIGN CHOICE (log 12): a free value. -/
opaque rootKeyY : Nat
/-- The least firmware version the fuses admit (22 R435). DESIGN CHOICE (log 12): a free value. -/
opaque fwMinVersion : Nat
/-- Which of the outcomes the spec lists the device takes from the n-th beat on: flag k of State.Choices (00_scope.md R6;
22 R435). DESIGN CHOICE (log 10): a free value. -/
opaque choose : Nat → Nat → Bool
/-- Which of the long-latency instructions under way ends first, by the cycle, where they end one at a time (02 R73).
DESIGN CHOICE (log 10): a free value. -/
opaque lateFirst : Nat → Nat
/-- Whether another module's owner check lets an access pass, by the cycle, the frame and the key (16 R365).
DESIGN CHOICE (log 47): a free value; that module decides. -/
opaque remoteGrant : Nat → Nat → Nat → Bool
/-- What a byte of a block that stage 0 does not serve reads as (22 R433). DESIGN CHOICE (log 108): a free value. -/
opaque unservedByte : Nat → Byte
/-- The extra nanoseconds of the n-th promised completion time (04_memory_instructions.md R125).
DESIGN CHOICE (log 11): a free value; R125 bounds it from below only. -/
opaque promiseDelay : Nat → BitVec 32
/-- The bits and flags of a transcendental result (operation, format, mode, operand) which no precision the model
computes with has decided (06_numbers.md R169). DESIGN CHOICE (log 13): a free value. -/
opaque transcendental : Nat → Nat → Nat → Nat → Nat × BitVec 5
/-- How many units a causal buffer holds beyond one 32-byte sector's (03_memory_model.md R97). DESIGN CHOICE (log 100):
a free value; the spec gives no size. -/
opaque causalRoom : Nat
/-- Whether the n-th unit that an operation stopped by a forced reset could still write is written (08_matrix_engine.md
R251; 09_signature_stage.md R268; 19_faults_traps_preemption.md R414). DEDUCED (log 80): a free value; the spec allows
any subset. -/
opaque resetKeeps : Nat → Bool
/-- A byte of a swap record, whose inner layout the spec does not give (16 R374). DESIGN CHOICE (log 14). -/
opaque swapByte : Nat → Byte

/-- The offset in this module's DRAM from which firmware reserves memory: its highest 54 MiB hold the frame-owner table
(16_contexts_translation.md R364). DESIGN CHOICE (log 17): the spec gives the size and not the place. -/
def reservedBase : Nat := 0x6C00000000 - 54 * 2 ^ 20

end Sys2Proof.Config
end

