-- ==== Sys2Proof/Machine/State.lean ====
section
/-! DEFINITION. The state of the Slarex H9, all of it plain data, and the state after reset.
INVENTORY.md lists every field with the rule of spec/ that names it. -/

namespace Sys2Proof.Machine

/-- A table from numbers, sorted by key without repeats; an absent key reads as the table's default. -/
abbrev Map (α : Type) := List (Nat × α)

/-- Bytes of memory, sorted by location without repeats, no entry 0: an unlisted byte reads 0 (log 6). -/
abbrev Memory := List Host.Cell

/-- A run of numbers `start` to `start + count - 1` with a tag. -/
structure Range where
  start : Nat
  count : Nat
  tag   : Nat
  deriving DecidableEq, Repr

/-- Roles (12_execution_model.md R282). -/
inductive Role where
  | general | copy | matrix | vector
  deriving DecidableEq, Repr

/-- The sixteen causes a thread can take (19_faults_traps_preemption.md R395, Table 1). -/
inductive Cause where
  | illegalInstruction | illegalRole | illegalConvergence | badTarget | retiredOpcode | alignment
  | permission | absence | poison | stackLimit | slotOwnership | orderedCell | conflictingFill
  | promiseMiss | breakpoint | systemCall
  deriving DecidableEq, Repr

/-- A cause met by a thread, with the fields of its record (19 R395, R401). `at_` is the fetched address of a fetch
fault, which the record's pc field names. -/
structure Trap where
  cause : Cause
  sub   : Nat
  addr  : DWord
  info0 : DWord
  info1 : DWord
  info2 : DWord
  at_   : Option DWord
  /-- The location of the barrier a promise-miss names (19 R405). -/
  bar   : Option Nat
  deriving DecidableEq, Repr

/-- A token register (08_matrix_engine.md R239): the bound group and operation it waits for, or complete. -/
structure Token where
  pend  : Option (Nat × Nat)
  flags : BitVec 5
  deriving DecidableEq, Repr

/-- A latent frame (12 R289, Table 4), with the die vector the device keeps beside it (03_memory_model.md R99), and whether
its bytes were poisoned when they were read back (19 R398). -/
structure Frame where
  entry    : BitVec 57
  range    : Bool
  bound    : Bool
  promoted : Bool
  join     : DWord
  lo       : Word
  hi       : Word
  grain    : Word
  args     : List Word
  site     : BitVec 57
  bwidth   : BitVec 2
  bpos     : BitVec 5
  dv       : Vector Nat 8
  poison   : Bool
  deriving DecidableEq, Repr

/-- Why a thread stalls (12 R297): it keeps its lane, is not ready, and executes its instruction again once the
reason is gone. -/
inductive Stall where
  /-- A full engine queue (04 R119, R122; 08 R236), with the issue group the instruction issued in (04 R124). -/
  | room (q : Nat) (issue : Nat)
  /-- A full engine queue at which a bound group waits (08 R236), or one its operation does not enter yet (03 R96). -/
  | groupRoom (q : Nat)
  /-- A QFENCE whose marker `id` has not entered the queues of `left` (04 R119). -/
  | markers (id : Nat) (left : Byte)
  /-- Signature metadata with earlier writers outstanding (09 R267). -/
  | metadata (kb : Nat)
  /-- An ordered add at a full window (03 R103). -/
  | window (cell : Nat)
  /-- A full barrier waiter table (04 R130). -/
  | barrierTable (bar : Nat)
  /-- An arrival at a barrier whose pending_arrivals is 0 (04 R130, Table 7): it waits for the end of `phase`. -/
  | arrival (bar : Nat) (phase : BitVec 4)
  /-- A stage ring (04 R134). -/
  | ring (r : Nat)
  /-- No free physical slot (08 R228). -/
  | slot
  /-- An ACQUIRE, with its order of issue (12 R285). -/
  | pool (order : Nat)
  /-- A rendezvous of a bound group or of a BIND block (07 R217; 13 R310). -/
  | meet
  /-- A cell message in flight (05 R149). -/
  | message (k : Nat)
  /-- A page request at the host, for a 4 KiB page of a PASID (22 R424). -/
  | page (pasid page : Nat)
  /-- A trap met while instructions of the thread are incomplete (02_encoding.md R75): it is taken once none is. -/
  | trap (tr : Trap)
  deriving DecidableEq, Repr

/-- What a thread does when the cell it waits for is filled (05 R150; 13 R305, R306, R307). -/
inductive CellCont where
  /-- CWAIT: the pair at `d` receives the value. -/
  | wait (d : VReg)
  /-- JOIN: v0:v1 receive the value. -/
  | join
  /-- JOINR. -/
  | joinr
  /-- A join made on behalf of EXIT, TDONE or TDONE.r: the ending goes on. -/
  | ending (value : Bool)
  deriving DecidableEq, Repr

/-- Why a thread is parked (12 R297). -/
inductive Park where
  | cell (c : CellCont)
  /-- A recorded waiter of `phase` (04 R130). -/
  | barrier (bar : Nat) (phase : BitVec 4)
  /-- SLEEPTO (04 R132): the barrier's address as the operand names it, its location, the phase and the count. -/
  | sleep (addr : DWord) (bar : Nat) (phase : BitVec 4) (until_ : DWord)
  | token (t : BitVec 4) (d : VReg)
  /-- YIELD.beat (13 R313). -/
  | beat
  /-- A fault or trap (19 R396); `written` once its record is written. -/
  | trap (tr : Trap) (written : Bool)
  deriving DecidableEq, Repr

/-- The run state of a thread (12 R276, R297). -/
inductive Status where
  /-- Ready since a cycle (12 R277). -/
  | ready (since : Nat)
  | stalled (why : Stall)
  | parked (why : Park)
  /-- Held by RECONV since a cycle (13 R312). -/
  | held (since : Nat)
  /-- Not started before a chronometer count (14_scheduling.md R346); while a block of its team is still to be zeroed the
  number counts from the end of the zeroing. -/
  | waiting (start : Nat)
  deriving DecidableEq, Repr

/-- A long-latency instruction not complete (02_encoding.md R73): its number, its place in the thread's order, its
lookahead, the registers and predicates it writes, and whether it raises flags (06_numbers.md R172). -/
structure Pending where
  id   : Nat
  nth  : Nat
  la   : Nat
  regs : List VReg
  pred : Option PReg
  flags : Bool
  deriving DecidableEq, Repr

/-- A local block: its virtual base, its size in bytes and the KiB of its stack area (16_contexts_translation.md R372). -/
structure Block where
  base : Nat
  size : Nat
  kib  : Nat
  deriving DecidableEq, Repr

/-- A thread (12 R273). `spilled` holds the die vectors of the frames that stand in memory, oldest first, and `chip` the
frames on chip, oldest first (12 R284, R289; 03 R99). `npc` is the address a parked thread goes on at once its event
comes; `trail` the scope of the FENCE.sc that trails the instruction last executed (03 R83); `pos` the position of a
promoted thread's draws, fixed at its promotion (06 R180); `zero` while its block waits for a budget to be zeroed
(14_scheduling.md R348; 16 R373), and `piece` the range frame that a promoted thread then still gets (12 R292). -/
structure Thread where
  team    : Nat
  tid     : Word
  gang    : Option Nat
  home    : Nat
  group   : Option Nat
  allot   : Nat
  v       : Vector Word 128
  vp      : Vector Bool 128
  q       : Vector Bool 7
  sp      : DWord
  ln      : DWord
  stklim  : DWord
  tok     : Vector Token 16
  fpflags : BitVec 5
  region  : BitVec 57
  tag     : BitVec 11
  replays : Nat
  pnone   : DWord
  pskip   : DWord
  pdefer  : DWord
  spilled : List (Vector Nat 8)
  chip    : List Frame
  recv    : Bool
  pc      : DWord
  npc     : DWord
  ctr     : DWord
  key     : Option DWord
  status  : Status
  replay  : Bool
  issued  : Nat
  board   : List Pending
  emu     : Option (Option (List Word))
  ending  : Bool
  lent    : Bool
  lentFrames : Nat
  block   : Block
  dv      : Vector Nat 8
  pri     : Nat
  trail   : Option Scope
  pos     : Option Nat
  zero    : Bool
  piece   : Option Frame
  deriving DecidableEq, Repr

/-- A bound group (12 R281): its members by position; `log` lists its engine operations in acceptance order, each
with its flags once complete (08 R239). -/
structure Group where
  team    : Nat
  members : List Nat
  log     : List (Nat × Option (BitVec 5))
  live    : Bool
  deriving DecidableEq, Repr

/-- A gang (12 R279). -/
structure Gang where
  index  : Nat
  core   : Nat
  base   : Nat
  width  : Nat
  role   : Role
  allot  : Nat
  legacy : Bool
  s      : Vector Word 64
  key    : DWord
  deriving DecidableEq, Repr

/-- An entry of a stage ring (04 R133). -/
structure RingEntry where
  value : Word
  full  : Bool
  deriving DecidableEq, Repr

/-- A stage ring (04 R133), with the threads that wait at it in order, putting and taking (R134).
DEDUCED (log 33). -/
structure Ring where
  entries : Vector RingEntry 16
  put     : BitVec 4
  get     : BitVec 4
  putq    : List Nat
  getq    : List Nat
  deriving DecidableEq, Repr

/-- A physical operand slot bound to a name of a team (08 R228). -/
structure SlotBind where
  phys : Nat
  team : Nat
  name : Nat
  deriving DecidableEq, Repr

/-- An accumulator share (08 R230): tiles `base` to `base + n - 1` of the core. -/
structure Share where
  team : Nat
  base : Nat
  n    : Nat
  deriving DecidableEq, Repr

/-- A signature buffer (09_signature_stage.md R253): `poison` 0 none, 3 uncorrectable, 4 malformed (09 R267), for the
key part and for the map part. -/
structure SigBuf where
  team : Nat
  kb   : Nat
  sigs : List (BitVec 16)
  rows : Nat
  h    : Nat
  map  : List Byte
  kpoison : Nat
  mpoison : Nat
  deriving DecidableEq, Repr

/-- A work-list entry on chip (13_thread_instructions.md R316): the list is named by the context and the header's
address. -/
structure WlEntry where
  team : Nat
  ctx  : Nat
  header : DWord
  value  : Word
  deriving DecidableEq, Repr

/-- The states of an array sequencer (08 R249). -/
inductive ArrayState where
  | idle | busy | holding | quiet
  deriving DecidableEq, Repr

/-- An element or sector of a copy (04 R123), with its thread's team: locations, or virtual addresses of the queue's
context when `late`; `going` once its line operation has started (14 R347), `sent` once its data are on the mesh
(03 R96); the key slots its destination and its source were reached under (16_contexts_translation.md R365). -/
structure CopyElem where
  dst   : Nat
  src   : Nat
  n     : Nat
  bar   : Option Nat
  late  : Bool
  conn  : Option Nat
  going : Bool
  team  : Nat
  sent  : Bool
  dkey  : Nat
  skey  : Nat
  deriving DecidableEq, Repr

/-- A matrix or signature operation in its queue (08 R236): its place in the acceptance order, its bound group, and
what it captured at acceptance: the physical slots, the tiles of the core and the buffer parts it reads and writes,
register values, locations of memory with the key slots they were reached under (16 R365), the members' draws (key, counter, position), and its debit. -/
structure EngOp where
  accept : Nat
  group  : Nat
  instr  : Instr
  slotsR : List Nat
  slotsW : List Nat
  tilesR : List Nat
  tilesW : List Nat
  bufsR  : List Nat
  bufsW  : List Nat
  words  : List Word
  locs   : List Nat
  keys   : List Nat
  draws  : List (DWord × DWord × Nat)
  debit  : Nat
  deriving DecidableEq, Repr

/-- What stands in an engine queue (03 R95). -/
inductive QKind where
  /-- A QFENCE's marker with the queues of its set (04 R119). -/
  | marker (mask : Byte)
  | copy (left : List (Nat × CopyElem)) (packet : Option Nat)
  | eng (op : EngOp)
  deriving DecidableEq, Repr

/-- An entry of an engine queue. A line operation of CPY keeps the issue group whose elements it merges and the time they
were promised (04 R124, R125). -/
structure QEntry where
  id      : Nat
  ctx     : Nat
  team    : Nat
  bytes   : Nat
  started : Bool
  kind    : QKind
  line    : Option (Nat × DWord)
  deriving DecidableEq, Repr

/-- The state of one core: among it the beat at which its place in a partition last changed (16 R356). -/
structure CoreState where
  energy  : Nat
  binds   : List SlotBind
  slots   : Memory
  slotP   : List Nat
  tiles   : Memory
  tileP   : List Nat
  shares  : List Share
  bufs    : List SigBuf
  queues  : Vector (List QEntry) 8
  arr0    : ArrayState
  arr1    : ArrayState
  accept  : Nat
  wl      : List WlEntry
  copyUsed : Map Nat
  egrUsed  : Map Nat
  leaving : Bool
  changed : Nat
  deriving DecidableEq, Repr

/-- The states of a promise cell (05_promise_cells.md R135). -/
inductive CellState where
  | empty | full | linked | count
  deriving DecidableEq, Repr

/-- The events of 05 R144, Table 2. -/
inductive CellEv where
  | fill (x : DWord)
  | count (d : DWord)
  | link (t : Nat)
  | wait
  | query
  | init (count : Bool) (m : DWord)
  deriving DecidableEq, Repr

/-- What a message is for (05 R150). `tdone` marks a TDONE's fill (13 R307); a count made by JOINR says whether it then
waits, and how it goes on (13 R306). -/
inductive Goal where
  | fill (x : DWord) (tdone : Bool)
  | count (d : DWord) (joinr : Option (Bool × CellCont))
  | wait (c : CellCont)
  | test (q : PReg) (d : VReg)
  | peek (d : VReg)
  | equate (other : Nat)
  | init (count : Bool) (m : DWord)
  deriving DecidableEq, Repr

/-- A root a walk returned: its address, location, state, body, and the hops. DEDUCED (log 51). -/
structure Root where
  va   : Nat
  loc  : Nat
  st   : CellState
  body : DWord
  hops : Nat
  deriving DecidableEq, Repr

/-- Where a message stands (05 R139, R144): a walk at a cell, a reply on its way back, or an event on its way. -/
inductive Stage where
  | walk (cell : Nat)
  | reply (root : Root)
  | event (ev : CellEv) (target : Nat)
  deriving DecidableEq, Repr

/-- A walk or an event in flight (05 R139, R144): the cell its instruction names, the cells its present walk has
visited, by location and address, and the roots of the walks before. `first` are the cells a CEQU's first walk visited,
`sent` the value of its FILL once that follows links (05 R150). -/
structure Msg where
  ctx     : Nat
  place   : Nat
  cell    : Nat
  goal    : Goal
  stage   : Stage
  hops    : Nat
  visited : List (Nat × Nat)
  roots   : List Root
  result  : Option Root
  first   : List (Nat × Nat)
  sent    : Option DWord
  deriving DecidableEq, Repr

/-- A thread that waits at a cell (05 R142): the cell's location, its virtual address and context; the core its record
names, and the module when it is another's. `team` is set for a swapped-out thread, whose `place` is then its %tid, its
record naming the core it left; another module's is marked with the team's number there (05 R143). -/
structure CellWaiter where
  loc   : Nat
  va    : Nat
  ctx   : Nat
  place : Nat
  team  : Option Nat
  module : Option Nat
  core  : Nat
  deriving DecidableEq, Repr

/-- A waiter record on its way to a parent (05 R142): from the location that held it, toward a virtual address, whose
location is known once it is translated; the module and the core it names. -/
structure Forward where
  src   : Nat
  va    : Nat
  loc   : Option Nat
  ctx   : Nat
  module : Option Nat
  core  : Nat
  who   : List (Nat × Option Nat)
  deriving DecidableEq, Repr

/-- A thread recorded at a barrier unit (04 R130); `team` as in `CellWaiter`. -/
structure BarWaiter where
  bar   : Nat
  phase : BitVec 4
  place : Nat
  team  : Option Nat
  deriving DecidableEq, Repr

/-- An add held in a reorder window (03 R103), with the place of its thread while that thread lives, and whether it is an
acquire beyond its own thread (03 R82, R104). -/
structure HeldAdd where
  place : Option Nat
  acq  : Bool
  rank : Nat
  span : Nat
  x    : DWord
  deriving DecidableEq, Repr

/-- The ordered state of a live cell (04 R440). -/
structure LiveCell where
  loc    : Nat
  n      : Nat
  e      : Nat
  f64    : Bool
  ctx    : Nat
  window : List HeldAdd
  deriving DecidableEq, Repr

/-- A write on the mesh, one single-copy unit (03 R93, R94, R97): its context, the thread that issued it or else the
element of a copy (core, queue, operation, sector), the key slot it was reached under where one is kept (16 R365), its
issuing and owning die and its stamp; `whole` is the write it is a unit of: the number all its units share, its location and its size. -/
structure MeshWrite where
  id    : Nat
  ctx   : Nat
  place : Option Nat
  elem  : Option (Nat × Nat × Nat × Nat)
  key   : Option Nat
  whole : Nat × Nat × Nat
  die   : Nat
  dest  : Nat
  stamp : Vector Nat 8
  loc   : Nat
  bytes : List Byte
  poison : Bool
  deriving DecidableEq, Repr

/-- A write to another module, `dest`, that its owner has performed and not acknowledged (03 R98).
DEDUCED (log 43). -/
structure Unacked where
  id    : Nat
  place : Nat
  dest  : Nat
  deriving DecidableEq, Repr

/-- A record that its unit holds (19 R400), with the thread it names, `team` as in `CellWaiter`: `unit` 0 to 143 a core's
threads; 144 + 3c, + 1, + 2 the barrier unit, copy engines and work-list unit of core c; 576 the command processor,
577 Holtlink, 578 Ethernet, 579 firmware. -/
structure HeldRecord where
  id    : Nat
  unit  : Nat
  ctx   : Nat
  kind  : Nat
  place : Option Nat
  team  : Option Nat
  bytes : List Byte
  deriving DecidableEq, Repr

/-- A cached table entry (16 R363): the last entry of a walk, a leaf or one that ends it with a fault, its level and the
range of addresses it maps. -/
structure Tlb where
  core : Nat
  ctx  : Nat
  base : Nat
  size : Nat
  pte  : DWord
  level : Nat
  deriving DecidableEq, Repr

/-- A line of an instruction cache, 128 bytes in four sectors of 32 (00_scope.md R2, Table 1; 17_code_objects.md R384). -/
structure CacheLine where
  core    : Nat
  ctx     : Nat
  va      : Nat
  sectors : Vector (Option (List Byte)) 4
  deriving DecidableEq, Repr

/-- A kernel descriptor as the Piccolo read it (17 R381). -/
structure KDesc where
  entry  : Nat
  role   : Role
  allot  : Nat
  legacy : Bool
  deriving DecidableEq, Repr

/-- The stages of a packet (14 R325, R335); `failed` is that of a failed queue whose end waits for its context's budget
(14 R324, R348). -/
inductive PStage where
  | read | held | ready | distributed | resident | failed
  deriving DecidableEq, Repr

/-- A packet (14 R322). `parent` is the CALLBUF whose buffer holds it; `next` counts the beats its next team has
stood unplaced (14 R344); `warm` counts the sectors of its warm copy not yet handed to copy engines. -/
structure Packet where
  queue  : Nat
  ctx    : Nat
  typ    : Nat
  addr   : Nat
  bytes  : List Byte
  parent : Option Nat
  stage  : PStage
  rank   : Word
  order  : Nat
  kds    : List KDesc
  total  : Nat
  placed : Nat
  live   : Nat
  warm   : Nat
  status : Nat
  next   : Nat
  deriving DecidableEq, Repr

/-- A command queue: its descriptor (14 R320), its counters (14 R338), and the Piccolo's position: the slots it has
read, the call buffers open (address, slots left, packet), and the JOIN it stopped at (14 R325). `failing` is a failure's
reason and read_index while packets of the queue still wait for their end (14 R324). -/
structure Queue where
  desc    : BitVec 512
  vfin    : Word
  scratch : Word
  seen    : Word
  calls   : List (Nat × Nat × Nat)
  stop    : Option Nat
  stalled : Option Nat
  failing : Option (Nat × Nat)
  deriving DecidableEq, Repr

/-- The fields of a header that the device maintains and never takes from memory (19 R399, Table 3; 00_scope.md R9). -/
structure QCount where
  write : Word
  lost  : Word
  deriving DecidableEq, Repr

/-- A context: its descriptor (16 R353), the serials it has counted (19 R401), the DRAM bytes charged in this beat
by channel (14 R348), its pre-emption deadline (19 R413), the local blocks whose zeroing faulted (16 R373), and the counts
of its fault-record queue and its system-call ring (19 R399). -/
structure Ctx where
  desc     : BitVec 1024
  serials  : Word
  used     : Map Nat
  deadline : Option Nat
  stopped  : List Bool
  bad      : List Block
  frq      : QCount
  scr      : QCount
  deriving DecidableEq, Repr

/-- What a swapped-out team keeps (16 R374, Table 5): threads by %tid, with `where_` their places at the swap; the window
by offset; slots, tiles, buffers and work-list entries under the core's number in the rectangle, or 6 + core outside it.
DESIGN CHOICE (log 14). -/
structure Saved where
  threads : Map Thread
  where_  : Map Nat
  window  : Memory
  windowP : List Nat
  slots   : List (Nat × Nat × Memory × List Nat)
  tiles   : List (Nat × Memory × List Nat)
  bufs    : List (Nat × SigBuf)
  wl      : List (Nat × WlEntry)
  shareN  : Nat
  deriving DecidableEq, Repr

/-- A team (12 R280). `x0`, `y0` its lowest core's column and row. -/
structure Team where
  ctx    : Nat
  serial : Word
  index  : Word
  packet : Nat
  x0     : Nat
  y0     : Nat
  w      : Nat
  h      : Nat
  width  : Nat
  share  : Nat
  slotNeed : Nat
  kib    : Nat
  count  : Nat
  gangs  : List Gang
  rings  : Vector Ring 8
  saved  : Option Saved
  area   : Option (Nat × Nat)
  succ   : Option Nat
  deriving DecidableEq, Repr

/-- A command block (16 R368; 19 R412; 22_host_fabric_bringup.md R428, R435): its registers as software writes them, or
the command it runs, as it stood when go was written, with busy and the status. -/
structure Block8 where
  op      : BitVec 4
  mode    : BitVec 2
  setv    : Bool
  ctx     : BitVec 12
  size    : BitVec 2
  key     : BitVec 13
  busy    : Bool
  status  : BitVec 2
  a       : DWord
  b       : DWord
  key1    : BitVec 256
  key2    : BitVec 256
  deriving DecidableEq, Repr

/-- Sensors and counters (22 R438). -/
structure Sensors where
  temps  : List (BitVec 16)
  power  : Word
  vcore  : BitVec 16
  corrected : DWord
  poisoned  : DWord
  link   : Vector DWord 18
  eth    : Vector DWord 8
  deriving DecidableEq, Repr

/-- Which of the outcomes the spec lists the device takes (00_scope.md R6; log 10). -/
structure Choices where
  /-- Stores to another die and cell messages travel the mesh as steps of their own (03 R97; 05 R139). -/
  mesh   : Bool
  /-- Translations and lines are kept in the caches, and used (16 R363; 17 R384). -/
  cache  : Bool
  /-- An ATS request finds no translation (22 R424). -/
  noAts  : Bool
  /-- The running Shawm image has stopped answering the Fife core's check (22 R435). -/
  silent : Bool
  /-- Long-latency instructions end one at a time, a cycle of issue after each (02 R73; 20_program_gather_fault.md R417). -/
  late   : Bool
  deriving DecidableEq, Repr

/-- The whole machine. `links` holds, for the location of a promise cell that an event or a walk linked, the location its
parent had then: it counts while the cell stays LINKED (05 R157). -/
structure State where
  -- time and identity
  chron    : Nat
  cycle    : Nat
  beat     : DWord
  nextBeat : Nat
  period   : BitVec 15
  step     : BitVec 6
  stage    : BitVec 2
  fwFail   : Bool
  module   : BitVec 12
  coreOff  : BitVec 144
  fwVersion : BitVec 40
  training : Bool
  checking : Bool
  overTemp : Bool
  overPower : Bool
  shut     : Bool
  -- management space
  iso      : Block8
  rec_     : Block8
  inst     : Block8
  mail     : Block8
  isoReg   : Block8
  recReg   : Block8
  instReg  : Block8
  mailReg  : Block8
  allow    : Map (BitVec 16)
  intMap   : Map Word
  ranks    : Map (BitVec 512)
  sensors  : Sensors
  transport : Map (BitVec 256)
  msi      : List (Nat × Nat)
  ctxs     : Map Ctx
  queues   : Map Queue
  -- isolation
  frames   : List Range
  keys     : Map (BitVec 256 × BitVec 256)
  certified : List Range
  tlb      : List Tlb
  lines    : List CacheLine
  ats      : List (Nat × Nat)
  unreachable : List Nat
  -- memory
  mem      : Memory
  poison   : List Nat
  mesh     : List MeshWrite
  unacked  : List Unacked
  dies     : Vector (Vector Nat 8) 8
  ordered  : List LiveCell
  barWaiters  : List BarWaiter
  cellWaiters : List CellWaiter
  links    : Map Nat
  forwards : Map Forward
  msgs     : Map Msg
  -- cores, teams, threads
  cores    : Vector CoreState 144
  teams    : Map Team
  groups   : Map Group
  threads  : Map Thread
  -- command processor and records
  packets  : Map Packet
  gvt      : Word
  records  : List HeldRecord
  -- the model's own (DESIGN CHOICE, log 1, log 9, log 10)
  agenda   : List Instr
  issue    : List Nat
  cur      : Nat
  free     : Nat
  serial   : Nat
  choices  : Choices
  deriving DecidableEq, Repr

/-- Why the model stops. -/
inductive Fault where
  /-- Raised by every thread instruction when no live, ready thread stands at `State.cur`. Safe: `step` issues only
  ready threads, so no run reaches it, and no instruction takes effect without a thread. -/
  | noThread (place : Nat)
  deriving DecidableEq, Repr

/-- Why the model gives an instruction no meaning. -/
inductive Refusal where
  /-- Raised by an arm of `exec` for an instruction not modelled yet. Safe: the model stops where the device goes on. -/
  | notModelled (mnemonic : String)
  deriving DecidableEq, Repr

/-- A stage ring at team start (04 R133). -/
def Ring.empty : Ring := ⟨Vector.replicate 16 ⟨0#32, false⟩, 0#4, 0#4, [], []⟩

/-- A command block after reset (16 R368; 19 R412; 22 R428; the mailbox: log 4). -/
def Block8.reset : Block8 :=
  ⟨0#4, 0#2, false, 0#12, 0#2, 0#13, false, 0#2, 0#64, 0#64, 0#256, 0#256⟩

/-- A queue whose descriptor nothing has written (14 R320): weight 1, ring_log2 4. -/
def Queue.reset : Queue := ⟨BitVec.ofNat 512 (1 <<< 72 ||| 4 <<< 64), 0#32, 0#32, 0#32, [], none, none, none⟩

/-- A context whose descriptor nothing has written (16 R353). -/
def Ctx.reset : Ctx := ⟨0#1024, 0#32, [], none, [], [], ⟨0#32, 0#32⟩, ⟨0#32, 0#32⟩⟩

/-- A core after reset (14 R347; 08 R249; log 7, log 8). -/
def CoreState.reset : CoreState :=
  { energy := 0, binds := [], slots := [], slotP := [], tiles := [], tileP := [], shares := [], bufs := []
    queues := Vector.replicate 8 [], arr0 := .idle, arr1 := .idle, accept := 0, wl := []
    copyUsed := [], egrUsed := [], leaving := false, changed := 0 }

/-- The machine right after reset: what INVENTORY.md says of each field.
DESIGN CHOICE (log 4). DESIGN CHOICE (log 5). -/
def State.reset : State :=
  { chron := 0, cycle := 0, beat := 0#64, nextBeat := 4096, period := 64#15, step := 1#6
    stage := 0#2, fwFail := false, module := 0#12, coreOff := 0#144, fwVersion := 0#40
    training := false, checking := false, overTemp := false, overPower := false, shut := false
    iso := Block8.reset, rec_ := Block8.reset, inst := Block8.reset, mail := Block8.reset
    isoReg := Block8.reset, recReg := Block8.reset, instReg := Block8.reset, mailReg := Block8.reset
    allow := [], intMap := [], ranks := []
    sensors := ⟨List.replicate 9 0#16, 0#32, 0#16, 0#64, 0#64, Vector.replicate 18 0#64, Vector.replicate 8 0#64⟩
    transport := [], msi := [], ctxs := [], queues := []
    frames := [], keys := [], certified := [], tlb := [], lines := [], ats := [], unreachable := []
    mem := [], poison := [], mesh := [], unacked := [], dies := Vector.replicate 8 (Vector.replicate 8 0)
    ordered := [], barWaiters := [], cellWaiters := [], links := [], forwards := [], msgs := []
    cores := Vector.replicate 144 CoreState.reset, teams := [], groups := [], threads := []
    packets := [], gvt := 0#32, records := []
    agenda := [], issue := [], cur := 0, free := 0, serial := 1, choices := ⟨false, false, false, false, false⟩ }

end Sys2Proof.Machine
end

