-- ==== Sys2Proof/Machine/Ops.lean ====
section
/-! DEFINITION. The named operations over tables, memory, registers and contexts, translation, and taking an
exception: the one operation every fault and trap of a thread goes through (19_faults_traps_preemption.md R396). -/

namespace Sys2Proof.Machine

/-- The three outcomes of this machine. -/
abbrev Out := Host.Outcome State Fault Refusal

/-! Tables. -/

/-- The entry of a key. -/
def mget {α : Type} : Map α → Nat → Option α
  | [], _ => none
  | (j, x) :: r, k => if j = k then some x else mget r k

/-- A table with the entry of a key set, its keys kept rising. -/
def mset {α : Type} : Map α → Nat → α → Map α
  | [], k, x => [(k, x)]
  | (j, y) :: r, k, x => if j < k then (j, y) :: mset r k x else if j = k then (k, x) :: r else (k, x) :: (j, y) :: r

/-- A table without a key. -/
def mdel {α : Type} (m : Map α) (k : Nat) : Map α := m.filter fun e => e.1 != k

/-! Ranges of frames. -/

/-- The tag of the range that holds `k`. -/
def rget : List Range → Nat → Option Nat
  | [], _ => none
  | r :: rs, k => if r.start ≤ k ∧ k < r.start + r.count then some r.tag else rget rs k

/-- What is left of a range outside [start, start + count). -/
def rangeRest (start count : Nat) (r : Range) : List Range :=
  if r.start + r.count ≤ start ∨ start + count ≤ r.start then [r]
  else
    (if r.start < start then [⟨r.start, start - r.start, r.tag⟩] else []) ++
    (if start + count < r.start + r.count then [⟨start + count, r.start + r.count - (start + count), r.tag⟩] else [])

/-- Ranges without [start, start + count). -/
def rcut (rs : List Range) (start count : Nat) : List Range := rs.flatMap (rangeRest start count)

/-- Whether two ranges meet. -/
def rangesMeet (a n b m : Nat) : Bool := decide (a < b + m) && decide (b < a + n)

/-- How many numbers of [start, start + count) a range holds. -/
def rangeHit (start count : Nat) (r : Range) : Nat :=
  min (r.start + r.count) (start + count) - max r.start start

/-- How many numbers of [start, start + count) the ranges hold under a tag. -/
def rcount (rs : List Range) (start count tag : Nat) : Nat :=
  (rs.map fun r => if r.tag = tag then rangeHit start count r else 0).sum

/-! Bytes (00_scope.md R7). -/

/-- The number whose little-endian bytes these are. -/
def leNat : List Byte → Nat
  | [] => 0
  | b :: r => b.toNat + 256 * leNat r

/-- The `n` low bytes of a number, little-endian. -/
def toBytes : Nat → Nat → List Byte
  | 0, _ => []
  | n + 1, x => BitVec.ofNat 8 x :: toBytes n (x / 256)

/-- Bits [off + w - 1 : off] of a word, as a number. -/
def field {n : Nat} (x : BitVec n) (off w : Nat) : Nat := (x.extractLsb' off w).toNat

/-- A word with bits [off + w - 1 : off] replaced. -/
def setField {n : Nat} (x : BitVec n) (off w v : Nat) : BitVec n :=
  (x &&& ~~~(BitVec.ofNat n ((2 ^ w - 1) <<< off))) ||| BitVec.ofNat n ((v % 2 ^ w) <<< off)

/-! Memory (03_memory_model.md R77 to R80). A location is a number: a physical address of DRAM, below 2^52; a byte of
slice c at 2^52 + c × 2^22; a host address under a PASID at 2^53 + pasid × 2^64. -/

/-- What a byte of memory reads as: 0 where nothing is listed (log 6). -/
def memByte : Memory → Nat → Byte
  | [], _ => 0#8
  | (k, b) :: r, a => if k = a then b else memByte r a

/-- A byte written: writing 0 removes the entry, so that equal memories are equal lists. -/
def memPut : Memory → Nat → Byte → Memory
  | [], a, b => if b = 0#8 then [] else [(a, b)]
  | (k, c) :: r, a, b =>
    if k < a then (k, c) :: memPut r a b
    else if k = a then (if b = 0#8 then r else (a, b) :: r)
    else if b = 0#8 then (k, c) :: r else (a, b) :: (k, c) :: r

/-- `n` bytes from `a` up. -/
def memRead (m : Memory) (a : Nat) : Nat → List Byte
  | 0 => []
  | n + 1 => memByte m a :: memRead m (a + 1) n

/-- Bytes written from `a` up. -/
def memWrite (m : Memory) (a : Nat) : List Byte → Memory
  | [] => m
  | b :: r => memWrite (memPut m a b) (a + 1) r

/-- Bytes [a, a + n) made zero. -/
def memZero (m : Memory) (a n : Nat) : Memory := m.filter fun c => !(decide (a ≤ c.1) && decide (c.1 < a + n))

/-- The bytes of [a, a + n), moved so that `a` becomes 0. -/
def memCut (m : Memory) (a n : Nat) : Memory :=
  (m.filter fun c => decide (a ≤ c.1) && decide (c.1 < a + n)).map fun c => (c.1 - a, c.2)

/-- The canonical form: addresses strictly rising and no entry 0. -/
def memWf : Memory → Bool
  | [] => true
  | [(_, b)] => b != 0#8
  | (k, b) :: (j, c) :: r => decide (k < j) && b != 0#8 && memWf ((j, c) :: r)

/-- A sorted list of numbers with one more. -/
def setAdd : List Nat → Nat → List Nat
  | [], k => [k]
  | j :: r, k => if j < k then j :: setAdd r k else if j = k then j :: r else k :: j :: r

/-- The 16-byte halves that bytes [a, a + n) touch (19 R398). -/
def halves (a n : Nat) : List Nat :=
  if n = 0 then [] else (List.range ((a + n - 1) / 16 - a / 16 + 1)).map (a / 16 + ·)

/-- The poison marks after a write of [a, a + n): poisoned data marks every half it touches, other data clears the
halves it covers wholly (19 R398). DESIGN CHOICE (log 39). -/
def markWrite (ps : List Nat) (a n : Nat) (poisoned : Bool) : List Nat :=
  if poisoned then (halves a n).foldl setAdd ps
  else ps.filter fun h => !(decide (a ≤ 16 * h) && decide (16 * h + 16 ≤ a + n))

namespace State

/-- Bytes of memory. -/
def read (s : State) (a n : Nat) : List Byte := memRead s.mem a n
/-- Whether any half of [a, a + n) is poisoned. -/
def poisoned (s : State) (a n : Nat) : Bool := (halves a n).any (s.poison.contains ·)
/-- Bytes written at a location: memory, poison, and the certified bits of the frames of DRAM (17 R383). -/
def write (s : State) (a : Nat) (bs : List Byte) (p : Bool := false) : State :=
  { s with
    mem := memWrite s.mem a bs
    poison := markWrite s.poison a bs.length p
    certified := if a < 2 ^ 52 then rcut s.certified (a / 32768) ((a + bs.length + 32767) / 32768 - a / 32768)
                 else s.certified }
/-- Bytes [a, a + n) made zero, poison cleared (16 R370), and the certified bits of their frames of DRAM (17 R383). -/
def zero (s : State) (a n : Nat) : State :=
  { s with
    mem := memZero s.mem a n
    poison := markWrite s.poison a n false
    certified := if a < 2 ^ 52 then rcut s.certified (a / 32768) ((a + n + 32767) / 32768 - a / 32768) else s.certified }
/-- The thread at a place. -/
def thr (s : State) (p : Nat) : Option Thread := mget s.threads p
/-- The thread at a place, set. -/
def setThr (s : State) (p : Nat) (t : Thread) : State := { s with threads := mset s.threads p t }
/-- No thread at a place. -/
def dropThr (s : State) (p : Nat) : State := { s with threads := mdel s.threads p }
/-- A context. -/
def ctx (s : State) (c : Nat) : Ctx := (mget s.ctxs c).getD Ctx.reset
/-- A context, set. -/
def setCtx (s : State) (c : Nat) (x : Ctx) : State := { s with ctxs := mset s.ctxs c x }
/-- A queue. -/
def queue (s : State) (q : Nat) : Queue := (mget s.queues q).getD Queue.reset
/-- A queue, set. -/
def setQueue (s : State) (q : Nat) (x : Queue) : State := { s with queues := mset s.queues q x }
/-- A core; numbers above 143 name none and read as core 143. DEDUCED (log 98). -/
def core (s : State) (c : Nat) : CoreState := s.cores[min c 143]'(by omega)
/-- A core, set. -/
def setCore (s : State) (c : Nat) (x : CoreState) : State :=
  { s with cores := s.cores.set (min c 143) x (by omega) }
/-- A team. -/
def team (s : State) (k : Nat) : Option Team := mget s.teams k
/-- A team, set. -/
def setTeam (s : State) (k : Nat) (x : Team) : State := { s with teams := mset s.teams k x }
/-- A bound group. -/
def group (s : State) (k : Nat) : Option Group := mget s.groups k
/-- A bound group, set. -/
def setGroup (s : State) (k : Nat) (x : Group) : State := { s with groups := mset s.groups k x }
/-- A packet. -/
def packet (s : State) (k : Nat) : Option Packet := mget s.packets k
/-- A packet, set. -/
def setPacket (s : State) (k : Nat) (x : Packet) : State := { s with packets := mset s.packets k x }
/-- A state after one more serial is taken. -/
def bump (s : State) : State := { s with serial := s.serial + 1 }

end State

/-! Places (12_execution_model.md R273): core × 2,048 + lane × 16 + slot. -/

/-- The core of a place. -/
def coreOf (p : Nat) : Nat := p / 2048
/-- The lane of a place. -/
def laneOf (p : Nat) : Nat := p / 16 % 128
/-- The slot of a place. -/
def slotOf (p : Nat) : Nat := p % 16
/-- The bank of a place. -/
def bankOf (p : Nat) : Nat := laneOf p / 32
/-- The place of a core, lane and slot. -/
def placeOf (core lane slot : Nat) : Nat := core * 2048 + lane * 16 + slot
/-- The compute die of a core (00_scope.md: 18 cores, 6 wide and 3 tall; 2 dies across and 4 down). -/
def dieOf (core : Nat) : Nat := core / 12 / 3 * 2 + core % 12 / 6

/-! Context fields (16_contexts_translation.md R353; 19 R399). -/

/-- A field of a context's descriptor. -/
def cfield (s : State) (c off w : Nat) : Nat := field (s.ctx c).desc off w
/-- A field of a context's descriptor, set. -/
def setCfield (s : State) (c off w v : Nat) : State :=
  s.setCtx c { s.ctx c with desc := setField (s.ctx c).desc off w v }
/-- Whether a context is enabled. -/
def ctxEnabled (s : State) (c : Nat) : Bool := cfield s c 0 1 == 1
/-- The debug bit. -/
def ctxDebug (s : State) (c : Nat) : Bool := cfield s c 1 1 == 1
/-- The ap_ord bit. -/
def ctxApOrd (s : State) (c : Nat) : Bool := cfield s c 2 1 == 1
/-- The PASID. -/
def ctxPasid (s : State) (c : Nat) : Nat := cfield s c 8 20
/-- Whether core k lies in a context's partition as it reads back. -/
def inPartition (s : State) (c k : Nat) : Bool := (s.ctx c).desc.getLsbD (320 + k)
/-- The base of the SRAM aperture. -/
def apertureBase (s : State) (c : Nat) : Nat := cfield s c 128 57
/-- The pre-emption state. -/
def pstate (s : State) (c : Nat) : Nat := cfield s c 921 2

/-! Places of memory. -/

/-- The location of a byte of a slice (03 R78). DESIGN CHOICE (log 6). -/
def sliceLoc (core off : Nat) : Nat := 2 ^ 52 + core * 2 ^ 22 + off
/-- The location of a host address under a PASID. DESIGN CHOICE (log 6). DEDUCED (log 30). -/
def hostLoc (pasid addr : Nat) : Nat := 2 ^ 53 + pasid * 2 ^ 64 + addr
/-- Whether a location lies in a slice. -/
def isSlice (a : Nat) : Bool := decide (2 ^ 52 ≤ a) && decide (a < 2 ^ 53)
/-- Whether a location lies in host memory. -/
def isHost (a : Nat) : Bool := decide (2 ^ 53 ≤ a)
/-- The module field of a physical address (22 R429). -/
def moduleOf (a : Nat) : Nat := a / 2 ^ 40
/-- Whether a location lies on this module (22 R429). -/
def isHere (s : State) (a : Nat) : Bool := isSlice a || (decide (a < 2 ^ 52) && moduleOf a == s.module.toNat)
/-- Whether a location lies on a module that is unreachable (22 R430). -/
def isLost (s : State) (a : Nat) : Bool := decide (a < 2 ^ 52) && !isHere s a && s.unreachable.contains (moduleOf a)
/-- The channel of a location of its module's DRAM (03 R439). -/
def channelOf (a : Nat) : Nat := a % 2 ^ 40 / (3 * 2 ^ 30)
/-- The owner of a location as a number: the slice's core, 144 + the channel's core, 288 for the host, or a channel of
another module's DRAM (03 R80, R439). -/
def ownerOf (s : State) (a : Nat) : Nat :=
  if isSlice a then (a - 2 ^ 52) / 2 ^ 22
  else if isHere s a then 144 + channelOf a
  else if isHost a then 288 else 289 + moduleOf a * 1024 + channelOf a
/-- The compute die of a location's owner; none for the host and other modules. -/
def dieAt (s : State) (a : Nat) : Option Nat :=
  if isSlice a then some (dieOf ((a - 2 ^ 52) / 2 ^ 22))
  else if isHere s a then some (dieOf (channelOf a)) else none

/-! Traps (19 R395). -/

/-- The rank of a cause (19 R395, Table 1). -/
def Cause.rank : Cause → Nat
  | .illegalInstruction | .illegalConvergence | .badTarget => 1
  | .retiredOpcode | .illegalRole => 2
  | .alignment => 3
  | .permission => 4
  | .absence => 5
  | .poison => 6
  | _ => 7

/-- The number of a cause. -/
def Cause.number : Cause → Nat
  | .illegalInstruction => 1
  | .illegalRole => 2
  | .illegalConvergence => 3
  | .badTarget => 4
  | .retiredOpcode => 5
  | .alignment => 6
  | .permission => 7
  | .absence => 8
  | .poison => 9
  | .stackLimit => 10
  | .slotOwnership => 11
  | .orderedCell => 12
  | .conflictingFill => 13
  | .promiseMiss => 14
  | .breakpoint => 15
  | .systemCall => 16

/-- A trap with its cause, subcause, address and info0. -/
def mkTrap (c : Cause) (sub : Nat) (addr : DWord) (i0 : DWord := 0#64) (i1 : DWord := 0#64) (i2 : DWord := 0#64) : Trap :=
  ⟨c, sub, addr, i0, i1, i2, none, none⟩

/-- The trap that counts among several of one instruction: the lowest rank, and the first of that rank (19 R395).
DEDUCED (log 27). -/
def worst : List Trap → Option Trap
  | [] => none
  | t :: r =>
    match worst r with
    | none => some t
    | some u => if t.cause.rank ≤ u.cause.rank then some t else some u

/-! Translation (16 R358 to R365). -/

/-- What an access needs (16 R361); `noHost` is the subcause of its permission fault in host memory, where host memory may
not serve it. -/
structure Access where
  r   : Bool
  w   : Bool
  x   : Bool
  ord : Bool
  noHost : Option Nat := none
  deriving DecidableEq, Repr

/-- A load. -/
def Access.load : Access := ⟨true, false, false, false, .none⟩
/-- A store. -/
def Access.store : Access := ⟨false, true, false, false, .none⟩
/-- An atomic. -/
def Access.both : Access := ⟨true, true, false, false, .none⟩
/-- An ordered-cell access, never to host memory (04 R115). -/
def Access.cell : Access := ⟨true, true, false, true, some 9⟩
/-- No access: where an address goes. -/
def Access.none : Access := ⟨false, false, false, false, .none⟩
/-- An instruction fetch. -/
def Access.fetch : Access := ⟨false, false, true, false, .none⟩
/-- An access that host memory may not serve, by the subcause of its fault (19 R395, Table 1). -/
def Access.notHost (a : Access) (sub : Nat := 9) : Access := { a with noHost := some sub }

/-- Where an access goes: its location, the leaf it used (0 for the aperture and the window), and the page. -/
structure Place where
  loc  : Nat
  leaf : DWord
  base : Nat
  size : Nat
  deriving DecidableEq, Repr

/-- The key slot a leaf's access goes under (16 R365). -/
def leafKey (ctx : Nat) (leaf : DWord) : Nat := if leaf.getLsbD 6 then 4096 + field leaf 52 12 else ctx
/-- The key slot a place was reached under (16 R365). -/
def Place.key (ctx : Nat) (pl : Place) : Nat := leafKey ctx pl.leaf

/-- What a check of an address answers. -/
inductive Chk (α : Type) where
  | ok    (x : α)
  | trap  (t : Trap)
  | stall (w : Stall)
  deriving DecidableEq, Repr

/-- The next check after one. -/
def Chk.bind {α β : Type} (c : Chk α) (f : α → Chk β) : Chk β :=
  match c with
  | .ok x => f x
  | .trap t => .trap t
  | .stall w => .stall w

/-- A malformed entry at a level (16 R360). -/
def malformed (l : Nat) (e : DWord) : Bool :=
  let leaf := e.getLsbD 1
  (leaf && l < 2) || (!leaf && l == 4)
  || (!leaf && l < 3 && field e 9 3 != 0)
  || (leaf && l == 2 && field e 15 15 != 0)
  || (leaf && l == 3 && field e 15 6 != 0)
  || (leaf && field e 9 6 != 0)
  || (!leaf && (field e 2 7 != 0 || field e 52 12 != 0))
  || (leaf && e.getLsbD 8)
  || (leaf && ((e.getLsbD 3 && !e.getLsbD 2) || (e.getLsbD 3 && e.getLsbD 4)
        || (e.getLsbD 5 && !(e.getLsbD 2 && e.getLsbD 3))))
  || (leaf && field e 52 12 != 0 && !e.getLsbD 6)
  || (leaf && e.getLsbD 7 && (e.getLsbD 6 || e.getLsbD 5))

/-- The bytes of addresses an entry maps at a level (16 R358). -/
def leafSize (l : Nat) : Nat :=
  if l == 0 then 2 ^ 48 else if l == 1 then 2 ^ 39 else if l == 2 then 2 ^ 30 else if l == 3 then 2 ^ 21 else 2 ^ 15

/-- The index of a virtual address at a level (16 R358). -/
def levelIndex (ea : DWord) (l : Nat) : Nat :=
  match l with
  | 0 => field ea 48 9
  | 1 => field ea 39 9
  | 2 => field ea 30 9
  | 3 => field ea 21 9
  | _ => field ea 15 6

/-- The last entry a walk reads and its level (16 R358), from table `t` at level `l`, `n` levels at most: a leaf, or one
that is invalid or malformed; none where it reads poisoned data, as every load of an unreachable module gives (16 R363; 19
R398; 22 R430). DEDUCED (log 46). -/
def walkLast (s : State) (ea : DWord) : Nat → Nat → Nat → Option (DWord × Nat)
  | 0, l, _ => some (1#64, l)
  | n + 1, l, t =>
    let a := t + 8 * levelIndex ea l
    let e := BitVec.ofNat 64 (leNat (s.read a 8))
    if s.poisoned a 8 || isLost s a then none
    else if !e.getLsbD 0 || malformed l e || e.getLsbD 1 then some (e, l)
    else walkLast s ea n (l + 1) (field e 9 43 * 512)

/-- What the last entry of a walk says: the leaf and its level, or the fault (16 R360); poisoned data faults at the access
that consumes it (19 R398). DEDUCED (log 46). -/
def entryAnswer (ea : DWord) : Option (DWord × Nat) → Except Trap (DWord × Nat)
  | none => .error (mkTrap .poison 0 ea)
  | some x =>
    if !x.1.getLsbD 0 then .error (mkTrap .absence 0 ea (BitVec.ofNat 64 x.2) x.1)
    else if malformed x.2 x.1 || !x.1.getLsbD 1 then .error (mkTrap .absence 1 ea (BitVec.ofNat 64 x.2) x.1)
    else .ok x

/-- The walk from table `t` at level `l`, `n` levels at most (16 R358): the leaf and its level, or the fault.
DEDUCED (log 46). -/
def walkTables (s : State) (ea : DWord) (n l t : Nat) : Except Trap (DWord × Nat) := entryAnswer ea (walkLast s ea n l t)

/-- The permission checks of a leaf in order (16 R361), before the owner's. -/
def permCheck (ea leaf : DWord) (a : Access) : Option Trap :=
  if a.r && !leaf.getLsbD 2 then some (mkTrap .permission 0 ea leaf)
  else if a.w && !leaf.getLsbD 3 then some (mkTrap .permission 1 ea leaf)
  else if a.x && !leaf.getLsbD 4 then some (mkTrap .permission 2 ea leaf)
  else if a.ord && !leaf.getLsbD 5 then some (mkTrap .permission 3 ea leaf)
  else none

/-- Whether a frame of DRAM is granted under a key slot (16 R365); of a frame of another module that `State.frames` does not
list, that module's answer is a free value. DEDUCED (log 46). DESIGN CHOICE (log 47). -/
def granted (s : State) (key pa : Nat) : Bool :=
  match rget s.frames (pa / 32768) with
  | some k => k == key
  | none => !isHere s pa && Config.remoteGrant s.cycle (pa / 32768) key
/-- Whether the key slot of an access to this module's DRAM is loaded (16 R367); another module's keys are its own. -/
def keyReady (s : State) (key pa : Nat) : Bool := !isHere s pa || (mget s.keys key).isSome
/-- The owner check of a DRAM frame (16 R365, R367): the frame granted under the access's key, and that key loaded; an
empty key slot gives its own subcause (16 R361). DEDUCED (log 46). -/
def ownerCheck (s : State) (ctx : Nat) (ea leaf : DWord) (pa : Nat) : Option Trap :=
  if !keyReady s (leafKey ctx leaf) pa then some (mkTrap .permission 8 ea leaf)
  else if !granted s (leafKey ctx leaf) pa then some (mkTrap .permission 4 ea leaf)
  else none
/-- Whether an access located before, under a key slot, may still be performed at its owner (16 R365, R369).
DESIGN CHOICE (log 109). -/
def mayStill (s : State) (key loc : Nat) : Bool :=
  decide (2 ^ 52 ≤ loc) || moduleOf loc == 4095 || isLost s loc || (granted s key loc && keyReady s key loc)
/-- Whether a location is one a context's own records may reach: its frame, in this module's DRAM, is granted to the
context or shared (16 R365). DEDUCED (log 49). -/
def ctxMay (s : State) (ctx loc : Nat) : Bool :=
  decide (2 ^ 52 ≤ loc) || !isHere s loc || match rget s.frames (loc / 32768) with
    | some k => k == ctx || decide (4096 ≤ k)
    | none => false

/-- The code of a host page whose request was answered (22 R424). DEDUCED (log 31). -/
def priCode (pasid page : Nat) (refused : Bool) : Nat := 2 + 2 * (pasid * 2 ^ 52 + page) + (if refused then 1 else 0)
/-- The access through a leaf, after its walk (16 R361; 22 R429, R432, R424). `transport` admits a transport window;
`pri` is 0, or 1 when the device itself accesses and makes no page request, or the code of the page whose request was
answered: a refused page is absent; else the access is retried once, and a page without a translation then is absent.
DEDUCED (log 30). -/
def throughLeaf (s : State) (ctx : Nat) (ea leaf : DWord) (l : Nat) (a : Access) (transport : Bool) (pri : Nat) :
    Chk Place :=
  let size := leafSize l
  let pa := field leaf 9 43 * 512 + ea.toNat % size
  match permCheck ea leaf a with
  | some t => .trap t
  | none =>
    if leaf.getLsbD 7 then
      let pas := ctxPasid s ctx
      match a.noHost with
      | some sub => .trap (mkTrap .permission sub ea leaf)
      | none =>
      if pri == priCode pas (pa / 4096) true then .trap (mkTrap .absence 0 ea (BitVec.ofNat 64 l) leaf)
      else if s.choices.noAts && !s.ats.contains (pas, pa / 4096) then
        if pri == 0 || (pri != 1 && pri != priCode pas (pa / 4096) false) then .stall (.page pas (pa / 4096))
        else .trap (mkTrap .absence 0 ea (BitVec.ofNat 64 l) leaf)
      else .ok ⟨hostLoc pas pa, leaf, ea.toNat / size * size, size⟩
    else if moduleOf pa == 4095 then
      if transport then .ok ⟨pa, leaf, ea.toNat / size * size, size⟩ else .trap (mkTrap .permission 4 ea leaf)
    else if 3072 ≤ moduleOf pa ∨ 0x6C00000000 ≤ pa % 2 ^ 40 then
      .trap (mkTrap .absence 2 ea (BitVec.ofNat 64 l) leaf)
    else
      match ownerCheck s ctx ea leaf pa with
      | some t => .trap t
      | none => .ok ⟨pa, leaf, ea.toNat / size * size, size⟩

/-- The cached entry that translates an address on a core (16 R363). -/
def tlbHit (s : State) (core ctx : Nat) (ea : Nat) : Option (DWord × Nat) :=
  if s.choices.cache then
    (s.tlb.find? fun e => e.core == core && e.ctx == ctx && decide (e.base ≤ ea) && decide (ea < e.base + e.size)).map
      fun e => (e.pte, e.level)
  else none

/-- The entry a translation on a core uses: the cached one, or the one it walks to (16 R358, R363). -/
def entryFor (s : State) (core ctx : Nat) (ea : DWord) : Option (DWord × Nat) :=
  (tlbHit s core ctx ea.toNat).or (walkLast s ea 5 0 (cfield s ctx 64 52))

/-- The translation of a virtual address (16 R358, R362). DESIGN CHOICE (log 10). DEDUCED (log 46). -/
def translate (s : State) (core ctx : Nat) (ea : DWord) (a : Access) (transport : Bool := false) (pri : Nat := 0) :
    Chk Place :=
  if field ea 57 7 != 0 then .trap (mkTrap .absence 2 ea)
  else
    let ab := apertureBase s ctx
    if ab ≤ ea.toNat ∧ ea.toNat < ab + 576 * 2 ^ 20 then
      let o := ea.toNat - ab
      if !inPartition s ctx (o / 2 ^ 22) then .trap (mkTrap .permission 5 ea)
      else if a.x then .trap (mkTrap .permission 2 ea)
      else if a.ord && !ctxApOrd s ctx then .trap (mkTrap .permission 3 ea)
      else .ok ⟨2 ^ 52 + o, 0#64, ab, 576 * 2 ^ 20⟩
    else
      match entryAnswer ea (entryFor s core ctx ea) with
      | .error t => .trap t
      | .ok (leaf, l) => throughLeaf s ctx ea leaf l a transport pri

/-- The location of a window offset (03 R79). -/
def windowLoc (tm : Team) (o : Nat) : Nat :=
  let k := o / 2 ^ 22
  sliceLoc (12 * (tm.y0 + k / tm.w) + (tm.x0 + k % tm.w)) (o % 2 ^ 22)

/-- An access in the w space (03 R79; 16 R362). -/
def windowAccess (s : State) (tm : Team) (o : DWord) (a : Access) : Chk Place :=
  if a.ord && !ctxApOrd s tm.ctx then .trap (mkTrap .permission 3 o)
  else if tm.w * tm.h * 2 ^ 22 ≤ o.toNat then .trap (mkTrap .absence 2 o)
  else .ok ⟨windowLoc tm o.toNat, 0#64, 0, 0⟩

/-- The virtual address of a location, where it is a slice's byte: its aperture address (05_promise_cells.md R441).
DEDUCED (log 36). -/
def apertureVa (s : State) (ctx loc : Nat) : Nat := apertureBase s ctx + (loc - 2 ^ 52)

/-! Registers (02_encoding.md R51). -/

/-- A v register. -/
def Thread.rv (t : Thread) (n : VReg) : Word := t.v[n.toNat]'n.isLt
/-- A v pair. -/
def Thread.rv64 (t : Thread) (n : VReg) : DWord := pair (t.rv n) (t.rv (n + 1#7))
/-- A v register written: its poison is cleared (19 R398). -/
def Thread.setV (t : Thread) (n : VReg) (x : Word) : Thread :=
  { t with v := t.v.set n.toNat x n.isLt, vp := t.vp.set n.toNat false n.isLt }
/-- A v pair written. -/
def Thread.setV64 (t : Thread) (n : VReg) (x : DWord) : Thread := (t.setV n (lo32 x)).setV (n + 1#7) (hi32 x)
/-- A v register marked poisoned (19 R398). -/
def Thread.markV (t : Thread) (n : VReg) : Thread := { t with vp := t.vp.set n.toNat true n.isLt }
/-- Whether a v register is poisoned. -/
def Thread.isPoisoned (t : Thread) (n : VReg) : Bool := t.vp[n.toNat]'n.isLt
/-- A predicate: q7 reads true (02 R51). -/
def Thread.pred (t : Thread) (q : PReg) : Bool := if h : q.toNat < 7 then t.q[q.toNat]'h else true
/-- A predicate written: a write to q7 is discarded (02 R51). -/
def Thread.setPred (t : Thread) (q : PReg) (b : Bool) : Thread :=
  if h : q.toNat < 7 then { t with q := t.q.set q.toNat b h } else t
/-- A token register. -/
def Thread.token (t : Thread) (k : BitVec 4) : Token := t.tok[k.toNat]'k.isLt
/-- Flags added to %fpflags (06_numbers.md R170). -/
def Thread.addFlags (t : Thread) (fl : BitVec 5) : Thread := { t with fpflags := t.fpflags ||| fl }
/-- Whether a thread is promoted (12 R274). -/
def Thread.promoted (t : Thread) : Bool := t.gang.isNone

/-- The team of a thread. -/
def teamOf (s : State) (t : Thread) : Option Team := s.team t.team
/-- The context of a thread; 0 when it has no team, which no live thread lacks. DEDUCED (log 98). -/
def ctxOf (s : State) (t : Thread) : Nat := ((teamOf s t).map (·.ctx)).getD 0
/-- The gang a thread's uniform registers, role and allotment come from: its own, or its originating one
(07_compute_instructions.md R184; 06 R180). -/
def homeGang (s : State) (t : Thread) : Option Gang := (teamOf s t).bind fun tm => tm.gangs.find? (·.index == t.home)
/-- A gang changed. -/
def setGang (s : State) (tk : Nat) (g : Gang) : State :=
  match s.team tk with
  | none => s
  | some tm => s.setTeam tk { tm with gangs := tm.gangs.map fun x => if x.index == g.index then g else x }
/-- An s register (02 R51). -/
def sread (s : State) (t : Thread) (n : BitVec 6) : Word := ((homeGang s t).map fun g => g.s[n.toNat]'n.isLt).getD 0#32
/-- An s register written (07 R204). -/
def swrite (s : State) (t : Thread) (n : BitVec 6) (x : Word) : State :=
  match homeGang s t with
  | none => s
  | some g => setGang s t.team { g with s := g.s.set n.toNat x n.isLt }
/-- An s pair. -/
def sread64 (s : State) (t : Thread) (n : BitVec 6) : DWord := pair (sread s t n) (sread s t (n + 1#6))

/-! The address of the next instruction, and the end of an instruction in a thread. -/

/-- The address after an instruction of `n` parcels, past the line word (07 R186). -/
def nextPc (pc : DWord) (n : Nat) : DWord :=
  let x := pc + BitVec.ofNat 64 (4 * n)
  if x.extractLsb' 0 6 == 60#6 then x + 4#64 else x

/-- A thread ready from this cycle on, at an address (12 R277). -/
def Thread.goTo (t : Thread) (s : State) (pc : DWord) : Thread :=
  { t with pc := pc, status := .ready s.cycle, issued := t.issued + 1, pri := 0, trail := none }

/-- The thread at `p` stalls at its instruction (12 R297). -/
def stall (s : State) (p : Nat) (t : Thread) (w : Stall) : State := s.setThr p { t with status := .stalled w }

/-- The thread at `p` parks at `i` (12 R297): it goes on at the next instruction when its event comes. -/
def park (i : Instr) (s : State) (p : Nat) (t : Thread) (w : Park) : State :=
  s.setThr p { t with status := .parked w, npc := nextPc t.pc (parcelsOf i) }

/-- A parked thread goes on (12 R297). -/
def Thread.wake (t : Thread) (s : State) : Thread := t.goTo s t.npc

/-- The thread a waiter record names: at a place, or, with a team, the one of that %tid in the team's saved state
(05 R143). -/
def whoGet (s : State) (place : Nat) (team : Option Nat) : Option Thread :=
  match team with
  | none => s.thr place
  | some k => ((s.team k).bind (·.saved)).bind fun sv => mget sv.threads place
/-- That thread, set. -/
def whoSet (s : State) (place : Nat) (team : Option Nat) (t : Thread) : State :=
  match team with
  | none => s.setThr place t
  | some k =>
    match s.team k with
    | some tm => s.setTeam k { tm with saved := tm.saved.map fun sv => { sv with threads := mset sv.threads place t } }
    | none => s

/-! Taking an exception. -/

/-- The 64 bytes of a thread's record (19 R401, Table 4); kind 4 carries v0 to v7. DEDUCED (log 26). -/
def threadRecord (s : State) (p : Nat) (t : Thread) (tr : Trap) : List Byte :=
  let tm := teamOf s t
  let sys := tr.cause == .systemCall
  let w0 := (if sys then 4 else 1) + tr.cause.number * 2 ^ 4 + tr.sub * 2 ^ 10 + ctxOf s t * 2 ^ 14 + coreOf p * 2 ^ 26
    + laneOf p * 2 ^ 34 + slotOf p * 2 ^ 41 + (if t.promoted then 2 ^ 45 else 0) + t.tag.toNat * 2 ^ 46
  let w1 := ((tm.map (·.serial)).getD 0#32).toNat + t.tid.toNat * 2 ^ 32
  let pc := (tr.at_.getD t.pc).toNat % 2 ^ 57
  toBytes 8 w0 ++ toBytes 8 w1 ++ toBytes 8 pc ++ toBytes 8 tr.addr.toNat ++
    (if sys then
      ((List.range 8).map fun k => toBytes 4 (t.rv (BitVec.ofNat 7 k)).toNat).flatten
     else
      toBytes 8 (t.region.toNat + min t.replays 127 * 2 ^ 57) ++ toBytes 8 tr.info0.toNat ++ toBytes 8 tr.info1.toNat
        ++ toBytes 8 tr.info2.toNat)

/-- The thread is marked replayable and parked, its pc stays at the instruction, which has no effect in it (19 R396). -/
def parkTrap (s : State) (p : Nat) (t : Thread) (tr : Trap) : State :=
  s.setThr p { t with status := .parked (.trap tr false), replay := true }

/-- The record of a thread's trap produced by its core, which holds it until it can be written: the records of one
instruction's threads in the order of their lanes (19 R396, R400). DEDUCED (log 82). -/
def produceRecord (s : State) (p : Nat) (t : Thread) (tr : Trap) : State :=
  { s with
    records := s.records ++ [⟨s.serial, coreOf p, ctxOf s t, if tr.cause == .systemCall then 4 else 1, some p, none,
                              threadRecord s p t tr⟩]
    serial := s.serial + 1 }

/-- TAKING AN EXCEPTION (19 R396; 02 R75): the thread's record is produced, and the thread parks with its trap once none
of the instructions it issued before is incomplete, and stalls until then. DEDUCED (log 82). -/
def takeTrap (s : State) (p : Nat) (t : Thread) (tr : Trap) : State :=
  let s1 := produceRecord s p t tr
  if t.board.isEmpty then parkTrap s1 p t tr else stall s1 p t (.trap tr)

/-- A trap of a thread that may stand in a swapped-out team, where nothing it issued is incomplete. -/
def trapWho (s : State) (p : Nat) (team : Option Nat) (t : Thread) (tr : Trap) : State :=
  match team with
  | none => takeTrap s p t tr
  | some k =>
    let s1 := whoSet s p team { t with status := .parked (.trap tr false), replay := true }
    let was := (((s.team k).bind (·.saved)).bind fun v => mget v.where_ p).getD 0
    { s1 with
      records := s1.records ++ [⟨s1.serial, coreOf was, ctxOf s t, 1, some p, team, threadRecord s was t tr⟩]
      serial := s1.serial + 1 }

/-- RETURN FROM AN EXCEPTION (19 R404, R405): the thread goes on at an address, its replayable mark cleared. -/
def resumeAt (s : State) (p : Nat) (t : Thread) (pc : DWord) : State :=
  s.setThr p { t with status := .ready s.cycle, replay := false, pc := pc, pri := 0 }

/-- A unit's unwritten device records of a context. -/
def heldCount (s : State) (unit ctx : Nat) : Nat :=
  (s.records.filter fun r => r.unit == unit && r.ctx == ctx && r.kind == 2).length

/-- A context's location of an address under a check, if it has one: the device's own accesses (19 R399). -/
def devLoc (s : State) (ctx : Nat) (ea : Nat) (a : Access) : Option Nat :=
  match translate s 0 ctx (BitVec.ofNat 64 ea) a with
  | .ok pl => some pl.loc
  | _ => none

/-- A discarded record counted by the device, which writes its count to the queue's header (19 R399, R400; 00 R9).
DEDUCED (log 83). -/
def countLost (s : State) (ctx : Nat) : State :=
  let n := (s.ctx ctx).frq.lost + 1#32
  let s1 := s.setCtx ctx { s.ctx ctx with frq := { (s.ctx ctx).frq with lost := n } }
  match devLoc s ctx (cfield s ctx 768 57 + 8) Access.store with
  | some l => if isLost s l then s1 else s1.write l (toBytes 4 n.toNat)
  | none => s1

/-- A device record (19 R399, R400, R401): held by its unit, or discarded and counted in the queue's header when the
unit holds 16 of the context; to a queue a record's write to which has faulted, or one on an unreachable module, nothing more is written. -/
def deviceRecord (s : State) (unit ctx kind cause sub : Nat) (addr i0 i1 i2 : Nat) : State :=
  if kind == 2 && 16 ≤ heldCount s unit ctx then
    if (s.ctx ctx).stopped.contains false then s else countLost s ctx
  else
    { s with
      records := s.records ++ [⟨s.serial, unit, ctx, kind, none, none,
        toBytes 8 (kind + cause * 2 ^ 4 + sub * 2 ^ 10 + ctx * 2 ^ 14) ++ toBytes 8 0 ++ toBytes 8 0 ++ toBytes 8 addr
          ++ toBytes 8 0 ++ toBytes 8 i0 ++ toBytes 8 i1 ++ toBytes 8 i2⟩]
      serial := s.serial + 1 }

/-! The line of an instruction and its targets (02 R66 to R72). -/

/-- Even parity of a list of bytes: whether it holds an odd number of one bits. -/
def oddBits : List Byte → Bool
  | [] => false
  | b :: r => ((List.range 8).foldl (fun a k => a ^^ b.getLsbD k) false) ^^ oddBits r

/-- Whether a line's parity agrees with its contents (02 R67): each of the parity bits 28 to 30 makes its quarter even
when counted with it; bit 31 makes quarter 3, which holds the line word, even. -/
def parityOk (line : List Byte) : Bool :=
  let q (k : Nat) := oddBits ((line.drop (16 * k)).take 16)
  let w := BitVec.ofNat 32 (leNat (line.drop 60))
  (q 0 == w.getLsbD 28) && (q 1 == w.getLsbD 29) && (q 2 == w.getLsbD 30) && !q 3

/-- The line word of a line. -/
def lineWord (line : List Byte) : Word := BitVec.ofNat 32 (leNat (line.drop 60))

/-- Parcel i of a line. -/
def parcelAt (line : List Byte) (i : Nat) : Word := BitVec.ofNat 32 (leNat ((line.drop (4 * i)).take 4))

/-- Whether an instruction starts at parcel `k` of a line, counting from parcel `i` (02 R68). -/
def startsAt (line : List Byte) (k : Nat) : Nat → Nat → Bool
  | 0, _ => false
  | n + 1, i => if i = k then true else if k < i then false else startsAt line k n (i + Decode.parcelCount (parcelAt line i))

/-- The two sectors of a fetch line in a core's instruction cache, when both are there (17 R384). -/
def cachedLine (s : State) (core ctx la : Nat) : Option (List Byte) :=
  if s.choices.cache then
    (s.lines.find? fun l => l.core == core && l.ctx == ctx && l.va == la / 128 * 128).bind fun l =>
      if la % 128 == 0 then (l.sectors[0]).bind fun a => (l.sectors[1]).map (a ++ ·)
      else (l.sectors[2]).bind fun a => (l.sectors[3]).map (a ++ ·)
  else none

/-- The line at an address, as a thread of the context fetches it on a core (02 R72; 17 R384): its bytes, or the fault
at the fetched address. Both copies of a line come from the same memory, so a disagreement stands (log 15).
DESIGN CHOICE (log 10). DEDUCED (log 46). -/
def fetchLine (s : State) (core ctx : Nat) (pri : Nat) (pc : DWord) : Chk (List Byte) :=
  let la := pc.toNat / 64 * 64
  let here (t : Trap) : Trap := { t with addr := pc, at_ := some pc, sub := if t.cause == .poison then 1 else t.sub }
  match cachedLine s core ctx la with
  | some l => .ok l
  | none =>
    match translate s core ctx (BitVec.ofNat 64 la) (if ctxDebug s ctx then Access.fetch else Access.fetch.notHost 7) false pri with
    | .trap t => .trap (here t)
    | .stall w => .stall w
    | .ok pl =>
      if !(ctxDebug s ctx || (rget s.certified (pl.loc / 32768)).isSome) then
        .trap (here (mkTrap .permission 7 pc pl.leaf))
      else
        let bs := s.read pl.loc 64
        if s.poisoned pl.loc 64 || isLost s pl.loc || !parityOk bs then .trap (here (mkTrap .poison 1 pc)) else .ok bs

/-- Whether the target_mask bit of an address's parcel is set in its line (02 R66; 17 R381). -/
def maskBit (line : List Byte) (target : DWord) : Bool :=
  field target 0 2 == 0 && field target 0 6 < 60 && (lineWord line).getLsbD (field target 0 6 / 4)
/-- Whether a line read without a fault admits a target (02 R68). -/
def targetOk (line : List Byte) (target : DWord) : Bool :=
  maskBit line target && startsAt line (field target 0 6 / 4) 16 0

/-- The check of a transfer's target (02 R68): a bad target, or a fault met while fetching its line.
DEDUCED (log 24). -/
def checkTarget (s : State) (core ctx : Nat) (pri : Nat) (target : DWord) : Chk Unit :=
  if field target 0 2 != 0 || 60 ≤ field target 0 6 then .trap (mkTrap .badTarget 0 target)
  else
    match fetchLine s core ctx pri target with
    | .trap t => .trap t
    | .stall w => .stall w
    | .ok line => if targetOk line target then .ok () else .trap (mkTrap .badTarget 0 target)

end Sys2Proof.Machine
end

