-- ==== Sys2Proof/Machine/Operands.lean ====
section
/-! DEFINITION. Every operand form: source values, memory operands, the registers an instruction names, the role and
allotment checks, and `run`, the one frame in which every thread instruction is executed. -/

namespace Sys2Proof.Machine

open Sys2Proof.Legal (iwidth isigned ipair fwidth fpair sregPair)

/-! Values (06_numbers.md R158; 07_compute_instructions.md R181, R182). -/

/-- A source read as 32 bits. -/
def srcWord (s : State) (t : Thread) : Src → Word
  | .v n => t.rv n
  | .s n => sread s t n
  | .sp => lo32 t.sp
  | .ln => lo32 t.ln
/-- A source read as 64 bits: a pair, sp or ln. -/
def srcDWord (s : State) (t : Thread) : Src → DWord
  | .v n => t.rv64 n
  | .s n => sread64 s t n
  | .sp => t.sp
  | .ln => t.ln
/-- The low `w` bits of a source, w at most 64. -/
def srcNat (s : State) (t : Thread) (w : Nat) (r : Src) : Nat :=
  if w == 64 then (srcDWord s t r).toNat else (srcWord s t r).toNat % 2 ^ w
/-- Operand B in the width `w`: an immediate is sign-extended (07 R182). -/
def opbNat (s : State) (t : Thread) (w : Nat) : OpB → Nat
  | .reg r => srcNat s t w r
  | .imm7 x => (x.signExtend 64).toNat % 2 ^ w
  | .lit x => (x.signExtend 64).toNat % 2 ^ w
/-- A floating value widened exactly to FP64 from FP32 bits; a NaN keeps its sign, its kind and its fraction
(02_encoding.md R59; 08_matrix_engine.md R246). -/
def widen64 (x : Nat) : Nat :=
  if Numbers.isNan .f32 x then x / 2 ^ 31 % 2 * 2 ^ 63 + 0x7FF0000000000000 + x % 2 ^ 23 * 2 ^ 29
  else (Numbers.round .f64 .rn 0 (Numbers.decode .f32 x)).1
/-- A floating operand B: a literal holds it in the format, for .f64 in FP32 (02 R59); under x2 a literal supplies both
elements (07 R182). -/
def fopbNat (s : State) (t : Thread) (f : FFmt) (x2 : Bool) : OpB → Nat
  | .reg r => if x2 then (srcWord s t r).toNat else srcNat s t (fwidth f) r
  | .imm7 x => x.toNat
  | .lit x => if f == .f64 then widen64 x.toNat else if x2 then x.toNat * 65537 % 2 ^ 32 else x.toNat

/-- A v register written with a result of an integer format: 8-bit and 16-bit signed results sign-extended, other
narrow results zero-extended (06 R158). -/
def Thread.setI (t : Thread) (f : IFmt) (d : VReg) (x : Nat) : Thread :=
  match f with
  | .i64 | .n64 => t.setV64 d (BitVec.ofNat 64 x)
  | .i8 => t.setV d ((BitVec.ofNat 8 x).signExtend 32)
  | .i16 => t.setV d ((BitVec.ofNat 16 x).signExtend 32)
  | .n8 => t.setV d ((BitVec.ofNat 8 x).setWidth 32)
  | .n16 => t.setV d ((BitVec.ofNat 16 x).setWidth 32)
  | _ => t.setV d (BitVec.ofNat 32 x)
/-- A v register or pair written with a result of a floating format (06 R158). -/
def Thread.setF (t : Thread) (f : FFmt) (d : VReg) (x : Nat) : Thread :=
  if f == .f64 then t.setV64 d (BitVec.ofNat 64 x) else t.setV d (BitVec.ofNat 32 x)
/-- A quad written from 16 bytes (06 R158). -/
def Thread.setQuad (t : Thread) (d : VReg) (lo hi : DWord) : Thread := (t.setV64 d lo).setV64 (d + 2#7) hi

/-- A pair that may be uniform (13_thread_instructions.md R301). -/
def upairVal (s : State) (t : Thread) : UPair → DWord
  | .v n => t.rv64 n
  | .s n => sread64 s t n

/-! The generator (06 R178 to R180). -/

/-- The key a thread draws under: its own copy when promoted, else its gang's. -/
def drawKey (s : State) (t : Thread) : DWord := t.key.getD (((homeGang s t).map (·.key)).getD 0#64)
/-- The position of a lane in a gang as wide as a thread's originating one (06 R178, R180). -/
def lanePos (s : State) (t : Thread) (lane : Nat) : Nat := lane % ((homeGang s t).map (·.width)).getD 16
/-- The position a thread draws at: the one fixed at its promotion, else that of its lane. -/
def drawPos (s : State) (p : Nat) (t : Thread) : Nat := t.pos.getD (lanePos s t (laneOf p))
/-- Rand(c, n) of the thread at `p`. -/
def threadRand (s : State) (p : Nat) (t : Thread) (n : Nat) : DWord :=
  Numbers.rand (drawKey s t) t.ctr (drawPos s p t) n
/-- Whether an execution of an instruction advances the counter, its guard true or false (06 R168, R179). -/
def draws : Instr → Bool
  | .rngd .. => true
  | .fcvt _ o => o.rnd == .rs
  | .mst _ o => o.rnd == .rs
  | _ => false

/-! Memory operands (01_assembly_language.md R26, R27; 04_memory_instructions.md R106). -/

/-- The offset of a memory operand. -/
def offVal : MOff → DWord
  | .imm7 x => x.signExtend 64
  | .lit x => x.signExtend 64
/-- The address an operand names: in the g space modulo 2^64, in the w space a window offset modulo 2^32 (01 R27). -/
def memEa (s : State) (t : Thread) (m : MemOp) : DWord :=
  let ix : DWord := match m.idx with
    | some n => (t.rv n).setWidth 64 <<< m.shift.toNat
    | none => 0#64
  if m.win then
    let b : Word := match m.base with
      | .v n => t.rv n
      | .s n => sread s t n
      | .sp => lo32 t.sp
    (lo32 (b.setWidth 64 + ix + offVal m.off)).setWidth 64
  else
    let b := match m.base with
      | .v n => t.rv64 n
      | .s n => sread64 s t n
      | .sp => t.sp
    b + ix + offVal m.off

/-! The registers an instruction names (02 R51; 12_execution_model.md R283; 19_faults_traps_preemption.md R398). -/

/-- Registers n to n + k - 1. -/
def regs (n : VReg) (k : Nat) : List Nat := (List.range k).map (n.toNat + ·)
/-- How many registers a width takes. -/
def nregs (w : Nat) : Nat := if w == 128 then 4 else if w == 64 then 2 else 1
/-- The v registers of a source. -/
def srcRegs (w : Nat) : Src → List Nat
  | .v n => regs n (nregs w)
  | _ => []
/-- The v registers of operand B. -/
def opbRegs (w : Nat) : OpB → List Nat
  | .reg r => srcRegs w r
  | _ => []
/-- The v registers of a memory operand. -/
def memRegs (m : MemOp) : List Nat :=
  (match m.base with | .v n => regs n (if m.win then 1 else 2) | _ => []) ++
  (match m.idx with | some n => regs n 1 | none => [])
/-- The v registers of a pair that may be uniform. -/
def upairRegs : UPair → List Nat
  | .v n => regs n 2
  | _ => []
/-- Whether a source is uniform state. -/
def srcS : Src → Bool
  | .s _ => true
  | _ => false
/-- Whether operand B is. -/
def opbS : OpB → Bool
  | .reg r => srcS r
  | _ => false
/-- Whether a pair is. -/
def upairS : UPair → Bool
  | .s _ => true
  | _ => false
/-- Whether a memory operand's base is. -/
def memS (m : MemOp) : Bool :=
  match m.base with
  | .s _ => true
  | _ => false
/-- The width of a format of BRC, LRED and LSCAN. -/
def cwidth : CFmt → Nat
  | .int f => iwidth f
  | .flt f => fwidth f
/-- The registers a member supplies for itself to an MMA (08 R245; 06 R175). -/
def mmaRegs (o : MmaOps) : List Nat :=
  match o.fmt with
  | .bx8 => regs o.e 8
  | .bx4 => regs o.e 16
  | _ => []

/-- The v registers a thread's instruction reads. For a matrix or signature instruction, which reads its operands in
the member at position 0 (08 R234), these are that member's. DEDUCED (log 25): a register BXQ or BXEX writes in one half
counts as read, and so do all four registers of a signature instruction's quad. DEDUCED (log 26). -/
def vreads : Instr → List Nat
  | .movShort _ o => regs o.a 1
  | .iaddShort _ o | .isubShort _ o | .imulShort _ o | .andShort _ o | .orShort _ o | .xorShort _ o
  | .shlShort _ o | .shrShort _ o | .sarShort _ o | .iminShort _ o | .imaxShort _ o | .faddShort _ o
  | .fsubShort _ o | .fmulShort _ o | .fminShort _ o | .fmaxShort _ o => regs o.a 1 ++ regs o.b 1
  | .ffmaShort _ o => regs o.a 1 ++ regs o.b 1 ++ regs o.d 1
  | .brc _ o => regs o.a (nregs (cwidth o.fmt)) ++ regs o.b (nregs (cwidth o.fmt))
  | .brx _ a | .callx _ a => srcRegs 64 a
  | .punpk _ a => regs a 1
  | .sel _ o => srcRegs (iwidth o.fmt) o.a ++ opbRegs (iwidth o.fmt) o.b
  | .iadd _ _ o | .isub _ _ o | .imul _ o | .imulh _ o | .idiv _ _ o | .irem _ _ o | .imin _ o | .imax _ o
  | .and _ o | .or _ o | .xor _ o => srcRegs (iwidth o.fmt) o.a ++ opbRegs (iwidth o.fmt) o.b
  | .imad _ o => srcRegs (iwidth o.fmt) o.a ++ opbRegs (iwidth o.fmt) o.b ++ srcRegs (iwidth o.fmt) o.c
  | .iabs _ o | .ineg _ o | .not _ o | .popc _ o | .clz _ o | .ctz _ o | .brev _ o => srcRegs (iwidth o.fmt) o.a
  | .iset _ o => srcRegs (iwidth o.fmt) o.a ++ opbRegs (iwidth o.fmt) o.b
  | .lea _ o | .add64 _ o | .sub64 _ o => srcRegs 64 o.a ++ opbRegs (iwidth o.fmt) o.b
  | .mul64 _ o => srcRegs 32 o.a ++ opbRegs 32 o.b
  | .shl _ o | .shr _ o | .sar _ o | .rol _ o | .bfx _ o => srcRegs (iwidth o.fmt) o.a ++ opbRegs 32 o.b
  | .bfi _ o => srcRegs (iwidth o.fmt) o.a ++ opbRegs (iwidth o.fmt) o.b ++ srcRegs 32 o.c
  | .mov _ o => opbRegs (iwidth o.fmt) o.a
  | .movs _ o => opbRegs (iwidth o.fmt) o.a
  | .sets _ r a => regs a (if sregPair r then 2 else 1)
  | .rngd _ _ o => opbRegs 32 o.b
  | .rngs _ a b => regs a 2 ++ regs b 2
  | .bxq _ _ o | .bxd _ o => regs o.a 1 ++ regs o.e 1
  | .bxex _ o => regs o.a 1 ++ [o.base.toNat + (if o.bs then 4 else 0) + o.j.toNat / 2]
  | .fadd _ o | .fsub _ o | .fmul _ o | .fmin _ o | .fmax _ o | .fdiv _ _ o =>
    srcRegs (fwidth o.fmt) o.a ++ opbRegs (fwidth o.fmt) o.b
  | .ffma _ o => srcRegs (fwidth o.fmt) o.a ++ opbRegs (fwidth o.fmt) o.b ++ srcRegs (fwidth o.fmt) o.c
  | .fset _ o => srcRegs (fwidth o.fmt) o.a ++ opbRegs (fwidth o.fmt) o.b
  | .fclass _ o | .frnd _ o | .fsqrt _ _ o | .frcp _ _ o | .frsq _ _ o | .fexp2 _ _ o | .flog2 _ _ o
  | .fsin _ _ o | .fcos _ _ o | .ftanh _ _ o => srcRegs (fwidth o.fmt) o.a
  | .fcvt _ o => srcRegs (fwidth o.src) o.a
  | .ftoi _ o => srcRegs (fwidth o.fmt) o.a
  | .itof _ o => srcRegs (iwidth o.int) o.a
  | .shfl _ _ o => regs o.a (nregs (iwidth o.fmt)) ++ opbRegs 32 o.b
  | .readl _ _ o => regs o.a (nregs (iwidth o.fmt)) ++ opbRegs 32 o.b
  | .lred _ _ o | .lscan _ _ o => regs o.a (nregs (cwidth o.fmt))
  | .ld _ _ o => memRegs o.m
  | .st _ o => memRegs o.m ++ regs o.d (nregs (iwidth o.fmt))
  | .atom _ _ o => memRegs o.m ++ regs o.b (nregs (iwidth o.fmt)) ++
      (if o.op == .cas then regs o.c (nregs (iwidth o.fmt)) else [])
  | .ordinit _ o => memRegs o.m ++ regs o.d (if o.f64 then 2 else 1) ++ regs o.b 1
  | .aaddf _ o => memRegs o.m ++ regs o.d 2 ++ regs o.b (if o.f64 then 2 else 1)
  | .pref _ _ _ m => memRegs m
  | .cpy _ _ o => memRegs o.m ++ regs o.src (if o.swin then 1 else 2) ++ regs o.c 1
  | .cpys _ _ o => memRegs o.m ++ regs o.src 2 ++ regs o.c 4
  | .sleepto _ o => memRegs o.m ++ regs o.d 2 ++ regs o.b 1
  | .srput _ _ _ a => regs a 1
  | .tbinit _ o | .tbexp _ o | .tbwait _ o => memRegs o.m ++ regs o.b 1
  | .tbarr _ o | .cinit _ o | .cwait _ o => memRegs o.m
  | .tbtest _ _ _ o => memRegs o.m ++ regs o.b 1
  | .cinitCount _ o | .cfill _ o | .cfillCnt _ o => memRegs o.m ++ regs o.d 2
  | .cequ _ o => memRegs o.m ++ regs o.b 2
  | .ctest _ _ _ o => memRegs o.m
  | .cpeek _ _ o => memRegs o.m
  | .mld _ o => regs o.a 2 ++ regs o.stride 1
  | .mldc _ o | .mst _ o => regs o.a 2 ++ regs o.stride 1
  | .sighSrp _ o => regs o.q 4
  | .sighKey _ o => regs o.q 4
  | .sigb _ o => regs o.q 4
  | .sigs _ o | .sigg _ o => regs o.q 4
  | .sigmap _ o => regs o.q 4
  | .fork _ o => upairRegs o.entry ++ upairRegs o.join ++ regs o.r 6
  | .forkr _ o => upairRegs o.entry ++ upairRegs o.join ++ regs o.r 7
  | .spawn _ o | .wlpush _ o | .wlins _ o => upairRegs o.a ++ regs o.b 1
  | .tdone _ a v => upairRegs a ++ regs v 2
  | .wlpop _ _ o => upairRegs o.a
  | .wlcnt _ _ o => upairRegs o.a
  | _ => []

/-- Whether an instruction reads uniform state: a relaxed load of it (07 R184). -/
def readsUniform : Instr → Bool
  | .brx _ a | .callx _ a => srcS a
  | .sel _ o => srcS o.a || opbS o.b
  | .iadd _ _ o | .isub _ _ o | .imul _ o | .imulh _ o | .idiv _ _ o | .irem _ _ o | .imin _ o | .imax _ o
  | .and _ o | .or _ o | .xor _ o => srcS o.a || opbS o.b
  | .imad _ o => srcS o.a || opbS o.b || srcS o.c
  | .iabs _ o | .ineg _ o | .not _ o | .popc _ o | .clz _ o | .ctz _ o | .brev _ o => srcS o.a
  | .iset _ o => srcS o.a || opbS o.b
  | .lea _ o | .add64 _ o | .sub64 _ o => srcS o.a || opbS o.b
  | .mul64 _ o => srcS o.a || opbS o.b
  | .shl _ o | .shr _ o | .sar _ o | .rol _ o | .bfx _ o => srcS o.a || opbS o.b
  | .bfi _ o => srcS o.a || opbS o.b || srcS o.c
  | .mov _ o => opbS o.a
  | .movs _ o => opbS o.a
  | .rngd _ _ o => opbS o.b
  | .fadd _ o | .fsub _ o | .fmul _ o | .fmin _ o | .fmax _ o | .fdiv _ _ o => srcS o.a || opbS o.b
  | .ffma _ o => srcS o.a || opbS o.b || srcS o.c
  | .fset _ o => srcS o.a || opbS o.b
  | .fclass _ o | .frnd _ o | .fsqrt _ _ o | .frcp _ _ o | .frsq _ _ o | .fexp2 _ _ o | .flog2 _ _ o
  | .fsin _ _ o | .fcos _ _ o | .ftanh _ _ o => srcS o.a
  | .fcvt _ o => srcS o.a
  | .ftoi _ o => srcS o.a
  | .itof _ o => srcS o.a
  | .shfl _ _ o => opbS o.b
  | .readl _ _ o => opbS o.b
  | .ld _ _ o => memS o.m
  | .st _ o => memS o.m
  | .atom _ _ o => memS o.m
  | .ordinit _ o | .aaddf _ o => memS o.m
  | .pref _ _ _ m => memS m
  | .cpy _ _ o => memS o.m
  | .cpys _ _ o => memS o.m
  | .sleepto _ o | .tbinit _ o | .tbexp _ o | .tbwait _ o | .tbarr _ o | .cinit _ o | .cwait _ o | .cinitCount _ o
  | .cfill _ o | .cfillCnt _ o | .cequ _ o => memS o.m
  | .tbtest _ _ _ o => memS o.m
  | .ctest _ _ _ o => memS o.m
  | .cpeek _ _ o => memS o.m
  | .fork _ o | .forkr _ o => upairS o.entry || upairS o.join
  | .spawn _ o | .wlpush _ o | .wlins _ o => upairS o.a
  | .tdone _ a _ => upairS a
  | .wlpop _ _ o => upairS o.a
  | .wlcnt _ _ o => upairS o.a
  | _ => false
/-- Whether an instruction writes uniform state: a relaxed store of it (07 R184, R204). -/
def writesUniform : Instr → Bool
  | .movs .. | .rngs .. => true
  | _ => false

/-- The registers each member of a group supplies for itself (08 R234): the exponents of MMA, the row indices of MPRM
and the keys of SIGH.key. -/
def laneReads : Instr → List Nat
  | .mma _ o => mmaRegs o
  | .mprm _ o => regs o.p 1
  | .sighKey _ o => regs o.k 4
  | _ => []

/-- The v registers an instruction writes in a thread. -/
def vwrites : Instr → List Nat
  | .movShort _ o => regs o.d 1
  | .iaddShort _ o | .isubShort _ o | .imulShort _ o | .andShort _ o | .orShort _ o | .xorShort _ o
  | .shlShort _ o | .shrShort _ o | .sarShort _ o | .iminShort _ o | .imaxShort _ o | .faddShort _ o
  | .fsubShort _ o | .fmulShort _ o | .ffmaShort _ o | .fminShort _ o | .fmaxShort _ o => regs o.d 1
  | .ppack _ d => regs d 1
  | .sel _ o => regs o.d (nregs (iwidth o.fmt))
  | .iadd _ _ o | .isub _ _ o | .imul _ o | .imulh _ o | .idiv _ _ o | .irem _ _ o | .imin _ o | .imax _ o
  | .and _ o | .or _ o | .xor _ o | .shl _ o | .shr _ o | .sar _ o | .rol _ o | .bfx _ o =>
    regs o.d (nregs (iwidth o.fmt))
  | .imad _ o | .bfi _ o => regs o.d (nregs (iwidth o.fmt))
  | .iabs _ o | .ineg _ o | .not _ o | .brev _ o => regs o.d (nregs (iwidth o.fmt))
  | .popc _ o | .clz _ o | .ctz _ o => regs o.d 1
  | .lea _ o | .add64 _ o | .sub64 _ o => match o.d with | .v n => regs n 2 | _ => []
  | .mul64 _ o => regs o.d 2
  | .mov _ o => match o.d with | .v n => regs n (nregs (iwidth o.fmt)) | _ => []
  | .movi _ o => regs o.d (nregs (iwidth o.fmt))
  | .lit _ d _ => regs d 1
  | .gets _ d r => regs d (if sregPair r then 2 else 1)
  | .rngd _ _ o => regs o.d (nregs (iwidth o.fmt))
  | .bxq _ _ o => regs o.d 1 ++ regs o.e 1
  | .bxd _ o => regs o.d 1
  | .bxex _ o => [o.base.toNat + (if o.bs then 4 else 0) + o.j.toNat / 2]
  | .fadd _ o | .fsub _ o | .fmul _ o | .fmin _ o | .fmax _ o | .fdiv _ _ o => regs o.d (nregs (fwidth o.fmt))
  | .ffma _ o => regs o.d (nregs (fwidth o.fmt))
  | .fclass _ o => regs o.d 1
  | .frnd _ o | .fsqrt _ _ o | .frcp _ _ o | .frsq _ _ o | .fexp2 _ _ o | .flog2 _ _ o
  | .fsin _ _ o | .fcos _ _ o | .ftanh _ _ o => regs o.d (nregs (fwidth o.fmt))
  | .fcvt _ o => regs o.d (nregs (fwidth o.fmt))
  | .ftoi _ o => regs o.d (nregs (iwidth o.int))
  | .itof _ o => regs o.d (nregs (fwidth o.fmt))
  | .shfl _ _ o => regs o.d (nregs (iwidth o.fmt))
  | .readl _ _ o => regs o.d (nregs (iwidth o.fmt))
  | .ballot _ d _ => regs d 1
  | .lred _ _ o | .lscan _ _ o => regs o.d (nregs (cwidth o.fmt))
  | .ld _ _ o => regs o.d (nregs (iwidth o.fmt))
  | .atom _ _ o => regs o.d (nregs (iwidth o.fmt))
  | .cpy _ _ o => regs o.d 2
  | .cpys _ _ o => regs o.d 2
  | .srget _ _ _ _ d => regs d 1
  | .cwait _ o => regs o.d 2
  | .ctest _ _ _ o => regs o.d 2
  | .cpeek _ _ o => regs o.d 4
  | .mwait _ d _ => regs d 1
  | .iter _ _ d => regs d 1
  | .fdepth _ d => regs d 1
  | .wlpop _ _ o => regs o.d 1
  | .wlcnt _ _ o => regs o.d 2
  | _ => []

/-- Further registers an instruction names: the whole exponent block of BXEX (07 R216). -/
def vnamed : Instr → List Nat
  | .bxex _ o => regs o.base 8
  | _ => []

/-- The predicate an instruction writes (02 R73). -/
def qwrite : Instr → Option PReg
  | .pandShort _ d _ _ | .porShort _ d _ _ | .pxorShort _ d _ _ | .pnotShort _ d _ | .pmovShort _ d _ => some d
  | .pand _ o | .por _ o | .pxor _ o => some o.d
  | .pnot _ o | .pmov _ o => some o.d
  | .iset _ o => some o.d
  | .fset _ o => some o.d
  | .vote _ _ d _ => some d
  | .elect _ d => some d
  | .tbtest _ _ q _ | .ctest _ _ q _ => some q
  | .mtest _ d _ => some d
  | .fork _ o | .forkr _ o => some o.q
  | .iter _ q _ | .fdrop _ q => some q
  | .spawn _ o | .wlpush _ o | .wlins _ o => some o.q
  | .wlpop _ _ o => some o.q
  | _ => none

/-- The predicates an instruction reads beside its guard. -/
def qreads : Instr → List PReg
  | .pandShort _ _ a b | .porShort _ _ a b | .pxorShort _ _ a b => [a, b]
  | .pnotShort _ _ a | .pmovShort _ _ a => [a]
  | .pand _ o | .por _ o | .pxor _ o => [o.a, o.b]
  | .pnot _ o | .pmov _ o => [o.a]
  | .ppack _ _ => [0#3, 1#3, 2#3, 3#3, 4#3, 5#3, 6#3]
  | .sel _ o => [o.q]
  | .iset _ o => match o.comb with | .none => [] | .and q | .or q => [q]
  | .fset _ o => match o.comb with | .none => [] | .and q | .or q => [q]
  | .vote _ _ _ a | .ballot _ _ a => [a]
  | _ => []

/-- The lookahead of a long-latency instruction (02 R58, Table 9; R73). -/
def lookahead : Instr → Option Nat
  | .idiv _ la _ | .irem _ la _ => some la.toNat
  | .rngd _ la _ => some la.toNat
  | .bxq _ la _ => some la.toNat
  | .fdiv _ la _ => some la.toNat
  | .fsqrt _ la _ | .frcp _ la _ | .frsq _ la _ | .fexp2 _ la _ | .flog2 _ la _ | .fsin _ la _ | .fcos _ la _
  | .ftanh _ la _ => some la.toNat
  | .shfl _ la _ => some la.toNat
  | .lred _ la _ | .lscan _ la _ => some la.toNat
  | .readl _ la _ => some la.toNat
  | .ld _ la _ => some la.toNat
  | .atom _ la _ => some la.toNat
  | .cpy _ la _ => some la.toNat
  | .cpys _ la _ => some la.toNat
  | .srget _ la _ _ _ => some la.toNat
  | .tbtest _ la _ _ | .ctest _ la _ _ => some la.toNat
  | .cpeek _ la _ => some la.toNat
  | .wlpop _ la _ => some la.toNat
  | .wlcnt _ la _ => some la.toNat
  | _ => none

/-- Long-latency instructions that can raise a flag (06_numbers.md R170, R172). -/
def raisesLate : Instr → Bool
  | .bxq .. | .fdiv .. | .fsqrt .. | .frcp .. | .frsq .. | .fexp2 .. | .flog2 .. | .fsin .. | .fcos .. | .ftanh .. => true
  | .lred _ _ o | .lscan _ _ o => match o.fmt with
    | .flt _ => true
    | .int _ => false
  | _ => false
/-- Instructions that read or write %fpflags whole (06 R172). -/
def namesFlags : Instr → Bool
  | .gets _ _ r => r == .fpflags
  | .sets _ r _ => r == .fpflags
  | _ => false

/-! Roles (12 R282, Table 2). -/

/-- The one role beside general that may issue an instruction; none when every role may. -/
def roleOf : Instr → Option Role
  | .cpy .. | .cpys .. | .sleepto .. => some .copy
  | .mclaim .. | .mrel .. | .mld .. | .mldc .. | .mst .. | .mzero .. | .mma .. | .mtrn .. | .mprm .. | .mred ..
  | .mwait .. | .mtest .. | .sighSrp .. | .sighKey .. | .sigb .. | .sigs .. | .sigg .. | .sigmap .. => some .matrix
  | .fadd .. | .fsub .. | .fmul .. | .ffma .. | .fmin .. | .fmax .. | .fset .. | .fclass .. | .fcvt .. | .ftoi ..
  | .itof .. | .frnd .. | .fdiv .. | .fsqrt .. | .frcp .. | .frsq .. | .fexp2 .. | .flog2 .. | .fsin .. | .fcos ..
  | .ftanh .. | .faddShort .. | .fsubShort .. | .fmulShort .. | .ffmaShort .. | .fminShort .. | .fmaxShort ..
  | .rngd .. | .rngs .. | .bxq .. | .bxd .. | .bxex .. | .ordinit .. | .aaddf .. => some .vector
  | _ => none

/-- The number of a role (17_code_objects.md, kernel descriptor). -/
def Role.number : Role → Nat
  | .general => 0
  | .copy => 1
  | .matrix => 2
  | .vector => 3

/-- The role of a thread: its gang's, or its originating gang's (12 R274, R282). -/
def threadRole (s : State) (t : Thread) : Role := ((homeGang s t).map (·.role)).getD .general

/-- The first two parcels of an instruction's word (19 R395, Table 1). -/
def wordInfo (i : Instr) : DWord :=
  match encode i with
  | [] => 0#64
  | [a] => a.setWidth 64
  | a :: b :: _ => pair a b

/-- The illegal-role trap (12 R282): not taken in emulation, whose work is not checked against the role. -/
def roleTrap (s : State) (t : Thread) (i : Instr) : Option Trap :=
  match roleOf i with
  | none => none
  | some r =>
    let mine := threadRole s t
    if mine == .general || mine == r || t.emu.isSome then none
    else some (mkTrap .illegalRole 0 0#64 (wordInfo i) (BitVec.ofNat 64 mine.number))

/-- The illegal-instruction fault with the allotment cause, of a list of registers (12 R283). -/
def allotTrapOf (i : Instr) (t : Thread) (rs : List Nat) : Option Trap :=
  if rs.any (t.allot ≤ ·) then some (mkTrap .illegalInstruction 1 0#64 (wordInfo i)) else none

/-- The allotment check of everything an instruction names in its thread. -/
def allotTrap (i : Instr) (t : Thread) : Option Trap := allotTrapOf i t (vreads i ++ vwrites i ++ vnamed i)

/-- The poison fault, register subcause, of the first poisoned register of a list (19 R398). DEDUCED (log 25). -/
def poisonTrapOf (t : Thread) (rs : List Nat) : Option Trap :=
  (rs.find? fun n => t.isPoisoned (BitVec.ofNat 7 n)).map fun n => mkTrap .poison 2 0#64 (BitVec.ofNat 64 n)

/-- The poison check of the registers a thread reads; PREF makes none (04 R120). -/
def poisonTrap (i : Instr) (t : Thread) : Option Trap :=
  match i with
  | .pref .. => none
  | _ => poisonTrapOf t (vreads i)

/-! The frame of execution. -/

/-- Whether an instruction is active in a thread (02 R62). -/
def active (g : Guard) (t : Thread) : Bool := t.pred g.q ^^ g.neg

/-- The registers of a list as register numbers. -/
def asRegs (l : List Nat) : List VReg := l.map (BitVec.ofNat 7 ·)

/-- The scope of the FENCE.sc that trails an instruction: a .sc store, atomic or ordered add is followed by one (03 R83). -/
def trailOf : Instr → Option Scope
  | .st _ o => if o.ord == .sc then some o.scope else none
  | .atom _ _ o => if o.ord == .sc then some o.scope else none
  | .aaddf _ o => if o.ord == .sc then some o.scope else none
  | _ => none

/-- The thread has executed a word and goes on at an address; a long-latency instruction stands on its scoreboard
until its completion (02 R73), and the counter has advanced (06 R179). DEDUCED (log 28). -/
def goOn (i : Instr) (s : State) (p : Nat) (t : Thread) (pc : DWord) : State :=
  let t := { t with ctr := if draws i then t.ctr + 1#64 else t.ctr }
  match lookahead i with
  | none => s.setThr p { t.goTo s pc with trail := trailOf i }
  | some la =>
    let e : Pending := ⟨s.serial, t.issued, la, asRegs (vwrites i), qwrite i, raisesLate i⟩
    { s.setThr p { Thread.goTo { t with board := t.board ++ [e] } s pc with trail := trailOf i } with
      serial := s.serial + 1 }

/-- The thread has executed `i` and goes on at the next instruction (07 R186). -/
def finish (i : Instr) (s : State) (p : Nat) (t : Thread) : State := goOn i s p t (nextPc t.pc (parcelsOf i))

/-- An inactive thread goes on: only the counter moves (02 R62). -/
def skip (i : Instr) (s : State) (p : Nat) (t : Thread) : State :=
  s.setThr p ({ t with ctr := if draws i then t.ctr + 1#64 else t.ctr }.goTo s (nextPc t.pc (parcelsOf i)))

/-- A check that answers nothing. -/
def noCheck (_ : Thread) : Chk Unit := .ok ()

/-- A trap, if there is one, as a check. -/
def Chk.ofTrap (o : Option Trap) : Chk Unit :=
  match o with
  | some t => .trap t
  | none => .ok ()

/-- The checks of one active thread in the order of causes (19 R395): allotment and the rank 1 causes of `first`, the
role, alignment to absence in `checks`, and the poison of the registers it reads. DEDUCED (log 27). -/
def checkAll {α : Type} (i : Instr) (s : State) (t : Thread) (first : Thread → Chk Unit) (checks : Thread → Chk α) :
    Chk α :=
  (Chk.ofTrap (allotTrap i t)).bind fun _ =>
  (first t).bind fun _ =>
  (Chk.ofTrap (roleTrap s t i)).bind fun _ =>
  (checks t).bind fun x =>
  (Chk.ofTrap (poisonTrap i t)).bind fun _ => .ok x

/-- EVERY THREAD INSTRUCTION IS EXECUTED SO, in the thread at `s.cur`: inactive, it goes on; active, it takes the
first cause it meets (19 R395, R396), or stalls, or has its effect. -/
def run {α : Type} (g : Guard) (i : Instr) (s : State) (first : Thread → Chk Unit) (checks : Thread → Chk α)
    (effect : Thread → α → State) : Out :=
  match s.thr s.cur with
  | none => .fault (.noThread s.cur)
  | some t =>
    if active g t then
      match checkAll i s t first checks with
      | .trap tr => .next (takeTrap s s.cur t tr)
      | .stall w => .next (stall s s.cur t w)
      | .ok x => .next (effect t x)
    else .next (skip i s s.cur t)

/-- An instruction that computes registers of its own thread and goes on. -/
def runReg (g : Guard) (i : Instr) (s : State) (f : Thread → Thread) : Out :=
  run g i s noCheck noCheck fun t _ => finish i s s.cur (f t)

end Sys2Proof.Machine
end

