-- ==== Sys2Proof/Machine/Access.lean ====
section
/-! DEFINITION. A thread's accesses to memory: alignment, permission, translation in their order
(04_memory_instructions.md R110; 19_faults_traps_preemption.md R395), ranges that touch several pages, and the faults an
access meets at its owner (22_host_fabric_bringup.md R429, R430). -/

namespace Sys2Proof.Machine

/-- The translation of an address as a thread on a core of a context names it: window or global. -/
def locateOn (s : State) (core : Nat) (tm : Option Team) (ctx : Nat) (pri : Nat) (win : Bool) (ea : DWord) (a : Access) :
    Chk Place :=
  if win then
    match tm with
    | some x => windowAccess s x ea a
    | none => .trap (mkTrap .absence 2 ea)
  else translate s core ctx ea a false pri

/-- The translation of an address of the thread at `p`. -/
def locateAt (s : State) (p : Nat) (t : Thread) (win : Bool) (ea : DWord) (a : Access) : Chk Place :=
  locateOn s (coreOf p) (teamOf s t) (ctxOf s t) t.pri win ea a

/-- The alignment check of an address (04 R110). -/
def alignCheck (ea : DWord) (n : Nat) : Chk Unit :=
  if ea.toNat % n = 0 then .ok () else .trap (mkTrap .alignment 0 ea (BitVec.ofNat 64 n))

/-- An aligned access of `n` bytes: alignment, then permission, then translation. -/
def locate (s : State) (p : Nat) (t : Thread) (win : Bool) (ea : DWord) (n : Nat) (a : Access) : Chk Place :=
  (alignCheck ea n).bind fun _ => locateAt s p t win ea a

/-- The space fault: the operand lies in memory the instruction does not accept (19 R395, Table 1, cause 7 subcause 9). -/
def spaceTrap (ea : DWord) (leaf : DWord := 0#64) : Trap := mkTrap .permission 9 ea leaf

/-- An access that host memory may not serve (04 R115; 05_promise_cells.md R149; 13_thread_instructions.md R303, R316). -/
def noHost (ea : DWord) (pl : Place) : Chk Place := if isHost pl.loc then .trap (spaceTrap ea pl.leaf) else .ok pl

/-- The several traps of one instruction ranked (19 R395): the first answer without a trap, or the worst trap. -/
def rankAll {α : Type} : List (Chk α) → Chk (List α)
  | [] => .ok []
  | c :: r =>
    match c, rankAll r with
    | .trap t, .trap u => .trap (if t.cause.rank ≤ u.cause.rank then t else u)
    | .trap t, _ => .trap t
    | _, .trap u => .trap u
    | .stall w, _ => .stall w
    | .ok _, .stall w => .stall w
    | .ok x, .ok xs => .ok (x :: xs)

/-- The traps of the ranks that come before every address of an instruction: those of legality, of retired opcodes and of
roles (19 R395). -/
def Chk.early (c : Chk Unit) : Chk Unit :=
  match c with
  | .trap t => if t.cause.rank ≤ 2 then .trap t else .ok ()
  | _ => .ok ()
/-- Two checks of one instruction made together: the worse trap, the first of two of one rank; the second's answer
(19 R395). DEDUCED (log 27). -/
def Chk.beside {α : Type} (c : Chk Unit) (d : Chk α) : Chk α :=
  match c, d with
  | .trap t, .trap u => .trap (if t.cause.rank ≤ u.cause.rank then t else u)
  | .trap t, _ => .trap t
  | .ok _, x => x
  | .stall _, .trap u => .trap u
  | .stall w, _ => .stall w

/-- Bytes [ea, ea + n) cut at the boundaries of 32 KiB pages: address and length of each piece. -/
def pagePieces (ea : DWord) (n : Nat) : List (DWord × Nat) :=
  if n = 0 then []
  else
    (List.range ((ea.toNat + n - 1) / 32768 - ea.toNat / 32768 + 1)).map fun k =>
      let a := if k = 0 then ea.toNat else (ea.toNat / 32768 + k) * 32768
      let e := min (ea.toNat + n) ((ea.toNat / 32768 + k + 1) * 32768)
      (BitVec.ofNat 64 a, e - a)

/-- The locations of bytes [ea, ea + n): every page they touch is checked (16_contexts_translation.md R358). -/
def locateRange (s : State) (p : Nat) (t : Thread) (win : Bool) (ea : DWord) (n : Nat) (a : Access) :
    Chk (List (Nat × Nat)) :=
  rankAll ((pagePieces ea n).map fun q =>
    (locateAt s p t win q.1 a).bind fun pl => .ok (pl.loc, q.2))

/-- The bytes at a list of located pieces. -/
def readPieces (s : State) (l : List (Nat × Nat)) : List Byte := (l.map fun q => s.read q.1 q.2).flatten

/-- Whether any located piece is poisoned (19 R398), or lies on an unreachable module, whose reads are poisoned (22 R430). -/
def piecesPoisoned (s : State) (l : List (Nat × Nat)) : Bool := l.any fun q => s.poisoned q.1 q.2 || isLost s q.1

/-- Bytes written at a list of located pieces. -/
def writePieces (s : State) : List (Nat × Nat) → List Byte → State
  | [], _ => s
  | (a, n) :: r, bs => writePieces (s.write a (bs.take n)) r (bs.drop n)

/-- The units that produce device records (19 R400). -/
def unitCommand : Nat := 576
/-- The Holtlink interface. -/
def unitHoltlink : Nat := 577
/-- The Ethernet transport. -/
def unitEthernet : Nat := 578
/-- Firmware, which writes the reports. -/
def unitFirmware : Nat := 579
/-- The barrier unit of a core's slice. -/
def unitBarrier (core : Nat) : Nat := 144 + 3 * core
/-- The copy engines of a core. -/
def unitCopy (core : Nat) : Nat := 145 + 3 * core
/-- The work-list unit of a core. -/
def unitWork (core : Nat) : Nat := 146 + 3 * core

/-- The holtlink-unreachable record of a physical address (19 R401, Table 5). -/
def lostRecord (s : State) (ctx loc : Nat) : State :=
  deviceRecord s unitHoltlink ctx 2 24 0 loc (moduleOf loc) 0 0

/-- A write performed at its owner, or dropped with a record when the owner's module is unreachable (22 R430). -/
def store (s : State) (ctx loc : Nat) (bs : List Byte) (p : Bool := false) : State :=
  if isLost s loc then lostRecord s ctx loc else s.write loc bs p

/-- The translation of a host page that an access used, kept as the device keeps what its requests answer (22 R424).
DEDUCED (log 31). -/
def keepPage (s : State) (a : Nat) : State :=
  let k := ((a - 2 ^ 53) / 2 ^ 64, (a - 2 ^ 53) % 2 ^ 64 / 4096)
  if isHost a && !s.ats.contains k then { s with ats := s.ats ++ [k] } else s
/-- The translations of the host pages that accesses used, kept. DEDUCED (log 31). -/
def keepHost (s : State) (l : List (Nat × Nat)) : State := (l.flatMap fun e => [e.1, e.1 + e.2 - 1]).foldl keepPage s

/-- Bytes read at their owner and whether they are poisoned (19 R398; 22 R430). -/
def loadP (s : State) (loc n : Nat) : List Byte × Bool := (s.read loc n, s.poisoned loc n || isLost s loc)

end Sys2Proof.Machine
end

