-- ==== Sys2Proof/Machine/Flags.lean ====
section
/-! DEFINITION. The flag computations beside those of each rounding (06_numbers.md R164, R165): the sticky flags of a
thread, the unions over elements, and the flags field of an ordered cell. -/

namespace Sys2Proof.Machine

open Sys2Proof.Numbers (Flags noFlags)

/-- The union of the flags of several elements or steps (06 R170; 07_compute_instructions.md R206, R220). -/
def unionFlags (l : List Flags) : Flags := l.foldl (· ||| ·) noFlags

/-- SETS %fpflags: bits [4:0] of a value (07 R225). -/
def setFlags (t : Thread) (x : Word) : Thread := { t with fpflags := x.extractLsb' 0 5 }

/-- GETS %fpflags: the flags zero-extended to 32 bits (06 R170, Table 4). -/
def flagsWord (t : Thread) : Word := t.fpflags.setWidth 32

/-- Bits [127:64] of an ordered cell after an apply: e and the sticky flags, live cleared when e = n
(04_memory_instructions.md Table 3; 03_memory_model.md R103), the reserved bits 0 (00_scope.md R10). -/
def cellHigh (high : DWord) (e : Nat) (live : Bool) (fl : Flags) : DWord :=
  setField (setField (setField (setField high 0 24 e) 48 5 (field high 48 5 ||| fl.toNat)) 54 1 (if live then 1 else 0)) 55 9 0

end Sys2Proof.Machine
end

