-- ==== Sys2Proof/Machine/Integer.lean ====
section
/-! DEFINITION. Integer and address arithmetic, selection, moves, special registers and the generator
(07_compute_instructions.md R193 to R204, R222 to R225; 06_numbers.md R158, R159, R178 to R180). -/

namespace Sys2Proof.Machine

open Sys2Proof.Legal (iwidth isigned ipair sregPair)

/-! Integer results. -/

/-- An operand read in its format (06 R159). -/
def toI (f : IFmt) (x : Nat) : Int :=
  if isigned f && decide (2 ^ (iwidth f - 1) ≤ x) then (x : Int) - 2 ^ iwidth f else x
/-- A result wrapped modulo 2^w (07 R194). -/
def wrap (f : IFmt) (x : Int) : Nat := (x % 2 ^ iwidth f).toNat
/-- A result saturated to the format's range (07 R194). -/
def saturate (f : IFmt) (x : Int) : Nat := wrap f (max (Numbers.imin f) (min (Numbers.imax f) x))
/-- A sum or difference, wrapped or saturated. -/
def limited (sat : Bool) (f : IFmt) (x : Int) : Nat := if sat then saturate f x else wrap f x

/-- IADD. -/
def iaddVal (sat : Bool) (f : IFmt) (a b : Nat) : Nat := limited sat f (toI f a + toI f b)
/-- ISUB. -/
def isubVal (sat : Bool) (f : IFmt) (a b : Nat) : Nat := limited sat f (toI f a - toI f b)
/-- IMUL. -/
def imulVal (f : IFmt) (a b : Nat) : Nat := wrap f (toI f a * toI f b)
/-- IMULH: bits [2w-1:w] of the exact product. -/
def imulhVal (f : IFmt) (a b : Nat) : Nat := wrap f (toI f a * toI f b / 2 ^ iwidth f)
/-- IMAD. -/
def imadVal (f : IFmt) (a b c : Nat) : Nat := wrap f (toI f a * toI f b + toI f c)
/-- IDIV (07 R195). -/
def idivVal (f : IFmt) (a b : Nat) : Nat :=
  let x := toI f a
  let y := toI f b
  if y = 0 then wrap f (if isigned f && decide (x < 0) then 1 else -1) else wrap f (x.tdiv y)
/-- IREM (07 R195). -/
def iremVal (f : IFmt) (a b : Nat) : Nat :=
  let y := toI f b
  if y = 0 then a else wrap f ((toI f a).tmod y)
/-- IMIN. -/
def iminVal (f : IFmt) (a b : Nat) : Nat := if toI f a ≤ toI f b then a else b
/-- IMAX. -/
def imaxVal (f : IFmt) (a b : Nat) : Nat := if toI f a ≤ toI f b then b else a
/-- IABS. -/
def iabsVal (f : IFmt) (a : Nat) : Nat := wrap f (toI f a).natAbs
/-- INEG. -/
def inegVal (f : IFmt) (a : Nat) : Nat := wrap f (-(toI f a))
/-- The comparison of ISET and BRC (07 R196, R187). -/
def icompare (f : IFmt) (c : Cmp) (a b : Nat) : Bool := Numbers.cmpKeys c (toI f a) (toI f b)
/-- The combine of ISET and FSET with the predicate it names (07 R196). -/
def combine (t : Thread) (c : Comb) (x : Bool) : Bool :=
  match c with
  | .none => x
  | .and q => x && t.pred q
  | .or q => x || t.pred q
/-- NOT. -/
def notVal (f : IFmt) (a : Nat) : Nat := 2 ^ iwidth f - 1 - a
/-- The shift count (07 R197). -/
def shiftCount (b : Nat) : Nat := b % 256
/-- SHL. -/
def shlVal (f : IFmt) (a b : Nat) : Nat :=
  if iwidth f ≤ shiftCount b then 0 else a * 2 ^ shiftCount b % 2 ^ iwidth f
/-- SHR. -/
def shrVal (f : IFmt) (a b : Nat) : Nat := if iwidth f ≤ shiftCount b then 0 else a / 2 ^ shiftCount b
/-- SAR. -/
def sarVal (f : IFmt) (a b : Nat) : Nat := wrap f (toI f a / 2 ^ min (shiftCount b) (iwidth f))
/-- ROL. -/
def rolVal (f : IFmt) (a b : Nat) : Nat :=
  let n := shiftCount b % iwidth f
  (a * 2 ^ n % 2 ^ iwidth f) + a / 2 ^ (iwidth f - n)
/-- BFX (07 R198): pos in [7:0] and len in [15:8] of operand B; bits at or above w are 0, or copies of the sign bit. -/
def bfxVal (f : IFmt) (a b : Nat) : Nat :=
  let pos := b % 256
  let len := b / 256 % 256
  let x : Int := toI f a / 2 ^ min pos (iwidth f)
  let fld := (x % 2 ^ len).toNat
  if len = 0 then 0
  else if isigned f && decide (2 ^ (len - 1) ≤ fld) then wrap f ((fld : Int) - 2 ^ len) else fld % 2 ^ iwidth f
/-- BFI (07 R198). -/
def bfiVal (f : IFmt) (a b c : Nat) : Nat :=
  let w := iwidth f
  let pos := c % 256
  let len := c / 256 % 256
  let mask := (2 ^ len - 1) * 2 ^ pos % 2 ^ w
  (a &&& (2 ^ w - 1 - mask)) ||| ((b * 2 ^ pos) &&& mask)
/-- The number of one bits among the low `n`. -/
def popCount : Nat → Nat → Nat
  | 0, _ => 0
  | n + 1, x => x % 2 + popCount n (x / 2)
/-- CLZ. -/
def clzVal (f : IFmt) (a : Nat) : Nat := if a = 0 then iwidth f else iwidth f - 1 - a.log2
/-- The number of zero bits below the lowest one, `n` at most. -/
def ctzGo : Nat → Nat → Nat
  | 0, _ => 0
  | n + 1, x => if x % 2 = 1 then 0 else 1 + ctzGo n (x / 2)
/-- The low `n` bits of `x` in reverse, above `acc`. -/
def brevGo : Nat → Nat → Nat → Nat
  | 0, _, acc => acc
  | n + 1, x, acc => brevGo n (x / 2) (2 * acc + x % 2)

/-! The shapes of the integer instructions. -/

/-- Three operands of one width. -/
def alu3 (g : Guard) (i : Instr) (o : Alu3) (f : IFmt → Nat → Nat → Nat) (s : State) : Out :=
  runReg g i s fun t => t.setI o.fmt o.d (f o.fmt (srcNat s t (iwidth o.fmt) o.a) (opbNat s t (iwidth o.fmt) o.b))
/-- A shift or BFX: operand B is one 32-bit register or an immediate (07 R197). -/
def aluShift (g : Guard) (i : Instr) (o : Alu3) (f : IFmt → Nat → Nat → Nat) (s : State) : Out :=
  runReg g i s fun t => t.setI o.fmt o.d (f o.fmt (srcNat s t (iwidth o.fmt) o.a) (opbNat s t 32 o.b))
/-- Two operands. -/
def alu2 (g : Guard) (i : Instr) (o : Alu2) (f : IFmt → Nat → Nat) (s : State) : Out :=
  runReg g i s fun t => t.setI o.fmt o.d (f o.fmt (srcNat s t (iwidth o.fmt) o.a))
/-- A count, written to one register whatever the width (07 R194). -/
def aluCount (g : Guard) (i : Instr) (o : Alu2) (f : IFmt → Nat → Nat) (s : State) : Out :=
  runReg g i s fun t => t.setV o.d (BitVec.ofNat 32 (f o.fmt (srcNat s t (iwidth o.fmt) o.a)))
/-- The operands of a short form (02_encoding.md R57, Table 8). -/
def rrrAlu (o : Rrr) (f : IFmt) : Alu3 := ⟨f, o.d, .v o.a, .reg (.v o.b)⟩

/-- A 64-bit destination: a pair, ln, or sp with the check of the stack limit (07 R199, R200). -/
def writeDst (i : Instr) (s : State) (t : Thread) (d : Dst) (x : DWord) : State :=
  match d with
  | .v n => finish i s s.cur (t.setV64 n x)
  | .ln => finish i s s.cur { t with ln := x }
  | .sp =>
    if decide (x.toNat < t.stklim.toNat) || field x 0 4 != 0 then takeTrap s s.cur t (mkTrap .stackLimit 0 x t.stklim)
    else finish i s s.cur { t with sp := x }

/-- X of 07 R199: operand B extended to 64 bits; an immediate counts as .i32. -/
def extendB (s : State) (t : Thread) (f : IFmt) : OpB → DWord
  | .reg r =>
    match f with
    | .i32 => (srcWord s t r).signExtend 64
    | .n32 => (srcWord s t r).setWidth 64
    | _ => srcDWord s t r
  | .imm7 x => x.signExtend 64
  | .lit x => x.signExtend 64

/-- The address forms (07 R199). -/
def addr64 (g : Guard) (i : Instr) (o : Addr64) (f : DWord → DWord → DWord) (s : State) : Out :=
  run g i s noCheck noCheck fun t _ => writeDst i s t o.d (f (srcDWord s t o.a) (extendB s t o.fmt o.b <<< o.sh.toNat))

/-! Meanings: arithmetic. -/

/-- IADD, short form (02 R57; 07 R194). -/
def execIaddShort (g : Guard) (o : Rrr) (s : State) : Out := alu3 g (.iaddShort g o) (rrrAlu o .i32) (iaddVal false) s
/-- ISUB, short form (02 R57; 07 R194). -/
def execIsubShort (g : Guard) (o : Rrr) (s : State) : Out := alu3 g (.isubShort g o) (rrrAlu o .i32) (isubVal false) s
/-- IMUL, short form (02 R57; 07 R194). -/
def execImulShort (g : Guard) (o : Rrr) (s : State) : Out := alu3 g (.imulShort g o) (rrrAlu o .i32) imulVal s
/-- AND, short form (02 R57; 07 R194). -/
def execAndShort (g : Guard) (o : Rrr) (s : State) : Out := alu3 g (.andShort g o) (rrrAlu o .n32) (fun _ a b => a &&& b) s
/-- OR, short form (02 R57; 07 R194). -/
def execOrShort (g : Guard) (o : Rrr) (s : State) : Out := alu3 g (.orShort g o) (rrrAlu o .n32) (fun _ a b => a ||| b) s
/-- XOR, short form (02 R57; 07 R194). -/
def execXorShort (g : Guard) (o : Rrr) (s : State) : Out := alu3 g (.xorShort g o) (rrrAlu o .n32) (fun _ a b => a ^^^ b) s
/-- SHL, short form (02 R57; 07 R197). -/
def execShlShort (g : Guard) (o : Rrr) (s : State) : Out := aluShift g (.shlShort g o) (rrrAlu o .n32) shlVal s
/-- SHR, short form (02 R57; 07 R197). -/
def execShrShort (g : Guard) (o : Rrr) (s : State) : Out := aluShift g (.shrShort g o) (rrrAlu o .n32) shrVal s
/-- SAR, short form (02 R57; 07 R197). -/
def execSarShort (g : Guard) (o : Rrr) (s : State) : Out := aluShift g (.sarShort g o) (rrrAlu o .i32) sarVal s
/-- IMIN, short form (02 R57; 07 R194). -/
def execIminShort (g : Guard) (o : Rrr) (s : State) : Out := alu3 g (.iminShort g o) (rrrAlu o .i32) iminVal s
/-- IMAX, short form (02 R57; 07 R194). -/
def execImaxShort (g : Guard) (o : Rrr) (s : State) : Out := alu3 g (.imaxShort g o) (rrrAlu o .i32) imaxVal s

/-- IADD (07 R194). -/
def execIadd (g : Guard) (sat : Bool) (o : Alu3) (s : State) : Out := alu3 g (.iadd g sat o) o (iaddVal sat) s
/-- ISUB (07 R194). -/
def execIsub (g : Guard) (sat : Bool) (o : Alu3) (s : State) : Out := alu3 g (.isub g sat o) o (isubVal sat) s
/-- IMUL (07 R194). -/
def execImul (g : Guard) (o : Alu3) (s : State) : Out := alu3 g (.imul g o) o imulVal s
/-- IMULH (07 R194). -/
def execImulh (g : Guard) (o : Alu3) (s : State) : Out := alu3 g (.imulh g o) o imulhVal s
/-- IMAD (07 R194). -/
def execImad (g : Guard) (o : Alu4) (s : State) : Out :=
  runReg g (.imad g o) s fun t =>
    let w := iwidth o.fmt
    t.setI o.fmt o.d (imadVal o.fmt (srcNat s t w o.a) (opbNat s t w o.b) (srcNat s t w o.c))
/-- IDIV (07 R195). -/
def execIdiv (g : Guard) (la : BitVec 4) (o : Alu3) (s : State) : Out := alu3 g (.idiv g la o) o idivVal s
/-- IREM (07 R195). -/
def execIrem (g : Guard) (la : BitVec 4) (o : Alu3) (s : State) : Out := alu3 g (.irem g la o) o iremVal s
/-- IMIN (07 R194). -/
def execImin (g : Guard) (o : Alu3) (s : State) : Out := alu3 g (.imin g o) o iminVal s
/-- IMAX (07 R194). -/
def execImax (g : Guard) (o : Alu3) (s : State) : Out := alu3 g (.imax g o) o imaxVal s
/-- IABS (07 R194). -/
def execIabs (g : Guard) (o : Alu2) (s : State) : Out := alu2 g (.iabs g o) o iabsVal s
/-- INEG (07 R194). -/
def execIneg (g : Guard) (o : Alu2) (s : State) : Out := alu2 g (.ineg g o) o inegVal s
/-- ISET (07 R196). -/
def execIset (g : Guard) (o : IsetOps) (s : State) : Out :=
  runReg g (.iset g o) s fun t =>
    t.setPred o.d (combine t o.comb
      (icompare o.fmt o.cmp (srcNat s t (iwidth o.fmt) o.a) (opbNat s t (iwidth o.fmt) o.b)))
/-- LEA (07 R199). -/
def execLea (g : Guard) (o : Addr64) (s : State) : Out := addr64 g (.lea g o) o (· + ·) s
/-- ADD64 (07 R199). -/
def execAdd64 (g : Guard) (o : Addr64) (s : State) : Out := addr64 g (.add64 g o) o (· + ·) s
/-- SUB64 (07 R199). -/
def execSub64 (g : Guard) (o : Addr64) (s : State) : Out := addr64 g (.sub64 g o) o (· - ·) s
/-- MUL64 (07 R199): an immediate is sign-extended to 32 bits, then read under the format. -/
def execMul64 (g : Guard) (o : Alu3) (s : State) : Out :=
  runReg g (.mul64 g o) s fun t =>
    t.setV64 o.d (BitVec.ofInt 64 (toI o.fmt (srcNat s t 32 o.a) * toI o.fmt (opbNat s t 32 o.b)))
/-- AND (07 R194). -/
def execAnd (g : Guard) (o : Alu3) (s : State) : Out := alu3 g (.and g o) o (fun _ a b => a &&& b) s
/-- OR (07 R194). -/
def execOr (g : Guard) (o : Alu3) (s : State) : Out := alu3 g (.or g o) o (fun _ a b => a ||| b) s
/-- XOR (07 R194). -/
def execXor (g : Guard) (o : Alu3) (s : State) : Out := alu3 g (.xor g o) o (fun _ a b => a ^^^ b) s
/-- NOT (07 R194). -/
def execNot (g : Guard) (o : Alu2) (s : State) : Out := alu2 g (.not g o) o notVal s
/-- SHL (07 R197). -/
def execShl (g : Guard) (o : Alu3) (s : State) : Out := aluShift g (.shl g o) o shlVal s
/-- SHR (07 R197). -/
def execShr (g : Guard) (o : Alu3) (s : State) : Out := aluShift g (.shr g o) o shrVal s
/-- SAR (07 R197). -/
def execSar (g : Guard) (o : Alu3) (s : State) : Out := aluShift g (.sar g o) o sarVal s
/-- ROL (07 R197). -/
def execRol (g : Guard) (o : Alu3) (s : State) : Out := aluShift g (.rol g o) o rolVal s
/-- BFX (07 R198). -/
def execBfx (g : Guard) (o : Alu3) (s : State) : Out := aluShift g (.bfx g o) o bfxVal s
/-- BFI (07 R198). -/
def execBfi (g : Guard) (o : Alu4) (s : State) : Out :=
  runReg g (.bfi g o) s fun t =>
    let w := iwidth o.fmt
    t.setI o.fmt o.d (bfiVal o.fmt (srcNat s t w o.a) (opbNat s t w o.b) (srcNat s t 32 o.c))
/-- POPC (07 R194). -/
def execPopc (g : Guard) (o : Alu2) (s : State) : Out := aluCount g (.popc g o) o (fun f a => popCount (iwidth f) a) s
/-- CLZ (07 R194). -/
def execClz (g : Guard) (o : Alu2) (s : State) : Out := aluCount g (.clz g o) o clzVal s
/-- CTZ (07 R194). -/
def execCtz (g : Guard) (o : Alu2) (s : State) : Out := aluCount g (.ctz g o) o (fun f a => ctzGo (iwidth f) a) s
/-- BREV (07 R194). -/
def execBrev (g : Guard) (o : Alu2) (s : State) : Out := alu2 g (.brev g o) o (fun f a => brevGo (iwidth f) a 0) s
/-- SEL (07 R193). -/
def execSel (g : Guard) (o : SelOps) (s : State) : Out :=
  runReg g (.sel g o) s fun t =>
    t.setI o.fmt o.d (if t.pred o.q then srcNat s t (iwidth o.fmt) o.a else opbNat s t (iwidth o.fmt) o.b)

/-! Meanings: moves and literals. -/

/-- MOV, short form: MOV.b32 (02 R57). -/
def execMovShort (g : Guard) (o : Rr) (s : State) : Out := runReg g (.movShort g o) s fun t => t.setV o.d (t.rv o.a)

/-- The low and high 64 bits of a 128-bit move's source (07 R201; an immediate sign-extended, log 16). -/
def movQuad (s : State) (t : Thread) : OpB → DWord × DWord
  | .reg (.v n) => (t.rv64 n, t.rv64 (n + 2#7))
  | .reg r => (srcDWord s t r, 0#64)
  | .imm7 x => (x.signExtend 64, if x.msb then BitVec.allOnes 64 else 0#64)
  | .lit x => (x.signExtend 64, if x.msb then BitVec.allOnes 64 else 0#64)

/-- MOV (07 R201). -/
def execMov (g : Guard) (o : MovOps) (s : State) : Out :=
  run g (.mov g o) s noCheck noCheck fun t _ =>
    match o.fmt, o.d with
    | .b128, .v n => finish (.mov g o) s s.cur (t.setQuad n (movQuad s t o.a).1 (movQuad s t o.a).2)
    | f, .v n => finish (.mov g o) s s.cur (t.setI f n (opbNat s t (iwidth f) o.a))
    | _, d => writeDst (.mov g o) s t d (BitVec.ofNat 64 (opbNat s t 64 o.a))
/-- MOVI (07 R202). -/
def execMovi (g : Guard) (o : MoviOps) (s : State) : Out :=
  runReg g (.movi g o) s fun t =>
    t.setI o.fmt o.d (if isigned o.fmt then (o.imm.signExtend 64).toNat % 2 ^ iwidth o.fmt else o.imm.toNat)
/-- LIT (07 R203). -/
def execLit (g : Guard) (d : VReg) (x : Word) (s : State) : Out := runReg g (.lit g d x) s fun t => t.setV d x
/-- MOVS (07 R204). -/
def execMovs (g : Guard) (o : MovsOps) (s : State) : Out :=
  run g (.movs g o) s noCheck noCheck fun t _ =>
    let x := BitVec.ofNat 64 (opbNat s t (iwidth o.fmt) o.a)
    let s1 := swrite s t o.d (lo32 x)
    finish (.movs g o) (if ipair o.fmt then swrite s1 t (o.d + 1#6) (hi32 x) else s1) s.cur t

/-! Meanings: special registers (07 R224, R225) and the generator (07 R222, R223). -/

/-- The depth of a thread's frame stack (12_execution_model.md R289). -/
def fsp (t : Thread) : Nat := t.spilled.length + t.chip.length

/-- The value of a special register at issue (07 R224). -/
def sregVal (s : State) (p : Nat) (t : Thread) : SReg → DWord
  | .chron => BitVec.ofNat 64 s.chron
  | .beat => s.beat
  | .lane => BitVec.ofNat 64 (laneOf p)
  | .bank => BitVec.ofNat 64 (bankOf p)
  | .core => BitVec.ofNat 64 (coreOf p)
  | .tid => t.tid.setWidth 64
  | .gang => match t.gang with | some k => BitVec.ofNat 64 k | none => 0xFFFFFFFF#64
  | .team => ((teamOf s t).map fun tm => tm.index.setWidth 64).getD 0#64
  | .energy => BitVec.ofNat 64 (s.core (coreOf p)).energy
  | .fpflags => t.fpflags.setWidth 64
  | .fsp => BitVec.ofNat 64 (fsp t)
  | .stklim => t.stklim
  | .region => t.region.setWidth 64
  | .pnone => t.pnone
  | .pskip => t.pskip
  | .pdefer => t.pdefer

/-- GETS (07 R224). -/
def execGets (g : Guard) (d : VReg) (r : SReg) (s : State) : Out :=
  runReg g (.gets g d r) s fun t =>
    let x := sregVal s s.cur t r
    if sregPair r then t.setV64 d x else t.setV d (lo32 x)
/-- SETS (07 R225): %fpflags and %stklim; no word of another register is legal. -/
def execSets (g : Guard) (r : SReg) (a : VReg) (s : State) : Out :=
  runReg g (.sets g r a) s fun t =>
    match r with
    | .fpflags => setFlags t (t.rv a)
    | .stklim => { t with stklim := t.rv64 a &&& ~~~15#64 }
    | _ => t
/-- RNGD (07 R222): `finish` advances the counter. -/
def execRngd (g : Guard) (la : BitVec 4) (o : RngdOps) (s : State) : Out :=
  runReg g (.rngd g la o) s fun t =>
    let x := threadRand s s.cur t (opbNat s t 32 o.b % 128)
    if ipair o.fmt then t.setV64 o.d x else t.setV o.d (hi32 x)
/-- RNGS (07 R223): the gang's key, or a promoted thread's own copy, and the thread's counter. -/
def execRngs (g : Guard) (a b : VReg) (s : State) : Out :=
  run g (.rngs g a b) s noCheck noCheck fun t _ =>
    let t' := { t with ctr := t.rv64 b }
    if t.promoted then finish (.rngs g a b) s s.cur { t' with key := some (t.rv64 a) }
    else
      match homeGang s t with
      | some gg => finish (.rngs g a b) (setGang s t.team { gg with key := t.rv64 a }) s.cur t'
      | none => finish (.rngs g a b) s s.cur t'

end Sys2Proof.Machine
end

