-- ==== Sys2Proof/Machine/Control.lean ====
section
/-! DEFINITION. Control transfer, predicates, reserved words, and the system instructions (07_compute_instructions.md R186
to R192; 02_encoding.md R60 to R68; 19_faults_traps_preemption.md R406 to R410). -/

namespace Sys2Proof.Machine

/-! Control transfer. -/

/-- The check of a thread's transfer to an address (02 R68). DEDUCED (log 24). -/
def checkJump (s : State) (p : Nat) (t : Thread) (target : DWord) : Chk Unit :=
  checkTarget s (coreOf p) (ctxOf s t) t.pri target

/-- p + 4 × D (02 R69). -/
def dispTarget (t : Thread) (d : DWord) : DWord := t.pc + d <<< 2
/-- D of BRA and CALL. -/
def Disp.val : Disp → DWord
  | .d28 x => x.signExtend 64
  | .d32 x => x.signExtend 64
/-- D of BRC. -/
def DispC.val : DispC → DWord
  | .d18 x => x.signExtend 64
  | .d32 x => x.signExtend 64

/-- The address of the next instruction (07 R186). -/
def nextOf (i : Instr) (t : Thread) : DWord := nextPc t.pc (parcelsOf i)

/-- A transfer to a checked target, which may write ln first (07 R186, R188). -/
def jump (g : Guard) (i : Instr) (link : Bool) (target : Thread → DWord) (s : State) : Out :=
  run g i s (fun t => checkJump s s.cur t (target t)) noCheck fun t _ =>
    goOn i s s.cur (if link then { t with ln := nextOf i t } else t) (target t)

/-- NOP, short form (07 R190). -/
def execNopShort (g : Guard) (s : State) : Out := runReg g (.nopShort g) s id
/-- BRA, short form (07 R186). -/
def execBraShort (g : Guard) (d : BitVec 21) (s : State) : Out :=
  jump g (.braShort g d) false (fun t => dispTarget t (d.signExtend 64)) s
/-- CALL, short form (07 R186). -/
def execCallShort (g : Guard) (d : BitVec 21) (s : State) : Out :=
  jump g (.callShort g d) true (fun t => dispTarget t (d.signExtend 64)) s
/-- RET, short form (07 R188). -/
def execRetShort (g : Guard) (s : State) : Out := jump g (.retShort g) false (fun t => t.ln) s

/-- NOP (07 R190). -/
def execNop (g : Guard) (s : State) : Out := runReg g (.nop g) s id
/-- BRA (07 R186). -/
def execBra (g : Guard) (d : Disp) (s : State) : Out := jump g (.bra g d) false (fun t => dispTarget t (Disp.val d)) s
/-- CALL (07 R186): a target that faults leaves ln unchanged. -/
def execCall (g : Guard) (d : Disp) (s : State) : Out := jump g (.call g d) true (fun t => dispTarget t (Disp.val d)) s
/-- BRX (07 R188). -/
def execBrx (g : Guard) (a : Src) (s : State) : Out := jump g (.brx g a) false (fun t => srcDWord s t a) s
/-- CALLX (07 R188): both registers are read before ln is written. -/
def execCallx (g : Guard) (a : Src) (s : State) : Out := jump g (.callx g a) true (fun t => srcDWord s t a) s
/-- RET (07 R188). -/
def execRet (g : Guard) (s : State) : Out := jump g (.ret g) false (fun t => t.ln) s

/-- The comparison of BRC and its flags (07 R187). -/
def brcTaken (o : BrcOps) (t : Thread) : Bool × Numbers.Flags :=
  match o.fmt with
  | .int f =>
    (if Legal.ipair f then icompare f o.cmp (t.rv64 o.a).toNat (t.rv64 o.b).toNat
     else icompare f o.cmp (t.rv o.a).toNat (t.rv o.b).toNat, Numbers.noFlags)
  | .flt f =>
    if f == .f64 then Numbers.fcompare f o.cmp (t.rv64 o.a).toNat (t.rv64 o.b).toNat
    else Numbers.fcompare f o.cmp ((t.rv o.a).toNat % 2 ^ Legal.fwidth f) ((t.rv o.b).toNat % 2 ^ Legal.fwidth f)

/-- BRC (07 R187): the target is checked when the branch is taken. -/
def execBrc (g : Guard) (o : BrcOps) (s : State) : Out :=
  let target (t : Thread) := dispTarget t (DispC.val o.disp)
  run g (.brc g o) s (fun t => if (brcTaken o t).1 then checkJump s s.cur t (target t) else .ok ()) noCheck fun t _ =>
    let t' := t.addFlags (brcTaken o t).2
    if (brcTaken o t).1 then goOn (.brc g o) s s.cur t' (target t) else finish (.brc g o) s s.cur t'

/-! Predicates (07 R191, R192). -/

/-- PAND, short form. -/
def execPandShort (g : Guard) (d a b : PReg) (s : State) : Out :=
  runReg g (.pandShort g d a b) s fun t => t.setPred d (t.pred a && t.pred b)
/-- POR, short form. -/
def execPorShort (g : Guard) (d a b : PReg) (s : State) : Out :=
  runReg g (.porShort g d a b) s fun t => t.setPred d (t.pred a || t.pred b)
/-- PXOR, short form. -/
def execPxorShort (g : Guard) (d a b : PReg) (s : State) : Out :=
  runReg g (.pxorShort g d a b) s fun t => t.setPred d (t.pred a ^^ t.pred b)
/-- PNOT, short form. -/
def execPnotShort (g : Guard) (d a : PReg) (s : State) : Out :=
  runReg g (.pnotShort g d a) s fun t => t.setPred d (!t.pred a)
/-- PMOV, short form. -/
def execPmovShort (g : Guard) (d a : PReg) (s : State) : Out :=
  runReg g (.pmovShort g d a) s fun t => t.setPred d (t.pred a)
/-- PAND: each source after its negation. -/
def execPand (g : Guard) (o : Preds) (s : State) : Out :=
  runReg g (.pand g o) s fun t => t.setPred o.d ((t.pred o.a ^^ o.na) && (t.pred o.b ^^ o.nb))
/-- POR. -/
def execPor (g : Guard) (o : Preds) (s : State) : Out :=
  runReg g (.por g o) s fun t => t.setPred o.d ((t.pred o.a ^^ o.na) || (t.pred o.b ^^ o.nb))
/-- PXOR. -/
def execPxor (g : Guard) (o : Preds) (s : State) : Out :=
  runReg g (.pxor g o) s fun t => t.setPred o.d ((t.pred o.a ^^ o.na) ^^ (t.pred o.b ^^ o.nb))
/-- PNOT. -/
def execPnot (g : Guard) (o : Pred2) (s : State) : Out :=
  runReg g (.pnot g o) s fun t => t.setPred o.d (!(t.pred o.a ^^ o.na))
/-- PMOV. -/
def execPmov (g : Guard) (o : Pred2) (s : State) : Out :=
  runReg g (.pmov g o) s fun t => t.setPred o.d (t.pred o.a ^^ o.na)
/-- PPACK: bit k is qk, so bit 7 is 1. -/
def packPreds (t : Thread) : Word :=
  BitVec.ofNat 32 ((List.range 8).foldl (fun a k => a + if t.pred (BitVec.ofNat 3 k) then 2 ^ k else 0) 0)
/-- PPACK (07 R192). -/
def execPpack (g : Guard) (d : VReg) (s : State) : Out := runReg g (.ppack g d) s fun t => t.setV d (packPreds t)
/-- PUNPK (07 R192). -/
def execPunpk (g : Guard) (a : VReg) (s : State) : Out :=
  runReg g (.punpk g a) s fun t => { t with q := Vector.ofFn fun k : Fin 7 => (t.rv a).getLsbD k.val }

/-! Reserved words (02 R63, R47; 19 R410). -/

/-- The frame of the first parcel of a thread's instruction is not certified (19 R410). DEDUCED (log 38). -/
def plantedHere (s : State) (t : Thread) : Bool :=
  ctxDebug s (ctxOf s t) &&
    match translate s (coreOf s.cur) (ctxOf s t) t.pc Access.fetch with
    | .ok pl => isHost pl.loc || (rget s.certified (pl.loc / 32768)).isNone
    | _ => false

/-- The trap of a reserved word (19 R395, Table 1), or the breakpoint of a planted short word. DEDUCED (log 22). -/
def reservedTrap (s : State) (t : Thread) (i : Instr) (w : RawWord) : Trap :=
  if w.len == 1#2 && w.p0 == 0x70000000#32 && plantedHere s t then mkTrap .breakpoint 1 0#64
  else mkTrap .illegalInstruction 0 0#64 (wordInfo i)

/-- A reserved word: the illegal-instruction fault in an active thread; a line crossing faults whatever the guard. -/
def execReservedEncoding (g : Guard) (why : Illegal) (w : RawWord) (s : State) : Out :=
  match why with
  | .reserved =>
    run g (.reservedEncoding g .reserved w) s
      (fun t => .trap (reservedTrap s t (.reservedEncoding g .reserved w) w)) noCheck fun _ (_ : Unit) => s
  | .lineCrossing =>
    match s.thr s.cur with
    | none => .fault (.noThread s.cur)
    | some t =>
      .next (takeTrap s s.cur t (mkTrap .illegalInstruction 3 0#64 (wordInfo (.reservedEncoding g .lineCrossing w))))

/-! System instructions (19 R406 to R410). -/

/-- TRAP (19 R408): the thread parks with a system-call record; its code stands in the address field.
DEDUCED (log 26). -/
def execTrap (g : Guard) (code : BitVec 11) (s : State) : Out :=
  run g (.trap g code) s noCheck noCheck fun t _ =>
    takeTrap s s.cur t (mkTrap .systemCall 0 (code.setWidth 64))
/-- BKPT (19 R410). DEDUCED (log 38). -/
def execBkpt (g : Guard) (imm : BitVec 11) (s : State) : Out :=
  run g (.bkpt g imm) s noCheck noCheck fun t _ =>
    takeTrap s s.cur t (mkTrap .breakpoint 0 0#64 (imm.setWidth 64))
/-- REGION (19 R409). -/
def execRegion (g : Guard) (tag : BitVec 11) (s : State) : Out :=
  run g (.region g tag) s (fun t => checkJump s s.cur t (nextOf (.region g tag) t)) noCheck fun t _ =>
    finish (.region g tag) s s.cur
      { t with region := (nextOf (.region g tag) t).extractLsb' 0 57, tag := tag, replays := 0 }

/-- The lane mask of a thread's bound group, 0 when it is not bound (19 R395, Table 1). -/
def boundMask (s : State) (t : Thread) : DWord :=
  match t.group.bind s.group with
  | some gr => BitVec.ofNat 64 (gr.members.foldl (fun a p => a ||| 2 ^ (laneOf p % 32)) 0)
  | none => 0#64

end Sys2Proof.Machine
end

