-- ==== Sys2Proof/Machine/Barrier.lean ====
section
/-! DEFINITION. Transaction barriers and stage rings (04_memory_instructions.md R127 to R134). -/

namespace Sys2Proof.Machine

/-! The barrier unit. -/

/-- The 128 bits of a barrier (04 R127, Table 6). -/
def barRead (s : State) (loc : Nat) : BitVec 128 := BitVec.ofNat 128 (leNat (s.read loc 16))
/-- The bits of a barrier that hold fields; the others are reserved, and the device writes them 0 (00_scope.md R10). -/
def barFields : BitVec 128 := BitVec.ofNat 128 ((2 ^ 52 - 1) * 2 ^ 32 + (2 ^ 24 - 1))
/-- A barrier written whole. DESIGN CHOICE (log 39). -/
def barWrite (s : State) (loc : Nat) (x : BitVec 128) (p : Bool) : State :=
  s.write loc (toBytes 16 (x &&& barFields).toNat) p
/-- The phase field. -/
def barPhase (x : BitVec 128) : BitVec 4 := x.extractLsb' 0 4
/-- pending_arrivals. -/
def barArrivals (x : BitVec 128) : Nat := field x 4 20
/-- pending_sectors. -/
def barSectors (x : BitVec 128) : Word := x.extractLsb' 32 32
/-- arrival_reload. -/
def barReload (x : BitVec 128) : Nat := field x 64 20
/-- Whether phase p is completed: the phase field differs (04 R129). -/
def barDone (s : State) (loc : Nat) (p : BitVec 4) : Bool := barPhase (barRead s loc) != p

/-- A recorded waiter wakes once its phase completes (04 R130). DEDUCED (log 34). -/
def wakeBar (s : State) (w : BarWaiter) : State :=
  match whoGet s w.place w.team with
  | some t =>
    match t.status with
    | .parked (.barrier ..) => whoSet s w.place w.team (t.wake s)
    | _ => s
  | none => s

/-- Every recorded waiter of a barrier wakes, and the records are cleared (04 R128, R131). DEDUCED (log 34). -/
def wakeAllBar (s : State) (loc : Nat) : State :=
  let l := s.barWaiters.filter (·.bar == loc)
  l.foldl wakeBar { s with barWaiters := s.barWaiters.filter (·.bar != loc) }

/-- The test after every change of a barrier (04 R128): phase completion, or overrun with its record.
DEDUCED (log 36). What a barrier over poisoned bytes does the spec does not say: it is computed on as it stands, keeps its
mark, and no operation on it faults. DESIGN CHOICE (log 39). -/
def barTest (s : State) (ctx loc : Nat) (x : BitVec 128) (p : Bool) : State :=
  if barArrivals x == 0 && barSectors x == 0#32 then
    let y := setField (setField (setField x 0 4 (barPhase x).toNat.succ) 4 20 (barReload x)) 32 32 0
    wakeAllBar (barWrite s loc y p) loc
  else
    let s1 := barWrite s loc x p
    if barArrivals x == 0 && (barSectors x).msb then
      deviceRecord s1 (unitBarrier ((loc - 2 ^ 52) / 2 ^ 22)) ctx 2 17 0 (apertureVa s ctx loc) (x.toNat % 2 ^ 64)
        (x.toNat / 2 ^ 64) 0
    else s1

/-- A landing: pending_sectors falls by 1 (04 R123). -/
def barLand (s : State) (ctx loc : Nat) : State :=
  let x := barRead s loc
  barTest s ctx loc (setField x 32 32 (barSectors x - 1#32).toNat) (s.poisoned loc 16)

/-- The barrier an operand names (04 R127): 16-aligned, in the SRAM aperture or the window. DEDUCED (log 35). -/
def locateBar (s : State) (p : Nat) (t : Thread) (m : MemOp) : Chk Nat :=
  let ea := memEa s t m
  let ab := apertureBase s (ctxOf s t)
  (alignCheck ea 16).bind fun _ =>
    if !m.win && !(decide (ab ≤ ea.toNat) && decide (ea.toNat < ab + 576 * 2 ^ 20)) then .trap (spaceTrap ea)
    else (locateAt s p t m.win ea Access.both).bind fun pl => .ok pl.loc

/-- Barriers of a slice with recorded waiters. -/
def barTable (s : State) (core : Nat) : Nat :=
  ((s.barWaiters.map (·.bar)).filter fun b => (b - 2 ^ 52) / 2 ^ 22 == core).eraseDups.length

/-- Whether a barrier has a waiter record, or its unit room for one: 256 barriers at once (04 R130). -/
def barRoom (s : State) (loc : Nat) : Bool :=
  s.barWaiters.any (·.bar == loc) || decide (barTable s ((loc - 2 ^ 52) / 2 ^ 22) < 256)

/-- The wait of TBWAIT (04 R130): returns at once when phase p is completed; otherwise records the thread and parks, or
stalls while the table is full. -/
def barWait (i : Instr) (s : State) (t : Thread) (loc : Nat) (p : BitVec 4) : State :=
  if barDone s loc p then finish i s s.cur t
  else if barRoom s loc then
    park i { s with barWaiters := s.barWaiters ++ [⟨loc, p, s.cur, none⟩] } s.cur t (.barrier loc p)
  else stall s s.cur t (.barrierTable loc)

/-- TBINIT (04 R130, Table 7). -/
def execTbinit (g : Guard) (o : CellOps) (s : State) : Out :=
  run g (.tbinit g o) s noCheck (fun t => locateBar s s.cur t o.m) fun t loc =>
    let n := if field (t.rv o.b) 0 20 == 0 then 1 else field (t.rv o.b) 0 20
    finish (.tbinit g o) (barWrite s loc (BitVec.ofNat 128 (n * 2 ^ 64 + n * 2 ^ 4)) false) s.cur t
/-- TBEXP (04 R130, Table 7). -/
def execTbexp (g : Guard) (o : CellOps) (s : State) : Out :=
  run g (.tbexp g o) s noCheck (fun t => locateBar s s.cur t o.m) fun t loc =>
    let x := barRead s loc
    let y := setField x 32 32 (barSectors x + t.rv o.b).toNat
    finish (.tbexp g o) (barTest s (ctxOf s t) loc y (s.poisoned loc 16)) s.cur t
/-- TBARR (04 R130, Table 7): with no arrivals pending it stalls until the phase completes. DEDUCED (log 37). -/
def execTbarr (g : Guard) (o : CellOps) (s : State) : Out :=
  run g (.tbarr g o) s noCheck (fun t => locateBar s s.cur t o.m) fun t loc =>
    let x := barRead s loc
    if barArrivals x == 0 then stall s s.cur t (.arrival loc (barPhase x))
    else
      finish (.tbarr g o)
        (barTest s (ctxOf s t) loc (setField x 4 20 (barArrivals x - 1)) (s.poisoned loc 16)) s.cur t
/-- TBWAIT (04 R130, Table 7). -/
def execTbwait (g : Guard) (o : CellOps) (s : State) : Out :=
  run g (.tbwait g o) s noCheck (fun t => locateBar s s.cur t o.m) fun t loc =>
    barWait (.tbwait g o) s t loc ((t.rv o.b).extractLsb' 0 4)
/-- TBTEST (04 R130, Table 7). -/
def execTbtest (g : Guard) (la : BitVec 4) (q : PReg) (o : CellOps) (s : State) : Out :=
  run g (.tbtest g la q o) s noCheck (fun t => locateBar s s.cur t o.m) fun t loc =>
    finish (.tbtest g la q o) s s.cur (t.setPred q (barDone s loc ((t.rv o.b).extractLsb' 0 4)))

/-! SLEEPTO (04 R132). -/

/-- The test once the time has passed: completed, the thread goes on; otherwise the promise-miss trap, or by default
its handler's TBWAIT on the same barrier and phase (04 R132; 19 R399, pm_report). -/
def sleepTest (i : Instr) (s : State) (t : Thread) (ea : DWord) (loc : Nat) (p : BitVec 4) (target : DWord) : State :=
  if barDone s loc p then finish i s s.cur t
  else if cfield s (ctxOf s t) 920 1 == 1 then
    takeTrap s s.cur t { mkTrap .promiseMiss 0 ea (p.setWidth 64) target with bar := some loc }
  else barWait i s t loc p

/-- SLEEPTO (04 R132), whose 64-bit target is compared with the whole count of the chronometer (00 R2).
DESIGN CHOICE (log 116). -/
def execSleepto (g : Guard) (o : CellOps) (s : State) : Out :=
  run g (.sleepto g o) s noCheck (fun t => locateBar s s.cur t o.m) fun t loc =>
    let target := t.rv64 o.d
    let p := (t.rv o.b).extractLsb' 0 4
    if target.toNat ≤ s.chron then sleepTest (.sleepto g o) s t (memEa s t o.m) loc p target
    else park (.sleepto g o) s s.cur t (.sleep (memEa s t o.m) loc p target)

/-- SLEEPTO_EXPIRY: the sleeper at `p` tests its phase once %chron has reached its time (04 R132). Before that, or at
another thread, nothing happens. -/
def execSleeptoExpiry (p : Nat) (s : State) : Out :=
  match s.thr p with
  | some t =>
    match t.status with
    | .parked (.sleep ea loc ph target) =>
      if target.toNat ≤ s.chron then
        if barDone s loc ph then .next (s.setThr p (t.wake s))
        else if cfield s (ctxOf s t) 920 1 == 1 then
          .next (takeTrap s p t { mkTrap .promiseMiss 0 ea (ph.setWidth 64) target with bar := some loc })
        else if barRoom s loc then
          .next (State.setThr { s with barWaiters := s.barWaiters ++ [⟨loc, ph, p, none⟩] } p
            { t with status := .parked (.barrier loc ph) })
        else .next (stall s p t (.barrierTable loc))
      else .next s
    | _ => .next s
  | none => .next s

/-! Stage rings (04 R133, R134): operations of one direction are served in the order they came. -/

/-- A ring of a team. -/
def Team.ring (tm : Team) (r : BitVec 3) : Ring := tm.rings[r.toNat]'r.isLt
/-- A ring of a team, set. -/
def setRing (s : State) (k : Nat) (r : BitVec 3) (x : Ring) : State :=
  match s.team k with
  | some tm => s.setTeam k { tm with rings := tm.rings.set r.toNat x r.isLt }
  | none => s
/-- A queue with a place at its end, if it is not in it. -/
def joinQueue (l : List Nat) (p : Nat) : List Nat := if l.contains p then l else l ++ [p]

/-- SRPUT (04 R134). DEDUCED (log 33). -/
def execSrput (g : Guard) (sc : Scope) (r : BitVec 3) (a : VReg) (s : State) : Out :=
  run g (.srput g sc r a) s noCheck noCheck fun t _ =>
    match teamOf s t with
    | none => s
    | some tm =>
      let x := tm.ring r
      let q := joinQueue x.putq s.cur
      let e := x.entries[x.put.toNat]'x.put.isLt
      if q.head? == some s.cur && !e.full then
        finish (.srput g sc r a) (setRing s t.team r
          { x with entries := x.entries.set x.put.toNat ⟨t.rv a, true⟩ x.put.isLt, put := x.put + 1#4, putq := q.drop 1 })
          s.cur t
      else stall (setRing s t.team r { x with putq := q }) s.cur t (.ring r.toNat)

/-- SRGET (04 R134). DEDUCED (log 33). -/
def execSrget (g : Guard) (la : BitVec 4) (sc : Scope) (r : BitVec 3) (d : VReg) (s : State) : Out :=
  run g (.srget g la sc r d) s noCheck noCheck fun t _ =>
    match teamOf s t with
    | none => s
    | some tm =>
      let x := tm.ring r
      let q := joinQueue x.getq s.cur
      let e := x.entries[x.get.toNat]'x.get.isLt
      if q.head? == some s.cur && e.full then
        finish (.srget g la sc r d) (setRing s t.team r
          { x with entries := x.entries.set x.get.toNat { e with full := false } x.get.isLt
                   get := x.get + 1#4, getq := q.drop 1 })
          s.cur (t.setV d e.value)
      else stall (setRing s t.team r { x with getq := q }) s.cur t (.ring r.toNat)

end Sys2Proof.Machine
end

