-- ==== Sys2Proof/Machine/Memory.lean ====
section
/-! DEFINITION. Loads, stores, atomics, ordered cells, fences and prefetch (04_memory_instructions.md R112 to R120, R440;
03_memory_model.md R93 to R105). -/

namespace Sys2Proof.Machine

open Sys2Proof.Legal (iwidth isigned ipair)

/-! Budgets of bytes per beat (14_scheduling.md R348). -/

/-- Whether a budget of KiB covers `n` bytes more, or is whole: 0 is unlimited. -/
def fits (kib used n : Nat) : Bool := kib == 0 || used == 0 || decide (used + n ≤ kib * 1024)
/-- copy_b of a context. -/
def copyBudget (s : State) (ctx : Nat) : Nat := cfield s ctx 512 16
/-- dram_b. -/
def dramBudget (s : State) (ctx : Nat) : Nat := cfield s ctx 528 16
/-- egr_b. -/
def egrBudget (s : State) (ctx : Nat) : Nat := cfield s ctx 544 16
/-- A number added to a table's entry. -/
def addTo (m : Map Nat) (k n : Nat) : Map Nat := mset m k ((mget m k).getD 0 + n)
/-- Whether a location lies in this module's DRAM. -/
def isDram (s : State) (loc : Nat) : Bool := decide (loc < 2 ^ 52) && isHere s loc
/-- Whether the DRAM budget of a context admits an access now. -/
def dramFits (s : State) (ctx loc n : Nat) : Bool :=
  !isDram s loc || fits (dramBudget s ctx) ((mget (s.ctx ctx).used (channelOf loc)).getD 0) n
/-- An access charged to its channel. DEDUCED (log 91). -/
def chargeDram (s : State) (ctx loc n : Nat) : State :=
  if isDram s loc then s.setCtx ctx { s.ctx ctx with used := addTo (s.ctx ctx).used (channelOf loc) n } else s
/-- A location of this module's DRAM charged with bytes, in a table of channels. -/
def addChannel (s : State) (m : Map Nat) (loc n : Nat) : Map Nat := if isDram s loc then addTo m (channelOf loc) n else m
/-- Whether the DRAM budget admits an operation's bytes on every channel it uses (14 R348). -/
def channelsFit (s : State) (ctx : Nat) (m : Map Nat) : Bool :=
  m.all fun e => fits (dramBudget s ctx) ((mget (s.ctx ctx).used e.1).getD 0) e.2
/-- Whether the DRAM budget admits bytes at some locations, together. DEDUCED (log 91). -/
def allFit (s : State) (ctx : Nat) (l : List (Nat × Nat)) : Bool :=
  dramBudget s ctx == 0 || channelsFit s ctx (l.foldl (fun m e => addChannel s m e.1 e.2) [])
/-- Bytes at some locations charged to their channels; of those in host memory the translations are kept (22 R424).
DEDUCED (log 31). DEDUCED (log 91). -/
def chargeAll (s : State) (ctx : Nat) (l : List (Nat × Nat)) : State :=
  keepHost (if l.any fun e => isDram s e.1 then
      s.setCtx ctx { s.ctx ctx with used := l.foldl (fun m e => addChannel s m e.1 e.2) (s.ctx ctx).used }
    else s) l
/-- Whether an address of a context is translated through its tables. -/
def isWalked (s : State) (ctx : Nat) (ea : DWord) : Bool :=
  field ea 57 7 == 0 && !(decide (apertureBase s ctx ≤ ea.toNat) && decide (ea.toNat < apertureBase s ctx + 576 * 2 ^ 20))
/-- The entries a walk reads, from table `t` at level `l`, `n` levels at most (16 R358): 8 bytes each. -/
def walkPlaces (s : State) (ea : DWord) : Nat → Nat → Nat → List (Nat × Nat)
  | 0, _, _ => []
  | n + 1, l, t =>
    let a := t + 8 * levelIndex ea l
    let e := BitVec.ofNat 64 (leNat (s.read a 8))
    (a, 8) :: if s.poisoned a 8 || isLost s a || !e.getLsbD 0 || malformed l e || e.getLsbD 1 then []
      else walkPlaces s ea n (l + 1) (field e 9 43 * 512)
/-- What the walk of an address reads, where the core keeps no entry for it. -/
def walkCost (s : State) (core ctx : Nat) (ea : DWord) : List (Nat × Nat) :=
  if isWalked s ctx ea && (tlbHit s core ctx ea.toNat).isNone then walkPlaces s ea 5 0 (cfield s ctx 64 52) else []
/-- Where bytes of a context lie, as a unit of the device accesses them. -/
def devPieces (s : State) (ctx va n : Nat) : List (Nat × Nat) :=
  (pagePieces (BitVec.ofNat 64 va) n).filterMap fun q =>
    match translate s 0 ctx q.1 Access.none false 1 with
    | .ok pl => some (pl.loc, q.2)
    | _ => none
/-- What the walks read of the pages that bytes of a context touch. -/
def walkCosts (s : State) (core ctx : Nat) (ea : DWord) (n : Nat) : List (Nat × Nat) :=
  (pagePieces ea n).flatMap fun q => walkCost s core ctx q.1
/-- What an access of a unit of the device to bytes of a context is charged: the walks and the bytes (14 R348).
DEDUCED (log 91). -/
def devCost (s : State) (ctx va n : Nat) : List (Nat × Nat) :=
  walkCosts s 0 ctx (BitVec.ofNat 64 va) n ++ devPieces s ctx va n

/-! Loads and stores. -/

/-- The live ordered cell that bytes [loc, loc + n) touch (04 R113). -/
def liveAt (s : State) (loc n : Nat) : Option LiveCell :=
  s.ordered.find? fun c => decide (loc < c.loc + 16) && decide (c.loc < loc + n)
/-- The ordered-cell fault of a plain access (19 R395, Table 1). -/
def liveTrap (ea : DWord) (c : LiveCell) : Trap :=
  mkTrap .orderedCell 0 (ea &&& ~~~15#64) 0#64 0#64 (BitVec.ofNat 64 c.e)

/-- Bytes cut into single-copy units of at most 8 bytes, each with its offset (03 R93, R94). -/
def units8 (bs : List Byte) : List (Nat × List Byte) :=
  (List.range ((bs.length + 7) / 8)).map fun k => (8 * k, (bs.drop (8 * k)).take 8)
/-- A write put on the mesh toward die `e`, one entry a unit, under the stamp of the issuing die `d` (03 R97).
DEDUCED (log 41). -/
def meshPut (s : State) (ctx : Nat) (place : Option Nat) (elem : Option (Nat × Nat × Nat × Nat)) (key : Option Nat) (d e loc : Nat)
    (bs : List Byte) (poison : Bool) : State :=
  (units8 bs).foldl (fun a u =>
    { a with
      mesh := a.mesh ++ [⟨a.serial, ctx, place, elem, key, (s.serial, loc, bs.length), d, e, (s.dies[d % 8]'(by omega)), loc + u.1,
                          u.2, poison⟩]
      serial := a.serial + 1 }) s
/-- Whether the causal buffer of a die is full, so that it accepts no write (03 R97). DESIGN CHOICE (log 100). -/
def bufferFull (s : State) (d : Nat) : Bool := decide (Config.causalRoom < (s.mesh.filter (·.dest == d)).length)
/-- The die that would have to accept a write from a core to a location over the mesh, when the device takes that outcome. -/
def meshDie (s : State) (core loc : Nat) : Option Nat :=
  match s.choices.mesh, dieAt s loc with
  | true, some e => if dieOf core == e then none else some e
  | _, _ => none

/-- A write of a die counted in every die's vector: the dies exchange their counts at once. DEDUCED (log 42). -/
def countWrite (s : State) (d : Nat) : State :=
  { s with dies := s.dies.map fun v => v.set (d % 8) (v[d % 8]'(by omega) + 1) (by omega) }
/-- A unit of a matrix or signature operation's write, performed as the operation completes; toward another die of the
mesh it counts as a write of its core's die (03 R96). -/
def engStore (s : State) (core ctx loc : Nat) (bs : List Byte) (poison : Bool) : State :=
  let s1 := store s ctx loc bs poison
  if (meshDie s core loc).isSome then countWrite s1 (dieOf core) else s1

/-- A thread's write: performed at its owner, or, when the device takes that outcome, carried by the mesh to another die
(03 R97); a write to another module awaits its acknowledgement (03 R98).
DESIGN CHOICE (log 10). DEDUCED (log 41). DEDUCED (log 43). -/
def threadStore (s : State) (p : Nat) (t : Thread) (key : Option Nat) (loc : Nat) (bs : List Byte) (poison : Bool) : State :=
  match meshDie s (coreOf p) loc with
  | some e => meshPut s (ctxOf s t) (some p) none key (dieOf (coreOf p)) e loc bs poison
  | none =>
    let s1 := store s (ctxOf s t) loc bs poison
    if isHere s loc || isHost loc || isLost s loc then s1
    else { s1 with unacked := s1.unacked ++ [⟨s1.serial, p, moduleOf loc⟩], serial := s1.serial + 1 }

/-- The bytes of a source of a store: a register, a pair or a quad. DESIGN CHOICE (log 39). -/
def storeBytes (t : Thread) (f : IFmt) (d : VReg) : List Byte :=
  match f with
  | .b128 => toBytes 8 (t.rv64 d).toNat ++ toBytes 8 (t.rv64 (d + 2#7)).toNat
  | .n64 | .i64 => toBytes 8 (t.rv64 d).toNat
  | _ => toBytes (iwidth f / 8) (t.rv d).toNat

/-- A loaded value written to its destination (04 R112). -/
def loadInto (t : Thread) (f : IFmt) (d : VReg) (bs : List Byte) : Thread :=
  match f with
  | .b128 => t.setQuad d (BitVec.ofNat 64 (leNat (bs.take 8))) (BitVec.ofNat 64 (leNat (bs.drop 8)))
  | _ => t.setI f d (leNat bs)

/-- Registers marked poisoned. -/
def markRegs (t : Thread) (l : List Nat) : Thread := l.foldl (fun t n => t.markV (BitVec.ofNat 7 n)) t

/-- Every register an instruction writes marked, when its data is poisoned (19 R398). -/
def markIf (p : Bool) (i : Instr) (t : Thread) : Thread := if p then markRegs t (vwrites i) else t

/-- LD (04 R112): 16 bytes are read in one step, which 03 R93 lets another order. DEDUCED (log 58). -/
def execLd (g : Guard) (la : BitVec 4) (o : MemOps) (s : State) : Out :=
  let n := iwidth o.fmt / 8
  run g (.ld g la o) s noCheck (fun t => locate s s.cur t o.m.win (memEa s t o.m) n Access.load) fun t pl =>
    let r := loadP s pl.loc n
    finish (.ld g la o) (chargeDram s (ctxOf s t) pl.loc n) s.cur
      (markIf r.2 (.ld g la o) (loadInto t o.fmt o.d r.1))

/-- ST (04 R112, R113). -/
def execSt (g : Guard) (o : MemOps) (s : State) : Out :=
  let n := iwidth o.fmt / 8
  run g (.st g o) s noCheck (fun t => locate s s.cur t o.m.win (memEa s t o.m) n Access.store) fun t pl =>
    match liveAt s pl.loc n with
    | some c => takeTrap s s.cur t (liveTrap (memEa s t o.m) c)
    | none =>
      finish (.st g o) (threadStore (chargeDram s (ctxOf s t) pl.loc n) s.cur t (some (pl.key (ctxOf s t))) pl.loc (storeBytes t o.fmt o.d) false)
        s.cur t

/-! Atomics (04 R114). -/

/-- The new value of an atomic, or none where it writes nothing (04 R114, Table 2). -/
def atomNew (op : AtomOp) (sgn : Bool) (w old b c : Nat) : Option Nat :=
  let key (x : Nat) : Int := if sgn && decide (2 ^ (w - 1) ≤ x) then (x : Int) - 2 ^ w else x
  match op with
  | .add => some ((old + b) % 2 ^ w)
  | .min => some (if key old ≤ key b then old else b)
  | .max => some (if key old ≤ key b then b else old)
  | .and => some (old &&& b)
  | .or => some (old ||| b)
  | .xor => some (old ^^^ b)
  | .exch => some b
  | .cas => if old = c then some b else none

/-- Whether an atomic has a PCI Express AtomicOp form (03 R102). -/
def hasAtomicOp : AtomOp → Bool
  | .add | .exch | .cas => true
  | _ => false

/-- An atomic performed at its owner as one step: the state, the old value and its poison. Toward an unreachable module it
only returns poisoned data (22 R430). DESIGN CHOICE (log 39). -/
def atomAt (s : State) (ctx loc : Nat) (op : AtomOp) (sgn : Bool) (n b c : Nat) : State × Nat × Bool :=
  let r := loadP s loc n
  let old := leNat r.1
  match (if isLost s loc then none else atomNew op sgn (8 * n) old b c) with
  | some x => (store s ctx loc (toBytes n x) (r.2 && op != .exch), old, r.2)
  | none => (s, old, r.2)

/-- ATOM (04 R114). -/
def execAtom (g : Guard) (la : BitVec 4) (o : AtomOps) (s : State) : Out :=
  let n := iwidth o.fmt / 8
  let val (t : Thread) (r : VReg) : Nat := if ipair o.fmt then (t.rv64 r).toNat else (t.rv r).toNat
  run g (.atom g la o) s noCheck
    (fun t => locate s s.cur t o.m.win (memEa s t o.m) n
      (if hasAtomicOp o.op then Access.both else Access.both.notHost 6))
    fun t pl =>
      match liveAt s pl.loc n with
      | some c => takeTrap s s.cur t (liveTrap (memEa s t o.m) c)
      | none =>
        let r := atomAt (chargeDram s (ctxOf s t) pl.loc n) (ctxOf s t) pl.loc o.op (isigned o.fmt) n (val t o.b) (val t o.c)
        finish (.atom g la o) r.1 s.cur (markIf r.2.2 (.atom g la o) (t.setI o.fmt o.d r.2.1))

/-! Ordered cells (04 R115 to R117, R440; 03 R103 to R105). -/

/-- The ordered cell of an operand: 16-aligned, not in host memory, its module reachable (22 R431). -/
def locateCell16 (s : State) (p : Nat) (t : Thread) (m : MemOp) (a : Access) : Chk Place :=
  let ea := memEa s t m
  (locate s p t m.win ea 16 a.notHost).bind fun pl =>
    if isLost s pl.loc then .trap (mkTrap .poison 0 ea) else .ok pl

/-- The live ordered state of a cell. -/
def liveCell (s : State) (loc : Nat) : Option LiveCell := s.ordered.find? (·.loc == loc)
/-- Ordered cells live at an owner. -/
def liveCount (s : State) (owner : Nat) : Nat := (s.ordered.filter fun c => ownerOf s c.loc == owner).length
/-- A live cell's state replaced. -/
def setLive (s : State) (c : LiveCell) : State :=
  { s with ordered := s.ordered.map fun x => if x.loc == c.loc then c else x }
/-- A cell no longer live. -/
def dropLive (s : State) (loc : Nat) : State := { s with ordered := s.ordered.filter (·.loc != loc) }

/-- Bits [127:64] of a cell that ORDINIT writes: e 0, n, flags 0, the format, live (04 R115, Table 3). -/
def initHigh (n : Nat) (f64 : Bool) : Nat := n * 2 ^ 24 + (if f64 then 2 ^ 53 else 0) + 2 ^ 54

/-- An ORDINIT at its cell's owner (04 R116); none where it raises the ordered-cell fault. -/
def initOrdered (s : State) (ctx loc : Nat) (f64 : Bool) (n v : Nat) : Option State :=
  if n == 0 || decide (2 ^ 24 ≤ n) || (liveCell s loc).isSome || decide (16 ≤ liveCount s (ownerOf s loc)) then none
  else
    let s1 := s.write loc (toBytes 8 v ++ toBytes 8 (initHigh n f64))
    some { s1 with ordered := s1.ordered ++ [⟨loc, n, 0, f64, ctx, []⟩] }

/-- ORDINIT (04 R116). -/
def execOrdinit (g : Guard) (o : OrdOps) (s : State) : Out :=
  run g (.ordinit g o) s noCheck (fun t => locateCell16 s s.cur t o.m Access.cell) fun t pl =>
    let n := (t.rv o.b).toNat
    let v := if o.f64 then (t.rv64 o.d).toNat else (t.rv o.d).toNat
    match initOrdered (chargeDram s (ctxOf s t) pl.loc 16) (ctxOf s t) pl.loc o.f64 n v with
    | some s1 => finish (.ordinit g o) s1 s.cur t
    | none =>
      takeTrap s s.cur t (mkTrap .orderedCell 0 (memEa s t o.m) (BitVec.ofNat 64 n) 0#64
        (BitVec.ofNat 64 (((liveCell s pl.loc).map (·.e)).getD 0)))

/-- apply(x, s) of 03 R103: the value rounded under RN into the cell, its sticky flags, e; the cell leaves the live
state at e = n. -/
def applyAdd (s : State) (c : LiveCell) (span : Nat) (x : DWord) : State × LiveCell :=
  let f : FFmt := if c.f64 then .f64 else .f32
  let low := leNat (s.read c.loc 8)
  let high := BitVec.ofNat 64 (leNat (s.read (c.loc + 8) 8))
  let r := Numbers.round f .rn 0 (Numbers.exactSum
    [Numbers.decode f (low % 2 ^ Legal.fwidth f), Numbers.decode f (x.toNat % 2 ^ Legal.fwidth f)])
  let e := c.e + span
  let h := cellHigh high e (decide (e < c.n)) r.2
  let s1 := s.write c.loc (toBytes 8 r.1 ++ toBytes 8 h.toNat) (s.poisoned c.loc 16)
  let c1 := { c with e := e }
  (if e < c.n then setLive s1 c1 else dropLive s1 c.loc, c1)

/-- Adds held in the window whose rank is expected are applied, one after another. DEDUCED (log 48). -/
def drainWindow : Nat → State → LiveCell → State
  | 0, s, _ => s
  | k + 1, s, c =>
    match c.window.find? (·.rank == c.e) with
    | none => s
    | some h =>
      let c1 := { c with window := c.window.filter (·.rank != h.rank) }
      let r := applyAdd (setLive s c1) c1 h.span h.x
      drainWindow k r.1 r.2

/-- Whether ranks [k, k + n) overlap an add held in the window. -/
def overlapsHeld (c : LiveCell) (k n : Nat) : Bool :=
  c.window.any fun h => decide (k < h.rank + h.span) && decide (h.rank < k + n)

/-- What the owner answers to an arriving add (03 R103): performed, refused with the fault, or no room. -/
inductive AddRes where
  | done (s : State)
  | refused
  | full
  deriving DecidableEq, Repr

/-- An add of a thread, or of another module, arriving at its cell's owner (03 R103; 04 R117). DEDUCED (log 48). -/
def arriveAdd (s : State) (place : Option Nat) (acq : Bool) (loc : Nat) (f64 : Bool) (k n : Nat) (x : DWord) : AddRes :=
  match liveCell s loc with
  | none => .refused
  | some c =>
    if c.f64 != f64 || n == 0 || decide (c.n < k + n) || decide (k < c.e) || overlapsHeld c k n then .refused
    else if k == c.e then
      let r := applyAdd s c n x
      .done (drainWindow 64 r.1 r.2)
    else if 64 ≤ c.window.length then .full
    else .done (setLive s { c with window := c.window ++ [⟨place, acq, k, n, x⟩] })

/-- Whether an order at a scope is an acquire beyond the thread's own (03 R82, R85). -/
def isAcquire (o : Order) (sc : Scope) : Bool :=
  sc != .th && match o with
    | .acq | .acqrel | .sc => true
    | _ => false
/-- The adds of the thread at `p` held in windows, not yet performed: their cells, and which are acquires (03 R104).
DEDUCED (log 48). -/
def heldAdds (s : State) (p : Nat) : List (Nat × Bool) :=
  s.ordered.flatMap fun c => (c.window.filter (·.place == some p)).map fun h => (c.loc, h.acq)
/-- Whether an add of the thread at `p` is held in a window, not yet performed (03 R104). -/
def addHeld (s : State) (p : Nat) : Bool := s.ordered.any fun c => c.window.any (·.place == some p)
/-- Whether an add held for the thread at `p` concerns any of some bytes (03 R86, note 5). DEDUCED (log 48). -/
def addHeldAt (s : State) (p : Nat) (l : List (Nat × Nat)) : Bool :=
  (heldAdds s p).any fun h => l.any fun e => rangesMeet h.1 16 e.1 e.2
/-- Whether a CINIT of the thread at `p` is on its way (05 R149). DEDUCED (log 40). -/
def initSent (s : State) (p : Nat) : Bool := s.msgs.any fun m => m.2.place == p && match m.2.goal with
  | .init .. => true
  | _ => false
/-- Whether writes of a thread are not performed yet: on the mesh, adds held in a window, or a CINIT on its way (03 R97,
R104; 05 R149). -/
def writesPending (s : State) (p : Nat) : Bool := s.mesh.any (·.place == some p) || addHeld s p || initSent s p
/-- The adds of a thread that is no more, held on without its place. -/
def forgetAdds (s : State) (p : Nat) : State :=
  { s with ordered := s.ordered.map fun c =>
      { c with window := c.window.map fun h => if h.place == some p then { h with place := none } else h } }

/-- The cell's e as its owner or its bytes hold it. -/
def cellE (s : State) (loc : Nat) : Nat :=
  match liveCell s loc with
  | some c => c.e
  | none => leNat (s.read (loc + 8) 3)

/-- AADDF (04 R117). -/
def execAaddf (g : Guard) (o : OrdOps) (s : State) : Out :=
  run g (.aaddf g o) s noCheck (fun t => locateCell16 s s.cur t o.m Access.cell) fun t pl =>
    let k := (t.rv o.d).toNat
    let n := (t.rv (o.d + 1#7)).toNat
    let x := if o.f64 then t.rv64 o.b else (t.rv o.b).setWidth 64
    match arriveAdd (chargeDram s (ctxOf s t) pl.loc 16) (some s.cur) (isAcquire o.ord o.scope) pl.loc o.f64 k n x with
    | .done s1 => finish (.aaddf g o) s1 s.cur t
    | .full => stall s s.cur t (.window pl.loc)
    | .refused =>
      takeTrap s s.cur t (mkTrap .orderedCell 0 (memEa s t o.m) (BitVec.ofNat 64 k) (BitVec.ofNat 64 n)
        (BitVec.ofNat 64 (cellE s pl.loc)))

/-! Fences and prefetch (04 R118, R120). -/

/-- FENCE (04 R118): a thread's accesses are performed in program order at their owners, and an issue waits for writes
still on the mesh or unacknowledged and for adds held in windows (log 40), so nothing is left to order. DEDUCED (log 41). -/
def execFence (g : Guard) (ord : Order) (sc : Scope) (s : State) : Out := runReg g (.fence g ord sc) s id

/-- An entry kept in a core's translation cache, when the device keeps them (16_contexts_translation.md R363). -/
def keepTlb (s : State) (core ctx : Nat) (ea : DWord) (x : DWord × Nat) : State :=
  if s.choices.cache && (tlbHit s core ctx ea.toNat).isNone then
    { s with tlb := s.tlb ++ [⟨core, ctx, ea.toNat / leafSize x.2 * leafSize x.2, leafSize x.2, x.1, x.2⟩] }
  else s
/-- The 128-byte lines of a core's instruction cache of 128 KiB (00_scope.md R2, Table 1).
DESIGN CHOICE (log 101). -/
def cacheLines : Nat := 1024
/-- A cache with one line more of a core: when it is full its oldest line gives way. DESIGN CHOICE (log 101). -/
def addLine (ls : List CacheLine) (x : CacheLine) : List CacheLine :=
  let mine := ls.filter (·.core == x.core)
  let ls' := if mine.length < cacheLines then ls
    else match mine with
      | o :: _ => ls.filter fun l => !(l.core == o.core && l.ctx == o.ctx && l.va == o.va)
      | [] => ls
  ls' ++ [x]
/-- A line with the two sectors of a fetch line in it. -/
def CacheLine.fill (l : CacheLine) (la : Nat) (bs : List Byte) : CacheLine :=
  if la % 128 == 0 then { l with sectors := (l.sectors.set 0 (some (bs.take 32))).set 1 (some (bs.drop 32)) }
  else { l with sectors := (l.sectors.set 2 (some (bs.take 32))).set 3 (some (bs.drop 32)) }
/-- A fetch line kept in a core's instruction cache, when the device keeps them (17_code_objects.md R384).
DESIGN CHOICE (log 101). -/
def keepLine (s : State) (core ctx : Nat) (pc : DWord) (bs : List Byte) : State :=
  let la := pc.toNat / 64 * 64
  let va := la / 128 * 128
  if s.choices.cache && (cachedLine s core ctx la).isNone then
    { s with lines :=
        if s.lines.any fun l => l.core == core && l.ctx == ctx && l.va == va then
          s.lines.map fun l => if l.core == core && l.ctx == ctx && l.va == va then l.fill la bs else l
        else addLine s.lines (CacheLine.fill ⟨core, ctx, va, Vector.replicate 4 none⟩ la bs) }
  else s

/-- The entry an access of an address reads kept, be it a leaf or one that makes the access fault (16 R363), but no poisoned
one, and the bytes of its walk charged (14 R348). -/
def keepWalk (s : State) (core ctx : Nat) (ea : DWord) : State :=
  if isWalked s ctx ea then
    let s1 := match entryFor s core ctx ea with
      | some x => keepTlb s core ctx ea x
      | none => s
    chargeAll s1 ctx (walkCost s core ctx ea)
  else s
/-- The translation of an address brought into the core's cache; a failed walk does nothing, nor does one that the
budget of this beat does not admit. DEDUCED (log 29). -/
def prefTlb (s : State) (core ctx : Nat) (ea : DWord) : State :=
  match entryAnswer ea (entryFor s core ctx ea) with
  | .ok _ => if allFit s ctx (walkCost s core ctx ea) then keepWalk s core ctx ea else s
  | .error _ => s
/-- What the fetch of a line reads, where the core keeps no copy of it. -/
def fetchCost (s : State) (core ctx : Nat) (pc : DWord) : List (Nat × Nat) :=
  let la := pc.toNat / 64 * 64
  if (cachedLine s core ctx la).isSome then []
  else
    match translate s core ctx (BitVec.ofNat 64 la) Access.none with
    | .ok pl => [(pl.loc, 64)]
    | _ => []

/-- The line at an address that a thread on a core has fetched: its walk and its bytes charged, and kept where the device
keeps them (17_code_objects.md R384). DEDUCED (log 31). -/
def keepFetch (s : State) (core ctx pri : Nat) (pc : DWord) : State :=
  let s1 := keepWalk s core ctx pc
  match fetchLine s core ctx pri pc with
  | .ok bs => chargeAll (keepLine s1 core ctx pc bs) ctx (fetchCost s core ctx pc)
  | _ => s1
/-- The line at an address brought into the core's cache; a failed fetch does nothing, nor does one that the budget of this
beat does not admit. DEDUCED (log 29). -/
def prefLine (s : State) (core ctx : Nat) (ea : DWord) : State :=
  match fetchLine s core ctx 0 ea with
  | .ok bs => if allFit s ctx (fetchCost s core ctx ea) then chargeAll (keepLine s core ctx ea bs) ctx (fetchCost s core ctx ea) else s
  | _ => s

/-- PREF (04 R120): no architectural effect and no fault of its address or registers; .i also fills 128 bytes.
DEDUCED (log 29). -/
def execPref (g : Guard) (sc : Scope) (icache : Bool) (m : MemOp) (s : State) : Out :=
  run g (.pref g sc icache m) s noCheck noCheck fun t _ =>
    let ea := memEa s t m
    let quiet := m.win || (poisonTrapOf t (memRegs m)).isSome
    let core := coreOf s.cur
    let ctx := ctxOf s t
    let s1 := if quiet then s else prefTlb s core ctx ea
    let s2 := if quiet || !icache then s1
      else prefLine (prefLine s1 core ctx (ea &&& ~~~127#64)) core ctx ((ea &&& ~~~127#64) + 64#64)
    finish (.pref g sc icache m) s2 s.cur t

end Sys2Proof.Machine
end

