-- ==== Sys2Proof/Machine/Copy.lean ====
section
/-! DEFINITION. Engine queues, their markers, and copies (03_memory_model.md R95, R96; 04_memory_instructions.md R119, R122
to R126; 14_scheduling.md R347, R348; 22_host_fabric_bringup.md R432). -/

namespace Sys2Proof.Machine

/-! Engine queues. -/

/-- A queue of a core: 0 to 3 copy, 4 m0, 5 m1, 6 sig, 7 egr (04 R108). -/
def queueAt (s : State) (core q : Nat) : List QEntry := (s.core core).queues[q % 8]'(by omega)
/-- A queue of a core, set. -/
def setQueueAt (s : State) (core q : Nat) (l : List QEntry) : State :=
  s.setCore core { s.core core with queues := (s.core core).queues.set (q % 8) l (by omega) }
/-- Whether a queue has room: 64 operations, markers included (04 R119). -/
def queueRoom (s : State) (core q : Nat) : Bool := decide ((queueAt s core q).length < 64)
/-- An entry at the tail of a queue. -/
def enqueue (s : State) (core q : Nat) (e : QEntry) : State := setQueueAt s core q (queueAt s core q ++ [e])
/-- Whether an entry is a marker. -/
def QEntry.isMarker (e : QEntry) : Bool :=
  match e.kind with
  | .marker _ => true
  | _ => false
/-- The operations ahead of the first marker of a queue: those a start may choose (04 R119). -/
def startable (s : State) (core q : Nat) : List QEntry := (queueAt s core q).takeWhile fun e => !e.isMarker
/-- The queues of a mask. -/
def maskQueues (m : Byte) : List Nat := (List.range 8).filter fun k => m.getLsbD k
/-- The markers ahead of the first operation of a queue, with their sets. -/
def headMarkers (s : State) (core q : Nat) : List (Nat × Byte) :=
  ((queueAt s core q).takeWhile (·.isMarker)).filterMap fun e =>
    match e.kind with
    | .marker m => some (e.id, m)
    | _ => none
/-- A marker that has entered every queue of its set with no operation ahead of it: its first group is performed. -/
def ripeMarker (s : State) (core : Nat) : Option (Nat × Byte) :=
  ((List.range 8).flatMap (headMarkers s core)).find? fun e => (maskQueues e.2).all fun k => (headMarkers s core k).contains e
/-- A queue without a marker. -/
def dropMarker (s : State) (core id q : Nat) : State :=
  setQueueAt s core q ((queueAt s core q).filter fun e => !(e.isMarker && e.id == id))
/-- Ripe markers leave their queues, one after another (04 R119). -/
def retireMarkers : Nat → State → Nat → State
  | 0, s, _ => s
  | n + 1, s, core =>
    match ripeMarker s core with
    | none => s
    | some (id, m) => retireMarkers n ((maskQueues m).foldl (fun s k => dropMarker s core id k) s) core
/-- Every marker that can leave does: a core holds at most 512. -/
def settleQueues (s : State) (core : Nat) : State := retireMarkers 512 s core
/-- An entry of a queue, by its number. -/
def findOp (s : State) (core q id : Nat) : Option QEntry := (queueAt s core q).find? fun e => e.id == id && !e.isMarker
/-- Whether an operation was issued by a thread of a team. -/
def QEntry.ofTeam (e : QEntry) (k : Nat) : Bool :=
  match e.kind with
  | .copy left _ => e.team == k || left.any (·.2.team == k)
  | .marker _ => false
  | .eng _ => e.team == k
/-- An entry replaced. -/
def setOp (s : State) (core q : Nat) (e : QEntry) : State :=
  setQueueAt s core q ((queueAt s core q).map fun x => if x.id == e.id && !x.isMarker then e else x)
/-- The teams whose threads issued an operation. -/
def QEntry.teams (e : QEntry) : List Nat :=
  match e.kind with
  | .copy left _ => e.team :: left.map (·.2.team)
  | .marker _ => []
  | .eng _ => [e.team]
/-- Whether a core lies in a team's rectangle. -/
def inRect (tm : Team) (core : Nat) : Bool :=
  decide (tm.x0 ≤ core % 12) && decide (core % 12 < tm.x0 + tm.w)
    && decide (tm.y0 ≤ core / 12) && decide (core / 12 < tm.y0 + tm.h)
/-- A team's engine state on a core outside its rectangle goes once no thread of it runs there and its operations there
have completed (08 R231). DEDUCED (log 107). -/
def tidyCore (s : State) (core team : Nat) : State :=
  match s.team team with
  | none => s
  | some tm =>
    if inRect tm core || (s.threads.any fun e => coreOf e.1 == core && e.2.team == team)
        || ((List.range 8).any fun q => (queueAt s core q).any fun e => e.ofTeam team) then s
    else
      let c := s.core core
      s.setCore core { c with
        binds := c.binds.filter (·.team != team)
        bufs := c.bufs.filter (·.team != team) }
/-- An entry performed: it leaves its queue, and markers it stood before, and what its teams hold outside their
rectangles, may go too. -/
def dropOp (s : State) (core q id : Nat) : State :=
  let gone := (queueAt s core q).filter fun e => !e.isMarker && e.id == id
  (gone.flatMap (·.teams)).foldl (fun s k => tidyCore s core k)
    (settleQueues (setQueueAt s core q ((queueAt s core q).filter fun e => e.isMarker || e.id != id)) core)

/-- Markers enter the queues that have room (04 R119): the state, and the queues left. -/
def enterMarkers (s : State) (core id ctx team : Nat) (mask left : Byte) : State × Byte :=
  (List.range 8).foldl (fun (a : State × Byte) k =>
    if a.2.getLsbD k && queueRoom a.1 core k then
      (enqueue a.1 core k ⟨id, ctx, team, 0, true, .marker mask, none⟩, a.2 &&& ~~~(BitVec.ofNat 8 (2 ^ k)))
    else a) (s, left)

/-- QFENCE (04 R119): a marker into each named queue; the thread stalls until every queue has accepted its own. -/
def execQfence (g : Guard) (sc : Scope) (queues : Byte) (s : State) : Out :=
  run g (.qfence g sc queues) s noCheck noCheck fun t _ =>
    let core := coreOf s.cur
    let (id, left, s0) : Nat × Byte × State :=
      match t.status with
      | .stalled (.markers id l) => (id, l, s)
      | _ => (s.serial, queues, s.bump)
    let r := enterMarkers s0 core id (ctxOf s t) t.team queues left
    if r.2 == 0#8 then finish (.qfence g sc queues) (settleQueues r.1 core) s.cur t
    else stall r.1 s.cur t (.markers id r.2)

/-! Copies. -/

/-- The source address of a copy: a pair in the g space, a register in the w space (04 R122). -/
def copySrc (t : Thread) (src : VReg) (win : Bool) : DWord :=
  if win then (t.rv src).setWidth 64 else t.rv64 src
/-- The destination of a copy: a transport window is admitted (22 R432). -/
def copyDst (s : State) (p : Nat) (t : Thread) (m : MemOp) (ea : DWord) : Chk Place :=
  if m.win then locateAt s p t true ea Access.store
  else translate s (coreOf p) (ctxOf s t) ea Access.store true t.pri
/-- The connection of a destination in a transport window (22 R432). DEDUCED (log 93). -/
def connOf (loc : Nat) : Option Nat :=
  if loc < 2 ^ 52 ∧ moduleOf loc = 4095 then some (loc / 2 ^ 28 % 4096) else none
/-- The barrier of a copy: an offset in the window (04 R122). -/
def copyBar (s : State) (t : Thread) (o : DWord) : Chk Place :=
  match teamOf s t with
  | some tm => windowAccess s tm o Access.both
  | none => .trap (mkTrap .absence 2 o)

/-- What CPY checks: three alignments, then the addresses, the worst cause first (04 R122; 19 R395). -/
def cpyChecks (s : State) (p : Nat) (t : Thread) (o : CpyOps) : Chk (List Place) :=
  let n := Legal.iwidth o.fmt / 8
  let dst := memEa s t o.m
  let src := copySrc t o.src o.swin
  let bar := (t.rv o.c).setWidth 64
  rankAll [(alignCheck dst n).bind fun _ => (alignCheck src n).bind fun _ => (alignCheck bar 16).bind fun _ =>
             copyDst s p t o.m dst,
           locateAt s p t o.swin src Access.load, copyBar s t bar]

/-- The queue a copy enters: egr in place of the one named, for a transport window (22 R432). -/
def copyQueueOf (named : BitVec 2) (conn : Option Nat) : Nat := if conn.isSome then 7 else named.toNat

/-- The budget of a copy queue for a context, in KiB, and the bytes of it used in this beat (14 R348). -/
def copyLevel (s : State) (core q ctx : Nat) : Nat × Nat :=
  if q % 8 == 7 then (egrBudget s ctx, (mget (s.core core).egrUsed ctx).getD 0)
  else (copyBudget s ctx, (mget (s.core core).copyUsed ctx).getD 0)
/-- Whether an operation of `n` bytes may start in a copy queue in this beat (14 R348). -/
def copyFits (s : State) (core q ctx n : Nat) : Bool := fits (copyLevel s core q ctx).1 (copyLevel s core q ctx).2 n
/-- Whether the budget of this beat carries an operation of `n` bytes behind `ahead` bytes that have not started (04 R125).
DEDUCED (log 92). -/
def carries (s : State) (core q ctx ahead n : Nat) : Bool :=
  fits (copyLevel s core q ctx).1 ((copyLevel s core q ctx).2 + ahead) n

/-- The bytes of a context's copies that stand in a queue and have not started: those of one budget. -/
def queuedBytes (s : State) (core q ctx : Nat) : Nat :=
  (((if q % 8 == 7 then [7] else [0, 1, 2, 3]).flatMap (queueAt s core)).map fun e =>
    if e.ctx == ctx && !e.started then e.bytes else 0).sum

/-- The promised completion time of a copy with its queues and bytes (04 R125): later than %chron, and later than the next
beat when a budget of this one cannot carry the bytes after those already queued; how much later is a free value
(log 11). -/
def promisedTime (s : State) (core ctx : Nat) (l : List (Nat × Nat)) : DWord :=
  let now := l.all fun e => carries s core e.1 ctx (queuedBytes s core e.1 ctx) e.2
  BitVec.ofNat 64 ((if now then s.chron else max s.chron s.nextBeat) + 1 + (Config.promiseDelay s.free).toNat)

/-- The issue group of a thread's instruction: the cycle and the bank it issued in (12_execution_model.md R277), also of
one that has waited for room since. DEDUCED (log 92). -/
def issueKey (s : State) (p : Nat) (t : Thread) : Nat :=
  match t.status with
  | .stalled (.room _ k) => k
  | _ => 4 * s.cycle + bankOf p

/-- A thread's elements, numbered, as an entry holds them. -/
def asElems (l : List CopyElem) : List (Nat × CopyElem) := (l.zipIdx).map fun x => (x.2, x.1)

/-- A copy enters its queue and its thread goes on with the promised time; a full queue stalls it (04 R122, R125).
DEDUCED (log 92). -/
def enterCopy (i : Instr) (s : State) (t : Thread) (vt : VReg) (q n : Nat) (time : DWord) (l : List CopyElem)
    (line : Option Nat) : State :=
  let core := coreOf s.cur
  if queueRoom s core q then
    let e : QEntry := ⟨s.serial, ctxOf s t, t.team, n, false, .copy (asElems l) none, line.map (·, time)⟩
    finish i (State.bump { enqueue s core q e with free := s.free + 1 }) s.cur (t.setV64 vt time)
  else stall s s.cur t (.room q (issueKey s s.cur t))

/-- Whether an element belongs to a line operation: it issued in the same group, and the operation, not started, copies
between the same two lines (04 R124). DEDUCED (log 92). -/
def sameLine (key : Nat) (x : CopyElem) (e : QEntry) : Bool :=
  match e.kind, e.line with
  | .copy ((_, h) :: _) _, some (k, _) => k == key && !e.started && h.dst / 128 == x.dst / 128 && h.src / 128 == x.src / 128
  | _, _ => false
/-- An operation with one element more. -/
def QEntry.join (e : QEntry) (x : CopyElem) : QEntry :=
  match e.kind with
  | .copy l pk => { e with bytes := e.bytes + x.n, kind := .copy (l ++ [(l.length, x)]) pk }
  | _ => e
/-- The operations behind the last marker of a queue: those an operation that enters now stands with (04 R119). -/
def sinceMarker (s : State) (core q : Nat) : List QEntry :=
  ((queueAt s core q).reverse.takeWhile fun e => !e.isMarker).reverse
/-- Whether an operation with an element more still keeps the time promised to it: the budget of this beat carries it, or the
time lies past the next beat (04 R125). DEDUCED (log 92). -/
def keepsTime (s : State) (core q : Nat) (e : QEntry) (x : CopyElem) : Bool :=
  carries s core q e.ctx (queuedBytes s core q e.ctx - e.bytes) (e.bytes + x.n)
    || decide (s.nextBeat < ((e.line.map (·.2)).getD 0#64).toNat)
/-- An element of CPY joins the line operation of its issue group, which has its promised time, or enters its queue as a
new one. The time of a new one has room for the 32 elements that its group may bring (04 R124, R125).
DEDUCED (log 92). -/
def enterElem (i : Instr) (s : State) (t : Thread) (vt : VReg) (q : Nat) (x : CopyElem) : State :=
  let core := coreOf s.cur
  let key := issueKey s s.cur t
  match (sinceMarker s core q).find? fun e => sameLine key x e && keepsTime s core q e x with
  | some e => finish i (setOp s core q (e.join x)) s.cur (t.setV64 vt ((e.line.map (·.2)).getD 0#64))
  | none => enterCopy i s t vt q x.n (promisedTime s core (ctxOf s t) [(q, 32 * x.n)]) [x] (some key)

/-- CPY (04 R122). -/
def execCpy (g : Guard) (la : BitVec 4) (o : CpyOps) (s : State) : Out :=
  let i : Instr := .cpy g la o
  run g i s noCheck (fun t => cpyChecks s s.cur t o) fun t l =>
    match l with
    | [d, c, b] =>
      let n := Legal.iwidth o.fmt / 8
      enterElem i (keepHost s [(d.loc, n), (c.loc, n)]) t o.d (copyQueueOf o.queue (connOf d.loc))
        ⟨d.loc, c.loc, n, some b.loc, false, connOf d.loc, false, t.team, false, d.key (ctxOf s t),
          c.key (ctxOf s t)⟩
    | _ => s

/-- The rectangle of CPYS (04 R126, Table 5). -/
structure Rect where
  rowBytes : Nat
  rows     : Nat
  srcStep  : DWord
  dstStep  : DWord
  bar      : DWord
  deriving DecidableEq, Repr

/-- The descriptor in a quad. -/
def rectOf (t : Thread) (c : VReg) : Rect :=
  { rowBytes := field (t.rv c) 0 16
    rows := field (t.rv c) 16 16
    srcStep := (t.rv (c + 1#7)).signExtend 64
    dstStep := (t.rv (c + 2#7)).signExtend 64
    bar := (t.rv (c + 3#7)).setWidth 64 }

/-- An alignment fault of CPYS on a descriptor field (04 R126). -/
def rectTrap (k : Nat) (v : DWord) : Trap := mkTrap .alignment 0 0#64 32#64 (BitVec.ofNat 64 k) v

/-- The alignment tests of CPYS in their order (04 R126). -/
def rectAlign (dst src : DWord) (r : Rect) : Chk Unit :=
  (alignCheck dst 32).bind fun _ => (alignCheck src 32).bind fun _ => (alignCheck r.bar 16).bind fun _ =>
    if r.rowBytes == 0 || r.rowBytes % 32 != 0 then .trap (rectTrap 1 (BitVec.ofNat 64 r.rowBytes))
    else if r.srcStep.toNat % 32 != 0 then .trap (rectTrap 2 r.srcStep)
    else if r.dstStep.toNat % 32 != 0 then .trap (rectTrap 3 r.dstStep)
    else .ok ()

/-- The addresses of a rectangle's sectors, row by row; in the w space modulo 2^32 (01 R27). -/
def sectorAddrs (base step : DWord) (win : Bool) (r : Rect) : List DWord :=
  (List.range r.rows).flatMap fun i => (List.range (r.rowBytes / 32)).map fun j =>
    let a := base + BitVec.ofNat 64 i * step + BitVec.ofNat 64 (32 * j)
    if win then (lo32 a).setWidth 64 else a

/-- What CPYS checks (04 R126): the alignments, then every page the rectangle touches. -/
def cpysChecks (s : State) (p : Nat) (t : Thread) (o : CpysOps) : Chk (List Place × List Place × Nat) :=
  let r := rectOf t o.c
  let dst := memEa s t o.m
  let src := t.rv64 o.src
  (rectAlign dst src r).bind fun _ =>
    let ds := (sectorAddrs dst r.dstStep o.m.win r).map fun a => copyDst s p t o.m a
    let ss := (sectorAddrs src r.srcStep false r).map fun a => locateAt s p t false a Access.load
    (rankAll (ds ++ ss ++ [copyBar s t r.bar])).bind fun l =>
      .ok (l.take ds.length, (l.drop ds.length).take ss.length, ((l.drop (ds.length + ss.length)).head?.map (·.loc)).getD 0)

/-- The bytes a copy reads and writes, its barrier among them, where its checks pass. -/
def copyBytes (s : State) (p : Nat) (t : Thread) : Instr → List (Nat × Nat)
  | .cpy _ _ o =>
    match cpyChecks s p t o with
    | .ok [d, c, b] => [(d.loc, Legal.iwidth o.fmt / 8), (c.loc, Legal.iwidth o.fmt / 8), (b.loc, 16)]
    | _ => []
  | .cpys _ _ o =>
    match cpysChecks s p t o with
    | .ok x => (x.1 ++ x.2.1).map (fun e => (e.loc, 32)) ++ [(x.2.2, 16)]
    | _ => []
  | _ => []

/-- A copy whose sectors go partly to transport windows enters two queues, when both have room (22 R432).
DEDUCED (log 92). -/
def enterBoth (i : Instr) (s : State) (t : Thread) (vt : VReg) (q : Nat) (here away : List CopyElem) : State :=
  let core := coreOf s.cur
  if !queueRoom s core 7 then stall s s.cur t (.room 7 (issueKey s s.cur t))
  else if !queueRoom s core q then stall s s.cur t (.room q (issueKey s s.cur t))
  else
    let e : QEntry := ⟨s.serial, ctxOf s t, t.team, 32 * away.length, false, .copy (asElems away) none, none⟩
    let time := promisedTime s core (ctxOf s t) [(q, 32 * here.length), (7, 32 * away.length)]
    enterCopy i (State.bump (enqueue s core 7 e)) t vt q (32 * here.length) time here none
/-- A copy whose sectors go to one queue. -/
def enterOne (i : Instr) (s : State) (t : Thread) (vt : VReg) (q : Nat) (l : List CopyElem) : State :=
  enterCopy i s t vt q (32 * l.length) (promisedTime s (coreOf s.cur) (ctxOf s t) [(q, 32 * l.length)]) l none

/-- CPYS (04 R126): the sectors toward transport windows enter queue egr (22 R432). -/
def execCpys (g : Guard) (la : BitVec 4) (o : CpysOps) (s : State) : Out :=
  let i : Instr := .cpys g la o
  run g i s noCheck (fun t => cpysChecks s s.cur t o) fun t x =>
    let s := keepHost s ((x.1 ++ x.2.1).map fun e => (e.loc, 32))
    let l := (x.1.zip x.2.1).map fun e =>
      CopyElem.mk e.1.loc e.2.loc 32 (some x.2.2) false (connOf e.1.loc) false t.team false (e.1.key (ctxOf s t))
        (e.2.key (ctxOf s t))
    let away := l.filter (·.conn.isSome)
    let here := l.filter (·.conn.isNone)
    if away.isEmpty then enterOne i s t o.d o.queue.toNat l
    else if here.isEmpty then enterOne i s t o.d 7 l
    else enterBoth i s t o.d o.queue.toNat here away

/-! The engine's side. -/

/-- Where an element's source and destination lie; those of a packet's sector as its context translates them now. -/
def elemPlaces (s : State) (core ctx : Nat) (x : CopyElem) : List Nat :=
  if x.late then
    [x.src, x.dst].filterMap fun va =>
      match translate s core ctx (BitVec.ofNat 64 va) Access.none false 1 with
      | .ok pl => some pl.loc
      | _ => none
  else [x.src, x.dst]
/-- What the walks cost of the pages that sectors of a packet's copy lie in. -/
def lateWalks (s : State) (core ctx : Nat) (l : List (Nat × CopyElem)) : List (Nat × Nat) :=
  ((l.flatMap fun e => if e.2.late then [e.2.src / 32768, e.2.dst / 32768] else []).eraseDups).flatMap fun k =>
    walkCost s core ctx (BitVec.ofNat 64 (32768 * k))
/-- The DRAM bytes of an operation, by channel. DEDUCED (log 91). -/
def copyChannels (s : State) (core ctx : Nat) (l : List (Nat × CopyElem)) : Map Nat :=
  (lateWalks s core ctx l).foldl (fun m e => addChannel s m e.1 e.2)
    (l.foldl (fun m e => (elemPlaces s core ctx e.2).foldl (fun m a => addChannel s m a e.2.n) m) [])
/-- An operation's bytes charged to its context's budgets (14 R348). -/
def chargeCopy (s : State) (core q ctx n : Nat) (m : Map Nat) : State :=
  let s1 := s.setCtx ctx { s.ctx ctx with used := m.foldl (fun u e => addTo u e.1 e.2) (s.ctx ctx).used }
  let c := s1.core core
  s1.setCore core (if q % 8 == 7 then { c with egrUsed := addTo c.egrUsed ctx n }
                   else { c with copyUsed := addTo c.copyUsed ctx n })
/-- Whether a core's account covers a debit for a context's work (14 R347): the account is that of the context whose
partition holds the core, and no other context's work is debited (16 R357). -/
def covers (s : State) (core ctx n : Nat) : Bool := !inPartition s ctx core || decide (n ≤ (s.core core).energy)
/-- A debit made. -/
def debit (s : State) (core ctx n : Nat) : State :=
  if inPartition s ctx core then s.setCore core { s.core core with energy := (s.core core).energy - n } else s

/-- Whether a connection of the transport table is valid (22 R432). -/
def connValid (s : State) (k : Nat) : Bool := ((mget s.transport k).getD 0#256).getLsbD 159
/-- The transport-failed record of a sector (22 R432; 19 R401, Table 5). -/
def transportRecord (s : State) (ctx : Nat) (e : CopyElem) : State :=
  deviceRecord s unitEthernet ctx 2 25 0 e.dst (e.conn.getD 0) 0 0

/-- An operation with some of its elements left: it leaves its queue when none is, and what the teams of the others hold
outside their rectangles may go. -/
def leaveElems (s : State) (core q : Nat) (e : QEntry) (left left' : List (Nat × CopyElem)) (pk : Option Nat) : State :=
  let s1 := if left'.isEmpty then dropOp s core q e.id else setOp s core q { e with kind := .copy left' pk }
  (left.map (·.2.team)).foldl (fun s k => tidyCore s core k) s1
/-- An element taken from its operation, which leaves its queue with the last one. -/
def takeElem (s : State) (core q : Nat) (e : QEntry) (left : List (Nat × CopyElem)) (pk : Option Nat) (k : Nat) : State :=
  leaveElems s core q e left (left.filter fun x => x.1 != k) pk

/-- Whether two elements of an operation go together: their destinations and their sources share lines (04 R124); sectors
of a packet's copy lie in one 128 bytes of it (14 R347, Table 13). -/
def together (h x : Nat × CopyElem) : Bool :=
  if h.2.late then x.1 / 4 == h.1 / 4 else x.2.dst / 128 == h.2.dst / 128 && x.2.src / 128 == h.2.src / 128
/-- Elements of a line operation: those not going that go with the first of them. -/
def lineOf (left : List (Nat × CopyElem)) : List Nat :=
  match left.find? fun x => !x.2.going with
  | none => []
  | some h => (left.filter fun x => !x.2.going && together h x).map (·.1)

/-- The elements of an operation on their way over connections that satisfy a test dropped, each with its record
(22 R432). DEDUCED (log 93). -/
def dropSectors (s : State) (core q : Nat) (e : QEntry) (left : List (Nat × CopyElem)) (pk : Option Nat)
    (bad : Nat → Bool) : State :=
  let hit (x : Nat × CopyElem) : Bool := x.2.going && (x.2.conn.map bad).getD false
  if left.any hit then
    leaveElems ((left.filter hit).foldl (fun s x => transportRecord s e.ctx x.2) s) core q e left
      (left.filter fun x => !hit x) pk
  else s
/-- The sectors of a connection dropped on every core (22 R432). DEDUCED (log 93). -/
def failConn (s : State) (k : Nat) : State :=
  (List.range 144).foldl (fun s core => (queueAt s core 7).foldl (fun s e =>
    match e.kind with
    | .copy left pk => dropSectors s core 7 e left pk (· == k)
    | _ => s) s) s

/-- The first operation of a queue with a line to start. -/
def nextCopy (s : State) (core q : Nat) : Option (QEntry × List (Nat × CopyElem) × Option Nat) :=
  ((startable s core q).filterMap fun e =>
    match e.kind with
    | .copy left pk => if !e.started || left.any (fun x => !x.2.going) then some (e, left, pk) else none
    | _ => none).head?

/-- Whether the next line of a queue may start now (14 R347, R348). DEDUCED (log 92). -/
def copyMayStart (s : State) (core q : Nat) : Bool :=
  match nextCopy s core q with
  | none => false
  | some (e, left, _) =>
    (e.started || (copyFits s core q e.ctx e.bytes && channelsFit s e.ctx (copyChannels s core e.ctx left)))
      && (left.isEmpty || covers s core e.ctx 2)

/-- COPY_OPERATION_START: a queue's next operation is charged its bytes, and its next line operation its energy; then
the line's elements are on their way. Nothing happens while a budget or the account does not cover it.
DEDUCED (log 92). -/
def execCopyOperationStart (core q : Nat) (s : State) : Out :=
  if !copyMayStart s core q then .next s
  else
    match nextCopy s core q with
    | none => .next s
    | some (e, left, pk) =>
      let s1 := if e.started then s else chargeCopy s core q e.ctx e.bytes (copyChannels s core e.ctx left)
      if left.isEmpty then .next (dropOp s1 core q e.id)
      else
        let line := lineOf left
        let left' := left.map fun x => if line.contains x.1 then (x.1, { x.2 with going := true }) else x
        let e' := { e with started := true, kind := .copy left' pk }
        .next (dropSectors (setOp (debit s1 core e.ctx 2) core q e') core q e' left' pk fun k => !connValid s k)

/-- The pieces of `n` bytes in which poison travels: 16-byte halves, or one element (19 R398). -/
def unitsOf (n : Nat) : List (Nat × Nat) :=
  if n ≤ 16 then [(0, n)] else (List.range (n / 16)).map fun k => (16 * k, 16)

/-- An element's bytes read and written in one step, in which 03 R94 lets its units take any order; poison is carried
(04 R123). DEDUCED (log 58). -/
def moveBytes (s : State) (ctx dst src n : Nat) : State :=
  let data := (unitsOf n).map fun u => (u.1, loadP s (src + u.1) u.2)
  data.foldl (fun s x => store s ctx (dst + x.1) x.2.1 x.2.2) s

/-- The landing of an element whose write is performed: its barrier counted (04 R123). -/
def countLanding (s : State) (ctx : Nat) (e : CopyElem) : State :=
  match e.bar with
  | some b => barLand (chargeDram s ctx b 16) ctx b
  | none => s
/-- An element lands: its write performed and its barrier counted; a write toward an unreachable module is dropped with
its record and does not count (04 R123; 22 R430, R431). -/
def landElem (s : State) (ctx : Nat) (e : CopyElem) : State :=
  if isLost s e.dst then lostRecord s ctx e.dst else countLanding (moveBytes s ctx e.dst e.src e.n) ctx e

/-- An element's data put on the mesh toward another die, as units under its core's die vector (03 R94, R96): each
16-byte half with its poison; the element lands when the last unit is performed. -/
def sendElem (s : State) (core q op k ctx die : Nat) (e : CopyElem) : State :=
  (unitsOf e.n).foldl (fun a u =>
    let d := loadP s (e.src + u.1) u.2
    meshPut a ctx none (some (core, q, op, k)) (some e.dkey) (dieOf core) die (e.dst + u.1) d.1 d.2) s
/-- An entry's element marked sent. -/
def markSent (s : State) (core q : Nat) (e : QEntry) (left : List (Nat × CopyElem)) (pk : Option Nat) (k : Nat)
    (x : CopyElem) : State :=
  setOp s core q { e with kind := .copy (left.map fun y => if y.1 == k then (k, { x with sent := true }) else y) pk }
/-- Whether an element's two accesses still pass the owner's check (16 R365, R369). DESIGN CHOICE (log 109). -/
def elemAllowed (s : State) (x : CopyElem) : Bool := mayStill s x.dkey x.dst && mayStill s x.skey x.src
/-- The permission fault of an access located before, under a key slot, that its owner refuses as it is performed: a device
record of the unit that made it (16 R361, R365, R369; 19 R397). DESIGN CHOICE (log 109). -/
def refuseAt (s : State) (unit ctx key loc : Nat) : State :=
  deviceRecord s unit ctx 2 7 (if keyReady s key loc then 4 else 8) loc 0 0 0
/-- The record of an element that its owners refuse: of its destination, else of its source.
DESIGN CHOICE (log 109). -/
def refuseElem (s : State) (core ctx : Nat) (x : CopyElem) : State :=
  if mayStill s x.dkey x.dst then refuseAt s (unitCopy core) ctx x.skey x.src else refuseAt s (unitCopy core) ctx x.dkey x.dst
/-- An element on its way, at its owner's die or beyond the module: performed and taken from its operation; toward another
die of the mesh it is sent. One whose frame has been released since is not performed but faults, and its barrier does not
count it (16 R369). DEDUCED (log 41). DESIGN CHOICE (log 109). -/
def performElem (s : State) (core q : Nat) (e : QEntry) (left : List (Nat × CopyElem)) (pk : Option Nat) (k : Nat)
    (x : CopyElem) : State :=
  if !elemAllowed s x then takeElem (refuseElem s core e.ctx x) core q e left pk k
  else
  match meshDie s core x.dst with
  | none => takeElem (landElem s e.ctx x) core q e left pk k
  | some d => markSent (sendElem s core q e.id k e.ctx d x) core q e left pk k x
/-- Whether a write from a core waits for room in the causal buffer of its owner's die (03 R97).
DEDUCED (log 41). DESIGN CHOICE (log 100). -/
def sendHeld (s : State) (core loc : Nat) : Bool :=
  match meshDie s core loc with
  | some d => bufferFull s d
  | none => false
/-- Whether an operation is the first of its queue: operations of one queue are performed in issue order (03 R86,
note 4). -/
def isFirst (s : State) (core q : Nat) (e : QEntry) : Bool := (queueAt s core q).head?.map (·.id) == some e.id

/-- A packet's status set, if none is yet (14 R332). -/
def failPacket (s : State) (k status : Nat) : State :=
  match s.packet k with
  | some p => s.setPacket k { p with status := if p.status == 0 then status else p.status }
  | none => s
/-- Whether an entry is a copy of a packet. -/
def QEntry.ofPacket (e : QEntry) (k : Nat) : Bool :=
  match e.kind with
  | .copy _ pk => pk == some k
  | _ => false
/-- Every element of a packet's copy taken from queue c3 of every core: a fault stops it (14 R332). -/
def stopPacketCopies (s : State) (k : Nat) : State :=
  (List.range 144).foldl (fun s core =>
    settleQueues (setQueueAt s core 3 ((queueAt s core 3).filter fun e => !e.ofPacket k)) core) s

/-- A packet's sector is performed: its addresses are translated in the queue's context as it is (14 R332). -/
def landLate (s : State) (core q : Nat) (e : QEntry) (left : List (Nat × CopyElem)) (k n : Nat) (x : CopyElem) : State :=
  match rankAll [translate s core e.ctx (BitVec.ofNat 64 x.dst) Access.store false 1,
                 translate s core e.ctx (BitVec.ofNat 64 x.src) Access.load false 1] with
  | .ok [d, c] =>
    if sendHeld s core d.loc then s
    else performElem (keepHost s [(d.loc, 32), (c.loc, 32)]) core q e left (some k) n { x with
      dst := d.loc, src := c.loc, dkey := d.key e.ctx, skey := c.key e.ctx }
  | .stall _ => s
  | _ => stopPacketCopies (failPacket s k 6) k

/-- COPY_LANDING: an element on its way is performed and lands (04 R123). A transport sector lands at its
acknowledgement instead (22 R432). DEDUCED (log 41). -/
def execCopyLanding (core q op sector : Nat) (s : State) : Out :=
  match findOp s core q op with
  | some e =>
    match e.kind with
    | .copy left pk =>
      match left.find? fun x => x.1 == sector && x.2.going && !x.2.sent && x.2.conn.isNone with
      | some (_, x) =>
        if !isFirst s core q e then .next s
        else if x.late then
          match pk with
          | some k => .next (landLate s core q e left k sector x)
          | none => .next s
        else if sendHeld s core x.dst then .next s
        else .next (performElem s core q e left pk sector x)
      | none => .next s
    | _ => .next s
  | none => .next s

/-- Whether a sector is the first of its connection still on its way: sectors are delivered in order (22 R432). -/
def firstOfConn (s : State) (core op sector : Nat) (conn : Option Nat) : Bool :=
  (((queueAt s core 7).flatMap fun e =>
    match e.kind with
    | .copy left _ => (left.filter fun x => x.2.going && x.2.conn == conn).map fun x => (e.id, x.1)
    | _ => []).head?) == some (op, sector)

/-- TRANSPORT_ACK: the remote module has performed a sector at .sys, and it lands; a connection that is no longer valid
drops its sectors instead (22 R432). The bytes delivered stand at the window's address. DEDUCED (log 93). -/
def execTransportAck (core op sector : Nat) (s : State) : Out :=
  match findOp s core 7 op with
  | some e =>
    match e.kind with
    | .copy left pk =>
      match left.find? fun x => x.1 == sector && x.2.going && x.2.conn.isSome with
      | some (_, x) =>
        if !connValid s (x.conn.getD 0) then .next (failConn s (x.conn.getD 0))
        else if isFirst s core 7 e && firstOfConn s core op sector x.conn then
          .next (takeElem (if elemAllowed s x then landElem s e.ctx x else refuseElem s core e.ctx x) core 7 e left pk sector)
        else .next s
      | none => .next s
    | _ => .next s
  | none => .next s

/-- TRANSPORT_FAILED: the connection of a sector has failed and drops its sectors, each with its record; their barriers do
not count them (22 R432). DEDUCED (log 93). -/
def execTransportFailed (core op sector : Nat) (s : State) : Out :=
  match findOp s core 7 op with
  | some e =>
    match e.kind with
    | .copy left _ =>
      match left.find? fun x => x.1 == sector && x.2.going && x.2.conn.isSome with
      | some (_, x) => .next (failConn s (x.conn.getD 0))
      | none => .next s
    | _ => .next s
  | none => .next s

end Sys2Proof.Machine
end

