-- ==== Sys2Proof/Machine/Group.lean ====
section
/-! DEFINITION. The rendezvous of a bound group or of a BIND block (07_compute_instructions.md R217; 08_matrix_engine.md
R233, R234; 13_thread_instructions.md R310, R311): one instruction performed once for all its members. -/

namespace Sys2Proof.Machine

/-- The word of the instruction a thread stands at, if its line can be fetched: two parcels, and the instruction. -/
def peek (s : State) (p : Nat) (t : Thread) : Option (Word × Word × Instr) :=
  match fetchLine s (coreOf p) (ctxOf s t) t.pri t.pc with
  | .ok line =>
    let k := field t.pc 0 6 / 4
    let p0 := parcelAt line k
    let p1 := parcelAt line (k + 1)
    some (p0, p1, decodeAt k p0 p1 (parcelAt line (k + 2)))
  | _ => none

/-- The guard of a word (02_encoding.md R48, R49). -/
def wordGuard (p0 p1 : Word) : Guard := if p0.getLsbD 0 then Decode.guard64 p1 else Decode.guard32 p0

/-- Whether the instruction a thread stands at is active in it. -/
def peekActive (s : State) (p : Nat) (t : Thread) : Bool :=
  match peek s p t with
  | some (p0, p1, _) => active (wordGuard p0 p1) t
  | none => true

/-- The lane mask of places of one bank (19_faults_traps_preemption.md R395, Table 1). -/
def laneMask (ps : List Nat) : DWord := BitVec.ofNat 64 (ps.foldl (fun a p => a ||| 2 ^ (laneOf p % 32)) 0)

/-- The members of a thread's bound group, by position; none when it is not bound. -/
def groupMembers (s : State) (t : Thread) : Option (List Nat) :=
  match t.group with
  | none => none
  | some k => (s.group k).map (·.members)

/-- The position of a place among members. -/
def positionIn (l : List Nat) (p : Nat) : Nat := l.findIdx (· == p)

/-- The illegal-convergence trap with its subcause and lane mask. -/
def convTrap (sub : Nat) (i : Instr) (ps : List Nat) : Trap := mkTrap .illegalConvergence sub 0#64 (wordInfo i) (laneMask ps)

/-- Whether a thread waits at a rendezvous, or has arrived there last and waits for what its group's instruction needs. A
thread stalled at an instruction of its own has not arrived (07 R217). -/
def waitsAt (t : Thread) : Bool :=
  match t.status with
  | .stalled .meet | .stalled (.groupRoom _) | .stalled .slot | .stalled (.metadata _) => true
  | _ => false

/-- Whether every member beside `cur` waits. -/
def allWait (s : State) (cur : Nat) (ps : List Nat) : Bool :=
  ps.all fun p => p == cur || ((s.thr p).map waitsAt).getD false

/-- Whether the members stand at one address. -/
def sameAddress (s : State) (ps : List Nat) : Bool :=
  match ps.map fun p => (s.thr p).map (·.pc) with
  | [] => true
  | a :: r => r.all (· == a)

/-- A function applied to the thread of each place. -/
def onMembers (s : State) (ps : List Nat) (f : State → Nat → Thread → State) : State :=
  ps.foldl (fun s p => match s.thr p with | some t => f s p t | none => s) s

/-- Members at differing addresses (07 R217; 13 R310): each takes the trap with its own word; when `guarded`, only an
active one, and the others go on. DEDUCED (log 62). -/
def differentAddresses (s : State) (ps : List Nat) (guarded : Bool) : State :=
  onMembers s ps fun s p t =>
    match peek s p t with
    | some (p0, p1, i) =>
      if !guarded || active (wordGuard p0 p1) t then takeTrap s p t (convTrap 2 i ps) else skip i s p t
    | none => takeTrap s p t (mkTrap .illegalConvergence 2 0#64 0#64 (laneMask ps))

/-- Each active member takes a trap, and the others go on (08 R233; 13 R310, R311). -/
def trapActive (i : Instr) (g : Guard) (s : State) (ps : List Nat) (tr : Trap) : State :=
  onMembers s ps fun s p t => if active g t then takeTrap s p t tr else skip i s p t

/-- Every member goes on: the instruction is performed in the active ones. -/
def proceedAll (i : Instr) (g : Guard) (s : State) (ps : List Nat) : State :=
  onMembers s ps fun s p t => if active g t then finish i s p t else skip i s p t

/-- A member waits at its rendezvous. -/
def meet (s : State) (p : Nat) : State :=
  match s.thr p with
  | some t => stall s p t .meet
  | none => s

/-- What performing a group instruction answers: done, a trap in position 0, or a stall of the group. -/
inductive GroupRes where
  | done (s : State)
  | lead (t : Trap)
  | wait (w : Stall)
  deriving DecidableEq, Repr

/-- The registers a member's own checks are about: for an engine instruction those of position 0 and the per-lane
operands, for a cross-lane instruction its own (07 R217; 08 R234). Of READL only the active member of least position,
`least`, reads vb (07 R219). -/
def memberReads (engine : Bool) (i : Instr) (pos : Nat) (least : Bool) : List Nat :=
  if engine then (if pos == 0 then vreads i else []) ++ laneReads i
  else
    match i with
    | .readl _ _ o => if least then vreads i else regs o.a (nregs (Legal.iwidth o.fmt))
    | _ => vreads i

/-- The trap an answer is, if it is one. -/
def Chk.toTrap {α : Type} : Chk α → Option Trap
  | .trap t => some t
  | _ => none
/-- The stall an answer is, if it is one. -/
def Chk.toStall {α : Type} : Chk α → Option Stall
  | .stall w => some w
  | _ => none

/-- The traps of the active members of a group (08 R234; 07 R217): in position 0 those of the instruction as a whole,
which come before poison, and in each member the poison of the registers it reads. -/
def memberTraps (engine : Bool) (i : Instr) (g : Guard) (s : State) (ps : List Nat) (lead : Chk Unit) :
    List (Nat × Trap) :=
  let least := ps.find? fun p => ((s.thr p).map (active g)).getD false
  (ps.zipIdx).filterMap fun e =>
    match s.thr e.1 with
    | some t =>
      if active g t then
        ((if e.2 == 0 then lead.toTrap else none).or
          (poisonTrapOf t (memberReads engine i e.2 (least == some e.1)))).map (e.1, ·)
      else none
    | none => none

/-- The role traps of the active members (12_execution_model.md R282). -/
def memberRoles (i : Instr) (g : Guard) (s : State) (ps : List Nat) : List (Nat × Trap) :=
  ps.filterMap fun p =>
    match s.thr p with
    | some t => if active g t then (roleTrap s t i).map (p, ·) else none
    | none => none

/-- Members take their traps, and the one that arrived last waits if it is not among them. -/
def trapMembers (s : State) (cur : Nat) (l : List (Nat × Trap)) : State :=
  let s' := if l.any (·.1 == cur) then s else meet s cur
  l.foldl (fun s e => match s.thr e.1 with | some t => takeTrap s e.1 t e.2 | none => s) s'

/-- The member that arrived last waits for a reason of its group's; for a page request position 0 does, whose address it
is (08 R234; 22 R424). -/
def stallCur (s : State) (ps : List Nat) (w : Stall) : State :=
  let stallAt (s : State) (p : Nat) : State := match s.thr p with | some t => stall s p t w | none => s
  match w with
  | .page .. => stallAt (meet s s.cur) (ps.headD s.cur)
  | _ => stallAt s s.cur

/-- The instruction once all members stand at it and its shape is right: role, the checks of the whole in position 0
and the members' own, then its effect. -/
def performGroup (engine : Bool) (i : Instr) (g : Guard) (s : State) (ps : List Nat)
    (perform : State → List Nat → GroupRes) (lead : Chk Unit) : State :=
  if !(memberRoles i g s ps).isEmpty then trapMembers s s.cur (memberRoles i g s ps)
  else
    match lead.toStall with
    | some w => stallCur s ps w
    | none =>
      if !(memberTraps engine i g s ps lead).isEmpty then trapMembers s s.cur (memberTraps engine i g s ps lead)
      else
        match perform s ps with
        | .done s' => proceedAll i g s' ps
        | .lead tr => trapMembers s s.cur ((ps.take 1).map (·, tr))
        | .wait w => stallCur s ps w

/-- How many members are active. -/
def activeCount (g : Guard) (s : State) (ps : List Nat) : Nat :=
  (ps.filter fun p => ((s.thr p).map (active g)).getD false).length

/-- Whether places are the 32 lanes of one bank (08 R233; 07 R214). -/
def fullBank (ps : List Nat) : Bool := ps.length == 32

/-- What a bound thread that arrives at a group instruction does: wait, trap or perform (07 R217; 08 R233).
BXQ, for which no rule names a rendezvous, is held at this one too (07 R214). `whole`: 32 members with every guard true
are required. DEDUCED (log 62). -/
def arrive (engine whole : Bool) (i : Instr) (g : Guard) (s : State) (ps : List Nat)
    (perform : State → List Nat → GroupRes) (lead : State → List Nat → Chk Unit) : State :=
  if !allWait s s.cur ps then meet s s.cur
  else if !sameAddress s ps then differentAddresses s ps false
  else if activeCount g s ps == 0 then proceedAll i g s ps
  else if whole && !fullBank ps then trapActive i g s ps (convTrap 0 i ps)
  else if whole && activeCount g s ps != ps.length then trapActive i g s ps (convTrap 1 i ps)
  else performGroup engine i g s ps perform (lead s ps)

/-- EVERY GROUP INSTRUCTION IS EXECUTED SO in the thread at `s.cur`: unbound, it traps when active, for the allotment of
the registers the word names (12 R283) before the missing group; bound, it makes the allotment check of its own registers
and meets the other members. -/
def runGroup (engine whole : Bool) (g : Guard) (i : Instr) (s : State) (perform : State → List Nat → GroupRes)
    (lead : State → List Nat → Chk Unit := fun _ _ => .ok ()) : Out :=
  match s.thr s.cur with
  | none => .fault (.noThread s.cur)
  | some t =>
    match groupMembers s t with
    | none =>
      if active g t then
        match allotTrapOf i t (vreads i ++ laneReads i ++ vwrites i ++ vnamed i) with
        | some tr => .next (takeTrap s s.cur t tr)
        | none => .next (takeTrap s s.cur t (convTrap 0 i []))
      else .next (skip i s s.cur t)
    | some ps =>
      let mine := memberReads engine i (positionIn ps s.cur) true ++ (if engine then [] else vwrites i)
      match if active g t then allotTrapOf i t mine else none with
      | some tr => .next (takeTrap s s.cur t tr)
      | none => .next (arrive engine whole i g s ps perform lead)

end Sys2Proof.Machine
end

