-- ==== Sys2Proof/Machine/Engine.lean ====
section
/-! DEFINITION. What the matrix and signature instructions share: slots, tiles, acceptance, tokens, and the start and
end of an operation (08_matrix_engine.md R228 to R240, R248, R249; 09_signature_stage.md R257, R258). -/

namespace Sys2Proof.Machine

open Sys2Proof.Legal (fwidth)

/-! Blocks of the operand memory and the accumulator store. -/

/-- Bytes written from `a` up in one piece: what was there goes, and no zero is listed. -/
def memBlock (m : Memory) (a : Nat) (bs : List Byte) : Memory :=
  (m.filter fun c => decide (c.1 < a)) ++
  ((bs.zipIdx a).filterMap fun e => if e.1 == 0#8 then none else some (e.2, e.1)) ++
  (m.filter fun c => decide (a + bs.length ≤ c.1))
/-- A list cut into pieces of `n`. -/
def chunks {α : Type} (n : Nat) : Nat → List α → List (List α)
  | 0, _ => []
  | k + 1, l => if l.isEmpty then [] else l.take n :: chunks n k (l.drop n)
/-- Marks set or cleared for a list of lines. -/
def markLines (ps : List Nat) (ids : List Nat) (p : Bool) : List Nat :=
  if p then ids.foldl setAdd ps else ps.filter fun k => !ids.contains k

/-! Slots (08 R228, R229). -/

/-- The physical slot a team's name is bound to on a core. -/
def slotOf? (s : State) (core team name : Nat) : Option Nat :=
  ((s.core core).binds.find? fun b => b.team == team && b.name == name).map (·.phys)
/-- Line r of a physical slot. -/
def slotLine (s : State) (core phys r : Nat) : List Byte := memRead (s.core core).slots (phys * 8192 + 256 * r) 256
/-- Whether line r is poisoned. -/
def linePoisoned (s : State) (core phys r : Nat) : Bool := (s.core core).slotP.contains (phys * 32 + r)
/-- Line r of a physical slot written. -/
def setSlotLine (s : State) (core phys r : Nat) (bs : List Byte) (p : Bool) : State :=
  let c := s.core core
  s.setCore core { c with slots := memBlock c.slots (phys * 8192 + 256 * r) bs, slotP := markLines c.slotP [phys * 32 + r] p }
/-- A physical slot made zero. -/
def zeroSlot (s : State) (core phys : Nat) : State :=
  let c := s.core core
  s.setCore core { c with
    slots := memZero c.slots (phys * 8192) 8192
    slotP := c.slotP.filter fun k => k / 32 != phys }
/-- K of a format: the elements of a line. -/
def lineK (f : FFmt) : Nat := 2048 / fwidth f
/-- The element codes of a line (08 R229; 06_numbers.md R173). -/
def lineElems (f : FFmt) (bs : List Byte) : List Nat :=
  if f == .bx4 then bs.flatMap fun b => [b.toNat % 16, b.toNat / 16]
  else (chunks (fwidth f / 8) 256 bs).map leNat
/-- The exponent pair of block `j` in a row's registers (06 R175). -/
def blockExps (regs : List Word) (j : Nat) : Nat × Nat :=
  let w := (regs[j / 2]?).getD 0#32
  (field w (16 * (j % 2)) 8, field w (16 * (j % 2) + 8) 8)
/-- The values of a line; a block format takes the exponents of its row or column. -/
def lineVals (f : FFmt) (bs : List Byte) (regs : List Word) : List Numbers.Val :=
  if f == .bx8 || f == .bx4 then
    (lineElems f bs).zipIdx.map fun e =>
      Numbers.bxDecode (f == .bx4) e.1 (blockExps regs (e.2 / 32)).1 (blockExps regs (e.2 / 32)).2
  else (lineElems f bs).map (Numbers.decode f)

/-! Tiles (08 R230). -/

/-- The format of an accumulator. -/
def accFmt (acc64 : Bool) : FFmt := if acc64 then .f64 else .f32
/-- The bytes of a row of a tile. -/
def rowSize (acc64 : Bool) : Nat := if acc64 then 256 else 128
/-- Row i of a tile of the core: 32 elements. -/
def tileRow (s : State) (core tile : Nat) (acc64 : Bool) (i : Nat) : List Nat :=
  (chunks (rowSize acc64 / 32) 32 (memRead (s.core core).tiles (tile * 4096 + rowSize acc64 * i) (rowSize acc64))).map leNat
/-- The marks of row i: one for each 128 bytes of the store. DEDUCED (log 56). -/
def rowMarks (tile : Nat) (acc64 : Bool) (i : Nat) : List Nat :=
  if acc64 then [tile * 32 + 2 * i, tile * 32 + 2 * i + 1] else [tile * 32 + i]
/-- Whether row i is poisoned. DEDUCED (log 56). -/
def rowPoisoned (s : State) (core tile : Nat) (acc64 : Bool) (i : Nat) : Bool :=
  (rowMarks tile acc64 i).any ((s.core core).tileP.contains ·)
/-- Row i written. -/
def setTileRow (s : State) (core tile : Nat) (acc64 : Bool) (i : Nat) (xs : List Nat) (p : Bool) : State :=
  let c := s.core core
  s.setCore core { c with
    tiles := memBlock c.tiles (tile * 4096 + rowSize acc64 * i) (xs.flatMap fun x => toBytes (rowSize acc64 / 32) x)
    tileP := markLines c.tileP (rowMarks tile acc64 i) p }
/-- The share of a team on a core. -/
def shareOf (s : State) (core team : Nat) : Option Share := (s.core core).shares.find? (·.team == team)
/-- The tiles of the core that a team's tile number names, an FP64 pair or one tile; none outside the share. -/
def tilesOf (s : State) (core team tile : Nat) (acc64 : Bool) : Option (List Nat) :=
  match shareOf s core team with
  | none => none
  | some h =>
    let n := if acc64 then 2 else 1
    if tile + n ≤ h.n then some ((List.range n).map (h.base + tile + ·)) else none
/-- The slot-ownership fault of a slot or tile (08 R242). -/
def ownTrap (n : Nat) : Trap := mkTrap .slotOwnership 0 0#64 (BitVec.ofNat 64 n)

/-! Operations waiting or running on a core. -/

/-- The engine operations of a core, queue by queue. -/
def engOps (s : State) (core : Nat) : List (Nat × QEntry × EngOp) :=
  [4, 5, 6].flatMap fun q => (queueAt s core q).filterMap fun e =>
    match e.kind with
    | .eng op => some (q, e, op)
    | _ => none
/-- Whether two lists share a number. -/
def meets (a b : List Nat) : Bool := a.any (b.contains ·)
/-- Whether an operation must wait for an earlier one (08 R236). -/
def mustWait (x y : EngOp) : Bool :=
  meets x.slotsR y.slotsW || meets x.slotsW y.slotsR || meets x.slotsW y.slotsW
  || meets x.tilesR y.tilesW || meets x.tilesW y.tilesR || meets x.tilesW y.tilesW
  || meets x.bufsR y.bufsW || meets x.bufsW y.bufsR || meets x.bufsW y.bufsW
/-- Whether every earlier-accepted operation that an operation depends on has completed. -/
def depsDone (s : State) (core : Nat) (op : EngOp) : Bool :=
  (engOps s core).all fun e => decide (op.accept ≤ e.2.2.accept) || !mustWait op e.2.2
/-- Whether a physical slot is free: unbound, and no operation accepted earlier uses it (08 R228, R242). -/
def physFree (s : State) (core phys : Nat) : Bool :=
  !((s.core core).binds.any (·.phys == phys)) &&
    (engOps s core).all fun e => !(e.2.2.slotsR.contains phys || e.2.2.slotsW.contains phys)
/-- The lowest free physical slot. -/
def freePhys (s : State) (core : Nat) : Option Nat := (List.range 64).find? (physFree s core ·)

/-! Tokens (08 R239). -/

/-- The union of the flags of a group's operations up to one of them, once all have completed. -/
def logUnion (op : Nat) : List (Nat × Option (BitVec 5)) → BitVec 5 → Option (BitVec 5)
  | [], fl => some fl
  | (k, f) :: r, fl =>
    match f with
    | none => none
    | some x => if k == op then some (fl ||| x) else logUnion op r (fl ||| x)
/-- The flags of a token if it is complete. -/
def tokenFlags (s : State) (k : Token) : Option (BitVec 5) :=
  match k.pend with
  | none => some k.flags
  | some (g, op) =>
    match s.group g with
    | none => some k.flags
    | some gr => logUnion op gr.log 0#5
/-- A token register of every member set. -/
def setTokens (s : State) (ps : List Nat) (k : BitVec 4) (x : Token) : State :=
  onMembers s ps fun s p t => s.setThr p { t with tok := t.tok.set k.toNat x k.isLt }
/-- The parked MWAITs whose tokens are complete go on (08 R247). -/
def wakeTokens (s : State) : State :=
  s.threads.foldl (fun s e =>
    match s.thr e.1 with
    | some t =>
      match t.status with
      | .parked (.token k d) =>
        match tokenFlags s (t.token k) with
        | some fl => s.setThr e.1 ((t.setV d (fl.setWidth 32)).wake s)
        | none => s
      | _ => s
    | none => s) s

/-! Acceptance (08 R236). -/

/-- The thread at position 0. -/
def leader (s : State) (ps : List Nat) : Option (Nat × Thread) :=
  match ps with
  | [] => none
  | p :: _ => (s.thr p).map (p, ·)
/-- The matrix queue of a group: m0 for banks 0 and 1, m1 for banks 2 and 3 (08 R235). -/
def matrixQueue (p : Nat) : Nat := if bankOf p < 2 then 4 else 5
/-- An empty capture of an instruction. DEDUCED (log 58). -/
def capture (i : Instr) (debit : Nat) : EngOp :=
  { accept := 0, group := 0, instr := i, slotsR := [], slotsW := [], tilesR := [], tilesW := [], bufsR := [], bufsW := []
    words := [], locs := [], keys := [], draws := [], debit := debit }
/-- Where an operation reads or writes memory: sectors, or the 2,112 bytes of a map (09 R263). -/
def opPlaces (op : EngOp) : List (Nat × Nat) :=
  match op.instr with
  | .sigb .. | .sigmap .. => op.locs.map (·, 2112)
  | _ => op.locs.map (·, 32)
/-- An operation accepted into a queue, its token written in every member. A full queue stalls the group, and so does an
add of a member that is held at an address the operation reads or writes (03 R96). -/
def accept (s : State) (ps : List Nat) (p : Nat) (t : Thread) (q : Nat) (k : BitVec 4) (op : EngOp) : GroupRes :=
  let core := coreOf p
  if !queueRoom s core q || ps.any (fun m => addHeldAt s m (opPlaces op)) then .wait (.groupRoom q)
  else
    match t.group with
    | none => .wait .meet
    | some g =>
      let id := s.serial
      let c := s.core core
      let s1 := State.bump ((keepHost s (opPlaces op)).setCore core { c with accept := c.accept + 1 })
      let s2 := enqueue s1 core q ⟨id, ctxOf s t, t.team, 0, false, .eng { op with accept := c.accept, group := g }, none⟩
      let s3 := match s2.group g with
        | some gr => s2.setGroup g { gr with log := gr.log ++ [(id, none)] }
        | none => s2
      .done (setTokens s3 ps k ⟨some (g, id), 0#5⟩)

/-! Starts and ends. -/

/-- The bytes an operation moves to and from DRAM, by channel (14_scheduling.md R348). DEDUCED (log 91). -/
def opChannels (s : State) (op : EngOp) : Map Nat := op.locs.foldl (fun m l => addChannel s m l 32) []
/-- Whether an operation's debit and DRAM bytes are covered (08 R248; 14 R348). -/
def covered (s : State) (core : Nat) (e : QEntry) (op : EngOp) : Bool :=
  covers s core e.ctx op.debit && channelsFit s e.ctx (opChannels s op)
/-- An operation starts: its debit and bytes are charged. -/
def startOp (s : State) (core q : Nat) (e : QEntry) (op : EngOp) : State :=
  let s1 := debit s core e.ctx op.debit
  let s2 := s1.setCtx e.ctx { s1.ctx e.ctx with used := (opChannels s op).foldl (fun u x => addTo u x.1 x.2) (s1.ctx e.ctx).used }
  setOp s2 core q { e with started := true }
/-- An operation has completed with its flags: it leaves its queue, its group's log holds them, and waiters wake. -/
def endOp (s : State) (core q : Nat) (e : QEntry) (op : EngOp) (fl : BitVec 5) : State :=
  let s1 := dropOp s core q e.id
  let s2 := match s1.group op.group with
    | some gr => s1.setGroup op.group { gr with log := gr.log.map fun x => if x.1 == e.id then (x.1, some fl) else x }
    | none => s1
  wakeTokens s2

/-- The first operation of an engine queue that has not started, if it may be next. DEDUCED (log 59). -/
def nextEng (s : State) (core q : Nat) : Option (QEntry × EngOp) :=
  ((startable s core q).filterMap fun e =>
    match e.kind with
    | .eng op => if e.started then none else some (e, op)
    | _ => none).head?

end Sys2Proof.Machine
end

