-- ==== Sys2Proof/Machine/Matrix.lean ====
section
/-! DEFINITION. The matrix instructions, and the operations of the arrays (08_matrix_engine.md). -/

namespace Sys2Proof.Machine

open Sys2Proof.Legal (fwidth)
open Sys2Proof.Numbers (Flags noFlags round Val exactSum)

/-! Slots. -/

/-- MCLAIM (08 R242): a free name bound to a free physical slot, zeroed; no free slot stalls the group. -/
def execMclaim (g : Guard) (slot : BitVec 6) (s : State) : Out :=
  runGroup true true g (.mclaim g slot) s fun s ps =>
    match leader s ps with
    | none => .wait .meet
    | some (p, t) =>
      let core := coreOf p
      if (slotOf? s core t.team slot.toNat).isSome then .lead (ownTrap slot.toNat)
      else
        match freePhys s core with
        | none => .wait .slot
        | some ph =>
          let s1 := zeroSlot s core ph
          .done (s1.setCore core { s1.core core with binds := (s1.core core).binds ++ [⟨ph, t.team, slot.toNat⟩] })
/-- MREL (08 R242): the name is free at once. -/
def execMrel (g : Guard) (slot : BitVec 6) (s : State) : Out :=
  runGroup true true g (.mrel g slot) s fun s ps =>
    match leader s ps with
    | none => .wait .meet
    | some (p, t) =>
      let c := s.core (coreOf p)
      if (slotOf? s (coreOf p) t.team slot.toNat).isNone then .lead (ownTrap slot.toNat)
      else .done (s.setCore (coreOf p)
        { c with binds := c.binds.filter fun b => !(b.team == t.team && b.name == slot.toNat) })

/-! Rows of memory (08 R243). -/

/-- The 32-byte sectors of 32 rows of `n` bytes. -/
def rowSectors (a : DWord) (stride : Word) (n : Nat) : List DWord :=
  (List.range 32).flatMap fun i => (List.range (n / 32)).map fun k =>
    a + BitVec.ofNat 64 i * stride.signExtend 64 + BitVec.ofNat 64 (32 * k)
/-- The sectors of the rows: address and stride multiples of 32, every page permitted. -/
def rowPlaces (s : State) (p : Nat) (t : Thread) (a stride : VReg) (n : Nat) (acc : Access) : Chk (List Place) :=
  let ea := t.rv64 a
  if ea.toNat % 32 != 0 || (t.rv stride).toNat % 32 != 0 then .trap (mkTrap .alignment 0 ea 32#64)
  else rankAll ((rowSectors ea (t.rv stride) n).map fun x => locateAt s p t false x acc)
/-- Their locations. -/
def locateRows (s : State) (p : Nat) (t : Thread) (a stride : VReg) (n : Nat) (acc : Access) : Chk (List Nat) :=
  (rowPlaces s p t a stride n acc).bind fun l => .ok (l.map (·.loc))
/-- What an operation captures of the sectors it reads or writes. -/
def EngOp.at_ (op : EngOp) (ctx : Nat) (l : List Place) : EngOp :=
  { op with locs := l.map (·.loc), keys := l.map (·.key ctx) }
/-- The checks of the rows as the instruction's own in position 0 (08 R234). -/
def leadRows (a stride : VReg) (n : Nat) (acc : Access) (s : State) (ps : List Nat) : Chk Unit :=
  match leader s ps with
  | none => .ok ()
  | some (p, t) => (locateRows s p t a stride n acc).bind fun _ => .ok ()
/-- The bytes of 32 rows of elements of a format. -/
def rowBytes (f : FFmt) : Nat := 32 * (fwidth f / 8)

/-- MLD (08 R243). -/
def execMld (g : Guard) (o : MldOps) (s : State) : Out :=
  runGroup true true g (.mld g o) s
    (fun s ps =>
      match leader s ps with
      | none => .wait .meet
      | some (p, t) =>
        match slotOf? s (coreOf p) t.team o.slot.toNat, rowPlaces s p t o.a o.stride 256 Access.load with
        | some ph, .ok l =>
          accept s ps p t (matrixQueue p) o.t ({ capture (.mld g o) 3 with slotsW := [ph] }.at_ (ctxOf s t) l)
        | _, _ => .lead (ownTrap o.slot.toNat))
    (leadRows o.a o.stride 256 Access.load)
/-- MLDC (08 R243). -/
def execMldc (g : Guard) (o : MldcOps) (s : State) : Out :=
  runGroup true true g (.mldc g o) s
    (fun s ps =>
      match leader s ps with
      | none => .wait .meet
      | some (p, t) =>
        match tilesOf s (coreOf p) t.team o.tile.toNat o.acc64, rowPlaces s p t o.a o.stride (rowBytes o.fmt) Access.load with
        | some ts, .ok l =>
          accept s ps p t (matrixQueue p) o.t ({ capture (.mldc g o) 3 with tilesW := ts }.at_ (ctxOf s t) l)
        | _, _ => .lead (ownTrap o.tile.toNat))
    (leadRows o.a o.stride (rowBytes o.fmt) Access.load)
/-- MST (08 R243): under RS each member's generator is captured for its row. -/
def execMst (g : Guard) (o : MldcOps) (s : State) : Out :=
  runGroup true true g (.mst g o) s
    (fun s ps =>
      match leader s ps with
      | none => .wait .meet
      | some (p, t) =>
        match tilesOf s (coreOf p) t.team o.tile.toNat o.acc64, rowPlaces s p t o.a o.stride (rowBytes o.fmt) Access.store with
        | some ts, .ok l =>
          let ds := ps.filterMap fun k => (s.thr k).map fun u => (drawKey s u, u.ctr, drawPos s k u)
          accept s ps p t (matrixQueue p) o.t ({ capture (.mst g o) 3 with tilesR := ts, draws := ds }.at_ (ctxOf s t) l)
        | _, _ => .lead (ownTrap o.tile.toNat))
    (leadRows o.a o.stride (rowBytes o.fmt) Access.store)
/-- MZERO (08 R244). -/
def execMzero (g : Guard) (t : BitVec 4) (acc64 : Bool) (tile : BitVec 11) (s : State) : Out :=
  runGroup true true g (.mzero g t acc64 tile) s fun s ps =>
    match leader s ps with
    | none => .wait .meet
    | some (p, u) =>
      match tilesOf s (coreOf p) u.team tile.toNat acc64 with
      | none => .lead (ownTrap tile.toNat)
      | some ts => accept s ps p u (matrixQueue p) t { capture (.mzero g t acc64 tile) 1 with tilesW := ts }

/-- The debit of a format (08 R248, Table 2). -/
def mmaDebit : FFmt → Nat
  | .f64 => 96
  | .f32 => 44
  | .f16 | .bf16 => 21
  | .bx4 => 32
  | _ => 26

/-- MMA (08 R245): each member's exponent registers are captured. Of several operands that are not held, slot A is named,
then slot B, then the tile. DESIGN CHOICE (log 105). -/
def execMma (g : Guard) (o : MmaOps) (s : State) : Out :=
  runGroup true true g (.mma g o) s fun s ps =>
    match leader s ps with
    | none => .wait .meet
    | some (p, t) =>
      let core := coreOf p
      match slotOf? s core t.team o.a.toNat, slotOf? s core t.team o.b.toNat,
            tilesOf s core t.team o.tile.toNat (o.fmt == .f64) with
      | none, _, _ => .lead (ownTrap o.a.toNat)
      | _, none, _ => .lead (ownTrap o.b.toNat)
      | _, _, none => .lead (ownTrap o.tile.toNat)
      | some a, some b, some ts =>
        let ws := ps.flatMap fun k =>
          match s.thr k with
          | some u => (mmaRegs o).map fun n => u.rv (BitVec.ofNat 7 n)
          | none => []
        accept s ps p t (matrixQueue p) o.t
          { capture (.mma g o) (mmaDebit o.fmt) with slotsR := [a, b], tilesR := ts, tilesW := ts, words := ws }

/-- A slot read into a tile: MTRN, MPRM and MRED share their checks (08 R246); of two operands that are not held, the slot
is named. DESIGN CHOICE (log 105). -/
def acceptSlotTile (i : Instr) (k : BitVec 4) (f : FFmt) (slot tile : Nat) (reads : Bool) (words : State → List Nat → List Word)
    (s : State) (ps : List Nat) : GroupRes :=
  match leader s ps with
  | none => .wait .meet
  | some (p, t) =>
    match slotOf? s (coreOf p) t.team slot, tilesOf s (coreOf p) t.team tile (f == .f64) with
    | none, _ => .lead (ownTrap slot)
    | _, none => .lead (ownTrap tile)
    | some a, some ts =>
      accept s ps p t (matrixQueue p) k
        { capture i (mmaDebit f) with slotsR := [a], tilesR := if reads then ts else [], tilesW := ts, words := words s ps }
/-- MTRN (08 R246). -/
def execMtrn (g : Guard) (o : MtrnOps) (s : State) : Out :=
  runGroup true true g (.mtrn g o) s
    (acceptSlotTile (.mtrn g o) o.t o.fmt o.slot.toNat o.tile.toNat false fun _ _ => [])
/-- MPRM (08 R246): each member's row index is captured. -/
def execMprm (g : Guard) (o : MprmOps) (s : State) : Out :=
  runGroup true true g (.mprm g o) s
    (acceptSlotTile (.mprm g o) o.t o.fmt o.slot.toNat o.tile.toNat false fun s ps =>
      ps.map fun k => ((s.thr k).map (·.rv o.p)).getD 0#32)
/-- MRED (08 R246). -/
def execMred (g : Guard) (o : MredOps) (s : State) : Out :=
  runGroup true true g (.mred g o) s
    (acceptSlotTile (.mred g o) o.t o.fmt o.slot.toNat o.tile.toNat true fun _ _ => [])

/-- MWAIT (08 R247): per thread; it parks until the token is complete. -/
def execMwait (g : Guard) (d : VReg) (k : BitVec 4) (s : State) : Out :=
  run g (.mwait g d k) s noCheck noCheck fun t _ =>
    match tokenFlags s (t.token k) with
    | some fl => finish (.mwait g d k) s s.cur (t.setV d (fl.setWidth 32))
    | none => park (.mwait g d k) s s.cur t (.token k d)
/-- MTEST (08 R247). -/
def execMtest (g : Guard) (d : PReg) (k : BitVec 4) (s : State) : Out :=
  runReg g (.mtest g d k) s fun t => t.setPred d (tokenFlags s (t.token k)).isSome

/-! What an operation does when it completes. -/

/-- Widen (08 R246): exact; a NaN keeps its sign and its fraction at the top. -/
def widen (f : FFmt) (x : Nat) : Nat :=
  if f == .f64 || f == .f32 then x
  else if Numbers.isNan f x then
    let n := Legal.fprec f - 1
    (if Numbers.isNeg f x then 2 ^ 31 else 0) + 0x7F800000 + x % 2 ^ n * 2 ^ (23 - n)
  else (round .f32 .rn 0 (Numbers.decode f x)).1

/-- Rows written one after another, with the union of their flags. -/
def putRows (s : State) (core tile : Nat) (acc64 : Bool) (rows : List (List (Nat × Flags) × Bool)) : State × Flags :=
  rows.zipIdx.foldl (fun (a : State × Flags) e =>
    (setTileRow a.1 core tile acc64 e.2 (e.1.1.map (·.1)) e.1.2, e.1.1.foldl (fun f x => f ||| x.2) a.2)) (s, noFlags)

/-- A sector as its owner answers under a key slot: one whose frame has been released since reads as poisoned zeros
(16 R369). DESIGN CHOICE (log 109). -/
def loadSector (s : State) (x : Nat × Nat) : List Byte × Bool :=
  if mayStill s x.2 x.1 then loadP s x.1 32 else (List.replicate 32 0#8, true)
/-- The bytes at sectors and whether any is poisoned. -/
def loadSectors (s : State) (l : List (Nat × Nat)) : List Byte × Bool :=
  ((l.map fun x => (loadSector s x).1).flatten, l.any fun x => (loadSector s x).2)
/-- The sectors of row i, each with its key slot. -/
def sectorsOf (op : EngOp) (n i : Nat) : List (Nat × Nat) := ((op.locs.zip op.keys).drop (i * (n / 32))).take (n / 32)

/-- MLD's effect. -/
def mldEffect (s : State) (core : Nat) (op : EngOp) : State × Flags :=
  ((List.range 32).foldl (fun s i =>
    let r := loadSectors s (sectorsOf op 256 i)
    setSlotLine s core (op.slotsW.headD 0) i r.1 r.2) s, noFlags)
/-- MLDC's effect. -/
def mldcEffect (s : State) (core : Nat) (o : MldcOps) (op : EngOp) : State × Flags :=
  putRows s core (op.tilesW.headD 0) o.acc64 ((List.range 32).map fun i =>
    let r := loadSectors s (sectorsOf op (rowBytes o.fmt) i)
    ((chunks (fwidth o.fmt / 8) 32 r.1).map fun b => round (accFmt o.acc64) o.rnd 0 (Numbers.decode o.fmt (leNat b)), r.2))
/-- Row i of MST: its elements and flags. -/
def mstRow (s : State) (core : Nat) (o : MldcOps) (op : EngOp) (i : Nat) : List (Nat × Flags) :=
  (tileRow s core (op.tilesR.headD 0) o.acc64 i).zipIdx.map fun e =>
    let draw := match op.draws[i]? with
      | some (k, c, t) => Numbers.draw32 k c t e.2
      | none => 0
    round o.fmt o.rnd draw (Numbers.decode (accFmt o.acc64) e.1)
/-- The units MST writes: 32-byte sectors, each with its location, its bytes and its poison; not those whose frames have
been released since (16 R369). DESIGN CHOICE (log 109). -/
def mstUnits (s : State) (core : Nat) (o : MldcOps) (op : EngOp) : List (Nat × List Byte × Bool) :=
  (List.range 32).flatMap fun i =>
    let bs := (mstRow s core o op i).flatMap fun x => toBytes (fwidth o.fmt / 8) x.1
    ((sectorsOf op (rowBytes o.fmt) i).zipIdx.filter fun a => mayStill s a.1.2 a.1.1).map fun a =>
      (a.1.1, (bs.drop (32 * a.2)).take 32, rowPoisoned s core (op.tilesR.headD 0) o.acc64 i)
/-- Units of an operation written. -/
def writeUnits (s : State) (core ctx : Nat) (l : List (Nat × List Byte × Bool)) : State :=
  l.foldl (fun s u => engStore s core ctx u.1 u.2.1 u.2.2) s
/-- MST's effect. -/
def mstEffect (s : State) (core ctx : Nat) (o : MldcOps) (op : EngOp) : State × Flags :=
  (writeUnits s core ctx (mstUnits s core o op),
   (List.range 32).foldl (fun f i => (mstRow s core o op i).foldl (fun f x => f ||| x.2) f) noFlags)
/-- MZERO's effect. -/
def mzeroEffect (s : State) (core : Nat) (acc64 : Bool) (op : EngOp) : State × Flags :=
  putRows s core (op.tilesW.headD 0) acc64 (List.replicate 32 (List.replicate 32 (0, noFlags), false))

/-- MMA's effect (08 R245): each element the exact sum of its products and its old value, rounded once. -/
def mmaEffect (s : State) (core : Nat) (o : MmaOps) (op : EngOp) : State × Flags :=
  let a := op.slotsR.headD 0
  let b := (op.slotsR[1]?).getD 0
  let acc64 := o.fmt == .f64
  let tile := op.tilesW.headD 0
  let n := (mmaRegs o).length
  let exps (i : Nat) := (op.words.drop (n * i)).take n
  let as_ := (List.range 32).map fun i => lineVals o.fmt (slotLine s core a i) ((exps i).take (n / 2))
  let bs := (List.range 32).map fun j => lineVals o.fmt (slotLine s core b j) ((exps j).drop (n / 2))
  let bad := (List.range 32).any fun j => linePoisoned s core b j
  putRows s core tile acc64 ((as_.zipIdx).map fun x =>
    (((tileRow s core tile acc64 x.2).zip bs).map fun y =>
        round (accFmt acc64) .rn 0 (exactSum (Numbers.decode (accFmt acc64) y.1 :: List.zipWith Numbers.mul x.1 y.2)),
     bad || linePoisoned s core a x.2 || rowPoisoned s core tile acc64 x.2))

/-- MTRN's effect (08 R246). -/
def mtrnEffect (s : State) (core : Nat) (o : MtrnOps) (op : EngOp) : State × Flags :=
  let a := op.slotsR.headD 0
  let lines := (List.range 32).map fun j => lineElems o.fmt (slotLine s core a j)
  let bad := (List.range 32).any fun j => linePoisoned s core a j
  putRows s core (op.tilesW.headD 0) (o.fmt == .f64) ((List.range 32).map fun i =>
    (lines.map fun l => (widen o.fmt ((l[32 * o.m.toNat + i]?).getD 0), noFlags), bad))
/-- MPRM's effect (08 R246). -/
def mprmEffect (s : State) (core : Nat) (o : MprmOps) (op : EngOp) : State × Flags :=
  let a := op.slotsR.headD 0
  putRows s core (op.tilesW.headD 0) (o.fmt == .f64) ((List.range 32).map fun i =>
    let r := field ((op.words[i]?).getD 0#32) 0 5
    (((((lineElems o.fmt (slotLine s core a r)).drop (32 * o.m.toNat)).take 32).map fun x => (widen o.fmt x, noFlags)),
     linePoisoned s core a r))
/-- MRED's effect (08 R246). -/
def mredEffect (s : State) (core : Nat) (o : MredOps) (op : EngOp) : State × Flags :=
  let a := op.slotsR.headD 0
  let acc64 := o.fmt == .f64
  let tile := op.tilesW.headD 0
  let lines := (List.range 32).map fun j => lineVals o.fmt (slotLine s core a j) []
  let any_ := (List.range 32).any fun j => linePoisoned s core a j
  putRows s core tile acc64 ((List.range 32).map fun i =>
    ((tileRow s core tile acc64 i).zipIdx.map fun y =>
        let terms := if o.col then lines.map fun l => (l[32 * o.m.toNat + y.2]?).getD .uzero else (lines[i]?).getD []
        round (accFmt acc64) o.rnd 0 (exactSum (Numbers.decode (accFmt acc64) y.1 :: terms)),
     (if o.col then any_ else linePoisoned s core a i) || rowPoisoned s core tile acc64 i))

/-- The fault of a transfer some of whose sectors their owners refuse as they are performed, with the first of them (16 R365,
R369; 19 R397). DESIGN CHOICE (log 109). -/
def refuseSectors (s : State) (core ctx : Nat) (op : EngOp) : State :=
  match (op.locs.zip op.keys).find? fun x => !mayStill s x.2 x.1 with
  | some x => refuseAt s (unitCopy core) ctx x.2 x.1
  | none => s
/-- What a matrix operation does. -/
def tileEffect (s : State) (core ctx : Nat) (op : EngOp) : State × Flags :=
  match op.instr with
  | .mld _ _ => mldEffect (refuseSectors s core ctx op) core op
  | .mldc _ o => mldcEffect (refuseSectors s core ctx op) core o op
  | .mst _ o => mstEffect (refuseSectors s core ctx op) core ctx o op
  | .mzero _ _ a _ => mzeroEffect s core a op
  | .mma _ o => mmaEffect s core o op
  | .mtrn _ o => mtrnEffect s core o op
  | .mprm _ o => mprmEffect s core o op
  | .mred _ o => mredEffect s core o op
  | _ => (s, noFlags)

/-! The arrays' sequencers (08 R249, Table 3). -/

/-- The state of the array of queue 4 or 5. -/
def arrayOf (c : CoreState) (q : Nat) : ArrayState := if q == 4 then c.arr0 else c.arr1
/-- That state, set. -/
def setArray (s : State) (core q : Nat) (a : ArrayState) : State :=
  let c := s.core core
  s.setCore core (if q == 4 then { c with arr0 := a } else { c with arr1 := a })
/-- Hold (08 R249): IDLE goes to QUIET, BUSY to HOLDING. -/
def holdArray (s : State) (core q : Nat) : State :=
  match arrayOf (s.core core) q with
  | .idle => setArray s core q .quiet
  | .busy => setArray s core q .holding
  | _ => s
/-- Release (08 R249): QUIET goes to IDLE, HOLDING to BUSY. -/
def releaseArray (s : State) (core q : Nat) : State :=
  match arrayOf (s.core core) q with
  | .quiet => setArray s core q .idle
  | .holding => setArray s core q .busy
  | _ => s
/-- Whether an operation moves rows between memory and the stores, beside the array (08 R237, R243).
DEDUCED (log 57). -/
def isTransfer (op : EngOp) : Bool :=
  match op.instr with
  | .mld .. | .mldc .. | .mst .. => true
  | _ => false

/-- Whether the next operation of a matrix queue may start (08 R236, R237, R248, R249). DEDUCED (log 57). -/
def tileMayStart (s : State) (core q : Nat) : Bool :=
  match nextEng s core q with
  | none => false
  | some (e, op) =>
    (match arrayOf (s.core core) q with
     | .idle => true
     | .busy => isTransfer op
     | _ => false) && depsDone s core op && covered s core e op

/-- Whether an array is held: QUIET, or HOLDING until its operation completes. -/
def isHeld (a : ArrayState) : Bool := a == .quiet || a == .holding
/-- TILE_OP_START: the next operation of queue m0 (4) or m1 (5) starts, when R236 and its debit permit. An array that a
forced reset left held is released first, when an operation waits for it: the reset is over. DEDUCED (log 80). -/
def execTileOpStart (core q : Nat) (s : State) : Out :=
  if q == 4 || q == 5 then
    match nextEng s core q with
    | some (e, op) =>
      if isHeld (arrayOf (s.core core) q) then .next (releaseArray s core q)
      else if tileMayStart s core q then
        let s1 := startOp s core q e op
        .next (if isTransfer op then s1 else setArray s1 core q .busy)
      else .next s
    | none => .next s
  else .next s

/-- Whether a write of an operation waits for room in a causal buffer of another die (03 R97). DEDUCED (log 41). -/
def writeHeld (s : State) (core : Nat) (op : EngOp) : Bool :=
  match op.instr with
  | .mst .. => op.locs.any (sendHeld s core)
  | .sigb .. => [0, 2111].any fun k => sendHeld s core (op.locs.headD 0 + k)
  | _ => false
/-- Whether an operation of a matrix queue may complete: it has started, transfers complete in acceptance order (08 R237),
and the mesh takes its writes. DEDUCED (log 57). -/
def tileMayEnd (s : State) (core q op : Nat) : Bool :=
  match findOp s core q op with
  | some e =>
    match e.kind with
    | .eng x =>
      e.started && !writeHeld s core x && (!isTransfer x || (queueAt s core q).all fun y =>
        match y.kind with
        | .eng z => decide (x.accept ≤ z.accept) || !isTransfer z
        | _ => true)
    | _ => false
  | none => false

/-- An operation completes whole: its effect, its array's state, its token (08 R239, R249). -/
def completeTile (s : State) (core q : Nat) (e : QEntry) (op : EngOp) : State :=
  let r := tileEffect s core e.ctx op
  let s1 := if isTransfer op then r.1
    else
      match arrayOf (r.1.core core) q with
      | .holding => setArray r.1 core q .quiet
      | .busy => setArray r.1 core q .idle
      | _ => r.1
  endOp s1 core q e op r.2

/-- TILE_OP_COMPLETE: a started operation of m0 or m1 completes. DEDUCED (log 58). -/
def execTileOpComplete (core q op : Nat) (s : State) : Out :=
  if (q == 4 || q == 5) && tileMayEnd s core q op then
    match findOp s core q op with
    | some e =>
      match e.kind with
      | .eng x => .next (completeTile s core q e x)
      | _ => .next s
    | none => .next s
  else .next s

end Sys2Proof.Machine
end

