-- ==== Sys2Proof/Machine/Signature.lean ====
section
/-! DEFINITION. The signature stage (09_signature_stage.md). -/

namespace Sys2Proof.Machine

open Sys2Proof.Legal (fwidth)
open Sys2Proof.Numbers (Flags noFlags round Val exactSum)

/-! Buffers (09 R253). -/

/-- A buffer as it arrives: zero, R = 0, h = 16. DEDUCED (log 114). -/
def SigBuf.fresh (team kb : Nat) : SigBuf :=
  { team := team, kb := kb, sigs := List.replicate 256 0#16, rows := 0, h := 16, map := List.replicate 2112 0#8
    kpoison := 0, mpoison := 0 }
/-- A team's buffer on a core. -/
def getBuf (s : State) (core team kb : Nat) : SigBuf :=
  ((s.core core).bufs.find? fun b => b.team == team && b.kb == kb).getD (SigBuf.fresh team kb)
/-- A buffer set. -/
def setBuf (s : State) (core : Nat) (b : SigBuf) : State :=
  let c := s.core core
  s.setCore core { c with bufs := c.bufs.filter (fun x => !(x.team == b.team && x.kb == b.kb)) ++ [b] }
/-- A buffer set by an operation; one whose buffers the team has given up since writes none (08_matrix_engine.md R231). -/
def putBuf (s : State) (core : Nat) (op : EngOp) (b : SigBuf) : State := if op.bufsW.isEmpty then s else setBuf s core b
/-- The number of a buffer part among an operation's operands: the key part, or the map part. -/
def partOf (team kb : Nat) (map : Bool) : Nat := (team * 4 + kb) * 2 + (if map then 1 else 0)
/-- Whether an operation accepted earlier still has to write a part (09 R267). -/
def partPending (s : State) (core team kb : Nat) (map : Bool) : Bool :=
  (engOps s core).any fun e => e.2.2.bufsW.contains (partOf team kb map)
/-- ceil(n / 32). -/
def ceil32 (n : Nat) : Nat := (n + 31) / 32
/-- The physical slots of names `o` to `o + n - 1`, or the first name that is not held (09 R254). -/
def window (s : State) (core team o n : Nat) : Except Nat (List Nat) :=
  ((List.range n).map (o + ·)).foldr (fun k r =>
    match slotOf? s core team k, r with
    | none, _ => .error k
    | some _, .error e => .error e
    | some p, .ok l => .ok (p :: l)) (.ok [])

/-- Register k of a quad, in the thread at position 0. -/
def quadWord (t : Thread) (q : VReg) (k : Nat) : Word := t.rv (q + BitVec.ofNat 7 k)
/-- R of SIGH (09 R256): 1 to 256. -/
def sighRows (t : Thread) (q : VReg) : Option Nat :=
  let r := field (quadWord t q 2) 0 9
  if r == 0 || decide (256 < r) then none else some r
/-- P of SIGB (09 R256). -/
def sigbP (t : Thread) (q : VReg) : Nat :=
  let p := field (quadWord t q 2) 0 9
  if 256 < p then 0 else p

/-! Maps in memory (09 R263, R266). -/

/-- The location of a map: 64-aligned, in the SRAM aperture, permitted. -/
def locateMap (s : State) (p : Nat) (t : Thread) (q : VReg) (a : Access) : Chk Nat :=
  let ea := t.rv64 q
  let ab := apertureBase s (ctxOf s t)
  (alignCheck ea 64).bind fun _ =>
    if ea.toNat < ab ∨ ab + 576 * 2 ^ 20 < ea.toNat + 2112 then .trap (spaceTrap ea)
    else (rankAll [locateAt s p t false ea a, locateAt s p t false (ea + 2111#64) a]).bind fun l =>
      .ok ((l.head?.map (·.loc)).getD 0)
/-- That check as the instruction's own. -/
def leadMap (q : VReg) (a : Access) (s : State) (ps : List Nat) : Chk Unit :=
  match leader s ps with
  | none => .ok ()
  | some (p, t) => (locateMap s p t q a).bind fun _ => .ok ()

/-! The instructions. -/

/-- SIGH.srp (09 R256, R259). DEDUCED (log 60). -/
def execSighSrp (g : Guard) (o : SighOps) (s : State) : Out :=
  runGroup true true g (.sighSrp g o) s fun s ps =>
    match leader s ps with
    | none => .wait .meet
    | some (p, t) =>
      let kb := o.kb.toNat
      match sighRows t o.q with
      | none => .lead (ownTrap o.w.toNat)
      | some r =>
        match window s (coreOf p) t.team o.w.toNat (ceil32 r) with
        | .error k => .lead (ownTrap k)
        | .ok w =>
          accept s ps p t 6 o.t
            { capture (.sighSrp g o) (4 * ceil32 r) with
              slotsR := w, bufsW := [partOf t.team kb false, partOf t.team kb true]
              words := [quadWord t o.q 0, quadWord t o.q 1, BitVec.ofNat 32 r] }
/-- The key of row `i + 32 t` in its member (09 R260). -/
def memberKeys (s : State) (ps : List Nat) (k : VReg) : List Word :=
  (List.range 256).map fun r =>
    match ps[r % 32]? with
    | some p =>
      match s.thr p with
      | some t => BitVec.ofNat 32 (field (t.rv (k + BitVec.ofNat 7 (r / 32 / 2))) (16 * (r / 32 % 2)) 16)
      | none => 0#32
    | none => 0#32
/-- SIGH.key (09 R260). DEDUCED (log 60). -/
def execSighKey (g : Guard) (o : SighKeyOps) (s : State) : Out :=
  runGroup true true g (.sighKey g o) s fun s ps =>
    match leader s ps with
    | none => .wait .meet
    | some (p, t) =>
      let kb := o.kb.toNat
      match sighRows t o.q with
      | none => .lead (ownTrap 0)
      | some r =>
        accept s ps p t 6 o.t
          { capture (.sighKey g o) 1 with
            bufsW := [partOf t.team kb false, partOf t.team kb true]
            words := BitVec.ofNat 32 r :: (memberKeys s ps o.k).take r }

/-- The poison fault of a buffer part (09 R267). -/
def bufTrap (poison kb : Nat) : Trap := mkTrap .poison poison 0#64 (BitVec.ofNat 64 kb)

/-- SIGB (09 R261 to R263, R267). DEDUCED (log 60). DESIGN CHOICE (log 105). -/
def execSigb (g : Guard) (o : SigbOps) (s : State) : Out :=
  runGroup true true g (.sigb g o) s
    (fun s ps =>
      match leader s ps with
      | none => .wait .meet
      | some (p, t) =>
        let core := coreOf p
        let kb := o.kb.toNat
        if partPending s core t.team kb false then .wait (.metadata kb)
        else
          let b := getBuf s core t.team kb
          let n := ceil32 b.rows
          if b.kpoison != 0 then .lead (bufTrap b.kpoison kb)
          else
            match window s core t.team o.oW.toNat n, window s core t.team o.oD.toNat n, locateMap s p t o.q Access.store with
            | .error k, _, _ => .lead (ownTrap k)
            | _, .error k, _ => .lead (ownTrap k)
            | .ok w, .ok d, .ok l =>
              if meets w d then .lead (ownTrap o.oD.toNat)
              else
                accept s ps p t 6 o.t
                  { capture (.sigb g o) ((if o.rule == .mean then 4 else 2) * n) with
                    slotsR := w, slotsW := d, bufsW := [partOf t.team kb true]
                    words := BitVec.ofNat 32 (sigbP t o.q) :: BitVec.ofNat 32 b.rows :: BitVec.ofNat 32 b.h ::
                      (b.sigs.take b.rows).map (·.setWidth 32)
                    locs := [l] }
            | _, _, _ => .wait .meet)
    (leadMap o.q Access.store)

/-! The map (09 R263, Tables 2 to 4). -/

/-- Word k of a map. -/
def mapWord (m : List Byte) (k : Nat) : Word := BitVec.ofNat 32 (leNat ((m.drop (4 * k)).take 4))
/-- The header of a map. -/
def mapHeader (m : List Byte) : DWord := BitVec.ofNat 64 (leNat ((m.drop 2048).take 8))
/-- R. -/
def mapRows (m : List Byte) : Nat := field (mapHeader m) 0 9
/-- B. -/
def mapBuckets (m : List Byte) : Nat := field (mapHeader m) 16 9
/-- The rule: 0 is .group. -/
def mapRule (m : List Byte) : Nat := field (mapHeader m) 28 2
/-- The bucket of row r. -/
def mapBucket (m : List Byte) (r : Nat) : Nat := field (mapWord m r) 0 8
/-- The rep field of row r. -/
def mapRep (m : List Byte) (r : Nat) : Nat := field (mapWord m r) 8 8

/-- The absolute tiles of rows 0 to `rows - 1` of a range from tile `u` on, or the tile at fault (09 R264). -/
def rowTiles (s : State) (core team u rows : Nat) (f64 : Bool) : Except Nat (List Nat) :=
  ((List.range (ceil32 rows)).map fun k => u + (if f64 then 2 * k else k)).foldr (fun k r =>
    match tilesOf s core team k f64, r with
    | none, _ => .error k
    | some _, .error e => .error e
    | some ts, .ok l => .ok (ts ++ l)) (.ok [])

/-- What SIGS and SIGG check and capture (09 R264, R265, R267). `back` is SIGG. An FP64 pair is debited as two tiles.
DESIGN CHOICE (log 105). DESIGN CHOICE (log 106). -/
def acceptRows (i : Instr) (o : SigsOps) (back : Bool) (s : State) (ps : List Nat) : GroupRes :=
  match leader s ps with
  | none => .wait .meet
  | some (p, t) =>
    let core := coreOf p
    let kb := o.kb.toNat
    if partPending s core t.team kb true then .wait (.metadata kb)
    else
      let b := getBuf s core t.team kb
      let group := mapRule b.map == 0
      let rows := mapRows b.map
      let few := if group then rows else mapBuckets b.map
      let src := field (quadWord t o.q 2) 0 11
      let dst := field (quadWord t o.q 2) 16 11
      if b.mpoison != 0 then .lead (bufTrap b.mpoison kb)
      else if o.f64 && src % 2 != 0 then .lead (ownTrap src)
      else if o.f64 && dst % 2 != 0 then .lead (ownTrap dst)
      else
        match rowTiles s core t.team src (if back then rows else few) o.f64,
              rowTiles s core t.team dst (if back then few else rows) o.f64 with
        | .error k, _ => .lead (ownTrap k)
        | _, .error k => .lead (ownTrap k)
        | .ok a, .ok d =>
          if meets a d then .lead (ownTrap dst)
          else
            accept s ps p t 6 o.t
              { capture i (if back then 2 * a.length else d.length) with
                tilesR := a, tilesW := d, words := (List.range 528).map (mapWord b.map) }
/-- SIGS (09 R264). -/
def execSigs (g : Guard) (o : SigsOps) (s : State) : Out :=
  runGroup true true g (.sigs g o) s (acceptRows (.sigs g o) o false)
/-- SIGG (09 R265). -/
def execSigg (g : Guard) (o : SigsOps) (s : State) : Out :=
  runGroup true true g (.sigg g o) s (acceptRows (.sigg g o) o true)
/-- SIGMAP (09 R266). -/
def execSigmap (g : Guard) (o : SigmapOps) (s : State) : Out :=
  runGroup true true g (.sigmap g o) s
    (fun s ps =>
      match leader s ps with
      | none => .wait .meet
      | some (p, t) =>
        let kb := o.kb.toNat
        match locateMap s p t o.q Access.load with
        | .ok l =>
          accept s ps p t 6 o.t
            { capture (.sigmap g o) 1 with
              bufsW := [partOf t.team kb false, partOf t.team kb true], locs := [l] }
        | _ => .wait .meet)
    (leadMap o.q Access.load)

/-! What an operation does when it completes. -/

/-- Row r of a window of physical slots: its bytes, and whether its line is poisoned. -/
def windowRow (s : State) (core : Nat) (w : List Nat) (r : Nat) : List Byte × Bool :=
  let ph := (w[r / 32]?).getD 0
  (slotLine s core ph (r % 32), linePoisoned s core ph (r % 32))

/-- H[j][k] is −1: the hyperplane's bit (09 R259). -/
def planeBit (seed : DWord) (q j k : Nat) : Bool :=
  (Numbers.splitMix (seed + 0x9E3779B97F4A7C15#64 * BitVec.ofNat 64 (q * j + k / 64))).getLsbD (k % 64)
/-- Bit j of a fine signature: whether the sum is greater than zero (09 R259). -/
def signBitOf (seed : DWord) (q : Nat) (vs : List Val) (j : Nat) : Bool :=
  match exactSum ((vs.zipIdx).map fun v => if planeBit seed q j v.2 then Numbers.neg v.1 else v.1) with
  | .fin n _ _ => !n
  | .inf n => !n
  | _ => false
/-- The fine signature of a row (09 R259). -/
def fineSig (f : FFmt) (seed : DWord) (bs : List Byte) : BitVec 16 :=
  let vs := lineVals f bs []
  let q := max 1 (lineK f / 64)
  BitVec.ofNat 16 ((List.range 16).foldl (fun a j => if signBitOf seed q vs j then a + 2 ^ j else a) 0)
/-- Signatures padded to 256. -/
def padSigs (l : List (BitVec 16)) : List (BitVec 16) := l ++ List.replicate (256 - l.length) 0#16

/-- SIGH.srp's effect. A poisoned window line marks the key part, which holds its signature; the map part is written
zero and clear (09 R259, R267). DEDUCED (log 114). -/
def srpEffect (s : State) (core team : Nat) (o : SighOps) (op : EngOp) : State :=
  let seed := pair (op.words.headD 0#32) ((op.words[1]?).getD 0#32)
  let r := ((op.words[2]?).getD 0#32).toNat
  let rows := (List.range r).map (windowRow s core op.slotsR)
  putBuf s core op { SigBuf.fresh team o.kb.toNat with
    sigs := padSigs (rows.map fun x => fineSig o.fmt seed x.1), rows := r, h := o.h.toNat
    kpoison := if rows.any (·.2) then 3 else 0 }
/-- SIGH.key's effect. DEDUCED (log 114). -/
def keyEffect (s : State) (core team : Nat) (o : SighKeyOps) (op : EngOp) : State :=
  putBuf s core op { SigBuf.fresh team o.kb.toNat with
    sigs := padSigs ((op.words.drop 1).map (·.setWidth 16)), rows := (op.words.headD 0#32).toNat }

/-- A row put into its place by key, then by index. -/
def insertRow (key : Nat → Nat) (r : Nat) : List Nat → List Nat
  | [] => [r]
  | x :: l => if key x < key r ∨ (key x = key r ∧ x < r) then x :: insertRow key r l else r :: x :: l
/-- Rows in the order of R261. -/
def sortRows (key : Nat → Nat) (n : Nat) : List Nat := (List.range n).foldr (insertRow key) []
/-- The runs of one key in an ordered list (09 R261). -/
def runsOf (key : Nat → Nat) : List Nat → List (List Nat)
  | [] => []
  | r :: l =>
    match runsOf key l with
    | [] => [[r]]
    | b :: bs => if key r == key (b.headD r) then (r :: b) :: bs else [r] :: b :: bs
/-- Runs cut into pieces of P rows, whole when P is 0 (09 R261). -/
def cutRuns (p : Nat) (runs : List (List Nat)) : List (List Nat) :=
  runs.flatMap fun r => if p == 0 then [r] else chunks p r.length r

/-- The distance of a member to its bucket (09 R262, .mednear). -/
def spread (sig : Nat → Nat) (b : List Nat) (m : Nat) : Nat :=
  (b.map fun x => ((List.range 16).filter fun k => (sig m ^^^ sig x).testBit k).length).sum
/-- The member nearest to all: the lowest index on ties. -/
def medNear (sig : Nat → Nat) (b : List Nat) : Nat :=
  b.foldl (fun a m => if spread sig b m < spread sig b a then m else a) (b.headD 0)

/-- What SIGB works with. -/
structure SigbPlan where
  p     : Nat
  rows  : Nat
  h     : Nat
  key   : Nat → Nat
  sig   : Nat → Nat
  order : List Nat
  parts : List (List Nat)
/-- The plan of a captured SIGB. -/
def planOf (op : EngOp) : SigbPlan :=
  let p := (op.words.headD 0#32).toNat
  let rows := ((op.words[1]?).getD 0#32).toNat
  let h := ((op.words[2]?).getD 0#32).toNat
  let sig (r : Nat) : Nat := ((op.words[3 + r]?).getD 0#32).toNat
  let key (r : Nat) : Nat := sig r % 2 ^ h
  let order := sortRows key rows
  { p := p, rows := rows, h := h, key := key, sig := sig, order := order, parts := cutRuns p (runsOf key order) }

/-- The rep field of a bucket under a merging rule (09 R262). -/
def repOf (rule : SigRule) (pl : SigbPlan) (b : List Nat) : Nat :=
  if rule == .mednear then medNear pl.sig b else b.headD 0
/-- The code of a rule in a map (09 R263, Table 4). -/
def ruleCode : SigRule → Nat
  | .group => 0
  | .first => 1
  | .mean => 2
  | .mednear => 3
/-- The number of members of the buckets before bucket `b`. -/
def startOf (parts : List (List Nat)) (b : Nat) : Nat := ((parts.take b).map (·.length)).sum

/-- The map SIGB writes (09 R263). -/
def buildMap (rule : SigRule) (pl : SigbPlan) : List Byte :=
  let row (r : Nat) : Nat :=
    if pl.rows ≤ r then 0
    else
      let b := pl.parts.findIdx (·.contains r)
      let l := (pl.parts[b]?).getD []
      let rep := if rule == .group then pl.order.findIdx (· == r) else repOf rule pl l
      b + rep * 2 ^ 8 + l.length * 2 ^ 16
  let bucket (b : Nat) : Nat :=
    match pl.parts[b]? with
    | none => 0
    | some l => pl.key (l.headD 0) + (if rule == .group then startOf pl.parts b else b) * 2 ^ 16 + (l.length - 1) * 2 ^ 24
  let header := pl.rows + pl.parts.length * 2 ^ 16 + ruleCode rule * 2 ^ 28 + pl.h * 2 ^ 32 + pl.p * 2 ^ 40
  ((List.range 256).flatMap fun r => toBytes 4 (row r)) ++ ((List.range 256).flatMap fun b => toBytes 4 (bucket b)) ++
    toBytes 8 header ++ List.replicate 56 0#8

/-- The mean of rows, element by element (09 R262): bytes, flags. -/
def meanRow (f : FFmt) (rows : List (List Byte)) : List Byte × Flags :=
  let vs := rows.map fun b => lineVals f b []
  let c : Val := .fin false rows.length 0
  let xs := (List.range (lineK f)).map fun k =>
    round f .rn 0 (Numbers.divide (exactSum (vs.map fun v => (v[k]?).getD .uzero)) c).1
  (xs.flatMap fun x => toBytes (fwidth f / 8) x.1, unionFlags (xs.map (·.2)))

/-- Destination line p of SIGB: bytes, poison, flags (09 R262). -/
def destLine (s : State) (core : Nat) (o : SigbOps) (op : EngOp) (pl : SigbPlan) (p : Nat) : List Byte × Bool × Flags :=
  let copy (r : Nat) := let x := windowRow s core op.slotsR r; (x.1, x.2, noFlags)
  if o.rule == .group then
    match pl.order[p]? with
    | some r => copy r
    | none => (List.replicate 256 0#8, false, noFlags)
  else
    match pl.parts[p]? with
    | none => (List.replicate 256 0#8, false, noFlags)
    | some b =>
      if o.rule == .mean then
        let rows := b.map (windowRow s core op.slotsR)
        let m := meanRow o.fmt (rows.map (·.1))
        (m.1, rows.any (·.2), m.2)
      else copy (repOf o.rule pl b)

/-- The units of SIGB's map in memory: 8 bytes each (03 R94; 09 R268). Written so, they leave the poison of the 16-byte
halves they fill: 19 R398 names only a store, a copy unit and a CINIT as clearing it. DESIGN CHOICE (log 39). -/
def mapUnits (op : EngOp) (m : List Byte) : List (Nat × List Byte × Bool) :=
  (units8 m).map fun u => (op.locs.headD 0 + u.1, u.2, false)
/-- SIGB's effect: the destination slots, the map in memory and in the buffer. -/
def sigbEffect (s : State) (core ctx team : Nat) (o : SigbOps) (op : EngOp) : State × Flags :=
  let pl := planOf op
  let m := buildMap o.rule pl
  let r := ((List.range (32 * op.slotsW.length)).foldl (fun (a : State × Flags) p =>
    let x := destLine s core o op pl p
    (setSlotLine a.1 core ((op.slotsW[p / 32]?).getD 0) (p % 32) x.1 x.2.1, a.2 ||| x.2.2)) (s, noFlags))
  let s1 := writeUnits r.1 core ctx (mapUnits op m)
  let b := getBuf s1 core team o.kb.toNat
  (putBuf s1 core op { b with map := m, mpoison := 0 }, r.2)

/-- The tile and row of row x of a range of absolute tiles (09 R264). -/
def rangeRow (ts : List Nat) (f64 : Bool) (x : Nat) : Nat × Nat := ((ts[if f64 then 2 * (x / 32) else x / 32]?).getD 0, x % 32)
/-- Rows of a range read before any is written. -/
def readRange (s : State) (core : Nat) (ts : List Nat) (f64 : Bool) (x : Nat) : List Nat × Bool :=
  let a := rangeRow ts f64 x
  (tileRow s core a.1 f64 a.2, rowPoisoned s core a.1 f64 a.2)
/-- Rows of a range written. -/
def writeRange (s : State) (core : Nat) (ts : List Nat) (f64 : Bool) (l : List (Nat × List Nat × Bool)) : State :=
  l.foldl (fun s e => let a := rangeRow ts f64 e.1; setTileRow s core a.1 f64 a.2 e.2.1 e.2.2) s

/-- SIGS's effect (09 R264). -/
def sigsEffect (s : State) (core : Nat) (o : SigsOps) (op : EngOp) : State :=
  let m := op.words.flatMap fun w => toBytes 4 w.toNat
  writeRange s core op.tilesW o.f64 ((List.range (mapRows m)).map fun r =>
    let q := if mapRule m == 0 then mapRep m r else mapBucket m r
    let x := readRange s core op.tilesR o.f64 q
    (r, x.1, x.2))

/-- SIGG's effect (09 R265); a bucket that no row names sums to +0. DESIGN CHOICE (log 118). -/
def siggEffect (s : State) (core : Nat) (o : SigsOps) (op : EngOp) : State × Flags :=
  let m := op.words.flatMap fun w => toBytes 4 w.toNat
  let f := accFmt o.f64
  if mapRule m == 0 then
    (writeRange s core op.tilesW o.f64 ((List.range (mapRows m)).map fun r =>
      let x := readRange s core op.tilesR o.f64 r
      (mapRep m r, x.1, x.2)), noFlags)
  else
    let rows := (List.range (mapBuckets m)).map fun b =>
      let ms := ((List.range (mapRows m)).filter fun r => mapBucket m r == b).map (readRange s core op.tilesR o.f64)
      let c : Val := .fin false ms.length 0
      let xs := (List.range 32).map fun j =>
        let v := exactSum (ms.map fun x => Numbers.decode f ((x.1[j]?).getD 0))
        round f .rn 0 (if o.avg then (Numbers.divide v c).1 else v)
      (b, xs, ms.any (·.2))
    (writeRange s core op.tilesW o.f64 (rows.map fun x => (x.1, x.2.1.map (·.1), x.2.2)),
     unionFlags (rows.flatMap fun x => x.2.1.map (·.2)))

/-- Whether a map is one SIGB could have written (09 R266). -/
def wellFormedMap (m : List Byte) : Bool :=
  let h := mapHeader m
  let rows := mapRows m
  let bs := mapBuckets m
  let group := mapRule m == 0
  let width := field h 32 5
  let members (b : Nat) := (List.range rows).filter fun r => mapBucket m r == b
  let bw (b : Nat) := mapWord m (256 + b)
  let count (b : Nat) := field (bw b) 24 8 + 1
  let first (b : Nat) := field (bw b) 16 8
  decide (rows ≤ 256) && decide (bs ≤ rows) && (decide (1 ≤ bs) == decide (1 ≤ rows))
  && decide (1 ≤ width) && decide (width ≤ 16)
  && field h 49 15 == 0 && field h 37 3 == 0 && field h 30 2 == 0 && field h 25 3 == 0 && field h 9 7 == 0
  && (m.drop 2056).all (· == 0#8)
  && ((List.range 256).all fun r =>
      if rows ≤ r then mapWord m r == 0#32
      else field (mapWord m r) 25 7 == 0 && decide (mapBucket m r < bs)
        && field (mapWord m r) 16 9 == count (mapBucket m r))
  && ((List.range 256).all fun b => if bs ≤ b then bw b == 0#32 else true)
  && ((List.range bs).map count).sum == rows
  && (if group then
        (List.range rows).all fun x =>
          ((List.range rows).filter fun r => mapRep m r == x).length == 1
        && decide (mapRep m x < rows) && decide (first (mapBucket m x) ≤ mapRep m x)
        && decide (mapRep m x < first (mapBucket m x) + count (mapBucket m x))
      else
        ((List.range bs).all fun b => first b == b) &&
        (List.range rows).all fun r => (members (mapBucket m r)).contains (mapRep m r))

/-- SIGMAP's effect (09 R266). -/
def sigmapEffect (s : State) (core team : Nat) (o : SigmapOps) (op : EngOp) : State :=
  let r := loadP s (op.locs.headD 0) 2112
  let bad := if r.2 then 3 else if wellFormedMap r.1 then 0 else 4
  putBuf s core op { SigBuf.fresh team o.kb.toNat with
    rows := mapRows r.1, h := field (mapHeader r.1) 32 5, map := r.1, kpoison := bad, mpoison := bad }

/-- What a signature operation does. -/
def sigEffect (s : State) (core ctx team : Nat) (op : EngOp) : State × Flags :=
  match op.instr with
  | .sighSrp _ o => (srpEffect s core team o op, noFlags)
  | .sighKey _ o => (keyEffect s core team o op, noFlags)
  | .sigb _ o => sigbEffect s core ctx team o op
  | .sigs _ o => (sigsEffect s core o op, noFlags)
  | .sigg _ o => siggEffect s core o op
  | .sigmap _ o => (sigmapEffect s core team o op, noFlags)
  | _ => (s, noFlags)

/-- The operation the stage runs: it performs one at a time (09 R257). -/
def runningSig (s : State) (core : Nat) : Option (QEntry × EngOp) :=
  ((startable s core 6).filterMap fun e =>
    match e.kind with
    | .eng op => if e.started then some (e, op) else none
    | _ => none).head?
/-- Whether the next operation of the stage may start (08 R236; 09 R257, R258). DEDUCED (log 59). -/
def sigMayStart (s : State) (core : Nat) : Bool :=
  match runningSig s core, nextEng s core 6 with
  | none, some (e, op) => depsDone s core op && covered s core e op
  | _, _ => false

/-- SIG_OP_START: the next operation of queue sig starts. -/
def execSigOpStart (core : Nat) (s : State) : Out :=
  if sigMayStart s core then
    match nextEng s core 6 with
    | some (e, op) => .next (startOp s core 6 e op)
    | none => .next s
  else .next s
/-- An operation of the stage completes whole. -/
def completeSig (s : State) (core : Nat) (e : QEntry) (op : EngOp) : State :=
  let r := sigEffect s core e.ctx e.team op
  endOp r.1 core 6 e op r.2
/-- SIG_OP_COMPLETE: the operation the stage runs completes. DEDUCED (log 58). -/
def execSigOpComplete (core : Nat) (s : State) : Out :=
  match runningSig s core with
  | some (e, op) => .next (if writeHeld s core op then s else completeSig s core e op)
  | none => .next s

end Sys2Proof.Machine
end

