-- ==== Sys2Proof/Machine/Frames.lean ====
section
/-! DEFINITION. Latent frames, their stack, and the register pool of a lane (12_execution_model.md R283 to R290). -/

namespace Sys2Proof.Machine

/-! The register pool (12 R273, R283 to R286). -/

/-- The threads of a lane, with their places. -/
def laneThreads (s : State) (core lane : Nat) : List (Nat × Thread) :=
  s.threads.filter fun e => e.1 / 16 == core * 128 + lane
/-- The pool registers a thread holds: its allotment, or v0 to v15 while it is lent, and 16 for each frame on chip. -/
def poolOf (t : Thread) : Nat := (if t.lent then 16 else t.allot) + 16 * t.chip.length
/-- The free registers of a lane's pool. -/
def poolFree (s : State) (core lane : Nat) : Nat := 2048 - ((laneThreads s core lane).map fun e => poolOf e.2).sum
/-- The free registers of a thread's lane. -/
def poolOfLane (s : State) (p : Nat) : Nat := poolFree s (coreOf p) (laneOf p)

/-! The image of a frame (12 R289, Table 4). -/

/-- The 64 bytes of a frame. -/
def frameBytes (f : Frame) : List Byte :=
  let w (x : Word) := toBytes 4 x.toNat
  let arg (k : Nat) := w ((f.args[k]?).getD 0#32)
  toBytes 8 (f.entry.toNat + (if f.range then 2 ^ 57 else 0) + (if f.bound then 2 ^ 58 else 0)
    + (if f.promoted then 2 ^ 59 else 0)) ++ toBytes 8 f.join.toNat ++
  (if f.range then w f.lo ++ w f.hi ++ w f.grain ++ arg 0 ++ arg 1 ++ arg 2 ++ arg 3 ++ toBytes 4 0
   else arg 0 ++ arg 1 ++ arg 2 ++ arg 3 ++ arg 4 ++ arg 5 ++ toBytes 8 0) ++
  toBytes 8 f.site.toNat ++ toBytes 8 (f.bwidth.toNat + 4 * f.bpos.toNat)

/-- The frame whose image these bytes are, with the die vector kept beside it and their poison. -/
def frameOf (bs : List Byte) (dv : Vector Nat 8) (p : Bool) : Frame :=
  let w (k : Nat) : Word := BitVec.ofNat 32 (leNat ((bs.drop k).take 4))
  let d (k : Nat) : DWord := BitVec.ofNat 64 (leNat ((bs.drop k).take 8))
  let r := (d 0).getLsbD 57
  { entry := (d 0).extractLsb' 0 57, range := r, bound := (d 0).getLsbD 58, promoted := (d 0).getLsbD 59
    join := d 8
    lo := if r then w 16 else 0#32, hi := if r then w 20 else 0#32, grain := if r then w 24 else 0#32
    args := if r then [w 28, w 32, w 36, w 40] else [w 16, w 20, w 24, w 28, w 32, w 36]
    site := (d 48).extractLsb' 0 57, bwidth := (d 56).extractLsb' 0 2, bpos := (d 56).extractLsb' 2 5, dv := dv, poison := p }

/-! The frame stack (12 R284, R289). -/

/-- Where frame `i` of a thread stands in memory: the lowest 4 KiB of its block. DEDUCED (log 45). -/
def frameLoc (s : State) (t : Thread) (i : Nat) : Option Nat := devLoc s (ctxOf s t) (t.block.base + 64 * i) Access.both
/-- Frame `i`, counted from 0 at the oldest: on chip, or read from memory, poisoned where its bytes are or lie on an
unreachable module (19 R398; 22 R430). DEDUCED (log 45). -/
def frameAt (s : State) (t : Thread) (i : Nat) : Option Frame :=
  match t.spilled[i]? with
  | some dv =>
    match frameLoc s t i with
    | some l => some (frameOf (loadP s l 64).1 dv (loadP s l 64).2)
    | none => some (frameOf [] dv false)
  | none => t.chip[i - t.spilled.length]?
/-- What the access of frame `i` in memory costs: its walk and its image (14_scheduling.md R348).
DEDUCED (log 91). -/
def frameCost (s : State) (t : Thread) (i : Nat) : List (Nat × Nat) := devCost s (ctxOf s t) (t.block.base + 64 * i) 64
/-- A frame's image written to its place, or dropped with its record (22 R430). DEDUCED (log 45). -/
def writeFrame (s : State) (t : Thread) (i : Nat) (f : Frame) : State :=
  match frameLoc s t i with
  | some l => store (chargeAll s (ctxOf s t) (frameCost s t i)) (ctxOf s t) l (frameBytes f) f.poison
  | none => s
/-- What reading back the frames of a thread costs that it has read from memory as `t` becomes `t'`. -/
def framesRead (s : State) (t t' : Thread) : List (Nat × Nat) :=
  (List.range t.spilled.length).flatMap fun i => if i < t'.spilled.length then [] else frameCost s t i
/-- Those frames charged (14_scheduling.md R348). -/
def chargeFrames (s : State) (t t' : Thread) : State := chargeAll s (ctxOf s t) (framesRead s t t')
/-- What writing the frames of a thread from the `i`-th on costs, `n` of them. -/
def framePlaces (s : State) (t : Thread) (i n : Nat) : List (Nat × Nat) :=
  (List.range n).flatMap fun k => frameCost s t (i + k)
/-- Frame `i` changed. -/
def setFrameAt (s : State) (t : Thread) (i : Nat) (f : Frame) : State × Thread :=
  if i < t.spilled.length then (writeFrame s t i f, t)
  else (s, { t with chip := t.chip.set (i - t.spilled.length) f })
/-- The newest frame. -/
def newest (s : State) (t : Thread) : Option Frame := if fsp t == 0 then none else frameAt s t (fsp t - 1)
/-- The oldest frame on chip written to memory. -/
def spillOldest (s : State) (t : Thread) : State × Thread :=
  match t.chip with
  | [] => (s, t)
  | f :: r => (writeFrame s t t.spilled.length f, { t with spilled := t.spilled ++ [f.dv], chip := r })
/-- Every frame on chip written to memory (12 R286; 16_contexts_translation.md R374). -/
def spillAll : Nat → State → Thread → State × Thread
  | 0, s, t => (s, t)
  | n + 1, s, t => let r := spillOldest s t; spillAll n r.1 r.2
/-- A frame pushed: on chip, after the oldest there when four stand on chip or the pool cannot supply 16 registers; in
memory when none is on chip (12 R284). -/
def pushFrame (s : State) (p : Nat) (t : Thread) (f : Frame) : State × Thread :=
  let room := decide (16 ≤ poolOfLane s p)
  if t.chip.length < 4 && room then (s, { t with chip := t.chip ++ [f] })
  else if t.chip.isEmpty then (writeFrame s t t.spilled.length f, { t with spilled := t.spilled ++ [f.dv] })
  else
    let r := spillOldest s t
    (r.1, { r.2 with chip := r.2.chip ++ [f] })
/-- What a push costs that writes a frame to memory. -/
def pushPlaces (s : State) (p : Nat) (t : Thread) : List (Nat × Nat) :=
  if t.chip.length < 4 && decide (16 ≤ poolOfLane s p) then [] else framePlaces s t t.spilled.length 1
/-- Frames brought back on chip while fewer than four stand there and the pool supplies 16 registers (12 R284).
DEDUCED (log 44). -/
def refill : Nat → State → Nat → Thread → Thread
  | 0, _, _, t => t
  | n + 1, s, p, t =>
    if t.chip.length < 4 && !t.spilled.isEmpty && decide (16 ≤ poolOfLane (s.setThr p t) p) then
      match frameAt s t (t.spilled.length - 1) with
      | some f => refill n s p { t with spilled := t.spilled.dropLast, chip := f :: t.chip }
      | none => t
    else t
/-- The newest frame popped; with the last one goes the mark that the frame at depth 0 was received (13 R306).
DEDUCED (log 44). -/
def popFrame (s : State) (p : Nat) (t : Thread) : Thread :=
  let t' := if t.chip.isEmpty then { t with spilled := t.spilled.dropLast } else { t with chip := t.chip.dropLast }
  refill 4 s p { t' with recv := t.recv && fsp t' != 0 }
/-- Whether a lane can take back the registers of a lent thread, and its frames (12 R286). -/
def restoreFits (s : State) (p : Nat) (t : Thread) : Bool :=
  !t.lent || decide (t.allot - 16 + 16 * t.lentFrames ≤ poolOfLane s p)
/-- A thread as it issues again after its lane was lent: its registers back in the pool, and the frames that the lending
wrote out back on chip (12 R286). DEDUCED (log 44). -/
def restored (s : State) (p : Nat) (t : Thread) : Thread :=
  if t.lent then refill t.lentFrames s p { t with lent := false, lentFrames := 0 } else t
/-- A thread put in its place as it issues: its registers and frames restored. -/
def restoreThread (s : State) (p : Nat) (t : Thread) : State :=
  if t.lent then (chargeFrames s t (restored s p t)).setThr p (restored s p t) else s
/-- Whether a frame is eligible (12 R290); of a poisoned one the device tells nothing. DESIGN CHOICE (log 112). -/
def Frame.eligible (f : Frame) : Bool :=
  !f.poison && if f.range then decide (f.grain.toInt < f.hi.toInt - f.lo.toInt) else !f.promoted
/-- The index of the newest frame that satisfies a test, searching `n` frames down. -/
def findFrame (s : State) (t : Thread) (test : Frame → Bool) : Nat → Option (Nat × Frame)
  | 0 => none
  | n + 1 =>
    match frameAt s t n with
    | some f => if test f then some (n, f) else findFrame s t test n
    | none => findFrame s t test n
/-- The candidate of a thread: its oldest eligible frame (12 R290). -/
def candidate (s : State) (t : Thread) : Option (Nat × Frame) :=
  ((List.range (fsp t)).filterMap fun i => (frameAt s t i).map (i, ·)).find? fun e => e.2.eligible

end Sys2Proof.Machine
end

