-- ==== Sys2Proof/Machine/Cells.lean ====
section
/-! DEFINITION. Promise cells (05_promise_cells.md). A message carries a walk and then an event from owner to owner; one
step of it is one step at an owner. Its steps follow at once, or, when the device takes that outcome, one by one between
the steps of others (`Choices.mesh`). -/

namespace Sys2Proof.Machine

/-! The cell (05 R135, Table 1). -/

/-- The state of a cell's bits. -/
def cellState (x : BitVec 128) : CellState :=
  match field x 126 2 with
  | 0 => .empty
  | 1 => .full
  | 2 => .linked
  | _ => .count
/-- code(s) (05 R150). -/
def CellState.code : CellState → Nat
  | .empty => 0
  | .full => 1
  | .linked => 2
  | .count => 3
/-- The body. -/
def cellBody (x : BitVec 128) : DWord := x.extractLsb' 0 64
/-- The parent a LINKED body names. -/
def cellParent (x : BitVec 128) : Nat := field x 0 57
/-- The 16 bytes at a location. -/
def cellAt (s : State) (loc : Nat) : BitVec 128 := BitVec.ofNat 128 (leNat (s.read loc 16))
/-- The threads waiting through records held for a cell (05 R145). -/
def waitersAt (s : State) (loc : Nat) : List CellWaiter := s.cellWaiters.filter (·.loc == loc)
/-- A cell written: its state, its body and the count of its waiters, saturating (05 R145). -/
def putCell (s : State) (loc : Nat) (st : CellState) (body : DWord) : State :=
  s.write loc (toBytes 16 (body.toNat + min 16383 (waitersAt s loc).length * 2 ^ 112 + st.code * 2 ^ 126))
/-- A cell LINKED to a parent, with the location the parent has, where it is known (05 R139, R144, R157). -/
def noteLink (s : State) (loc : Nat) (parent : Option Nat) : State :=
  { s with links := match parent with
      | some l => mset s.links loc l
      | none => mdel s.links loc }
/-- A visited LINKED cell rewritten: its state and body change, wsum stands (05 R139, R145), and the reserved bits are
written 0 (00_scope.md R10). -/
def rewriteCell (s : State) (loc : Nat) (st : CellState) (body : DWord) : State :=
  let x := cellAt s loc
  s.write loc (toBytes 16 (setField (setField (setField x 126 2 st.code) 64 48 0) 0 64 body.toNat).toNat)
/-- The wsum of a cell brought up to date in its top two bytes; its other fields and its poison stand (05 R143, R145). -/
def putWsum (s : State) (loc : Nat) : State :=
  s.write (loc + 14) (toBytes 2 (min 16383 (waitersAt s loc).length + (cellState (cellAt s loc)).code * 2 ^ 14))
    (s.poisoned loc 16)
/-- The waiter count of a cell brought up to date. -/
def countCell (s : State) (loc : Nat) : State := putCell s loc (cellState (cellAt s loc)) (cellBody (cellAt s loc))

/-! Records (05 R142, R143). -/

/-- What a record names beside its cell: a module, when it is another one, and a core (05 R142).
DESIGN CHOICE (log 47). -/
def CellWaiter.key (w : CellWaiter) : Option Nat × Nat := (w.module, w.core)
/-- The records an owner holds: one for each cell, module and core, and those it still forwards. -/
def recordsOf (s : State) (owner : Nat) : Nat :=
  ((s.cellWaiters.filter fun w => ownerOf s w.loc == owner).map fun w => (w.loc, w.key)).eraseDups.length
    + (s.forwards.filter fun f => ownerOf s f.2.src == owner).length
/-- Whether an owner has room for a waiter at a cell: 512 records, `mine` more when it forwards the one that comes
(05 R142). -/
def recordRoom (s : State) (loc : Nat) (key : Option Nat × Nat) (mine : Nat) : Bool :=
  (s.cellWaiters.any fun w => w.loc == loc && w.key == key) || decide (recordsOf s (ownerOf s loc) < 512 + mine)

/-- A waiting thread's instruction completed with a value (05 R150; 13_thread_instructions.md R305 to R307). -/
def completeWait (s : State) (t : Thread) (c : CellCont) (v : DWord) : Thread :=
  match c with
  | .wait d => (t.setV64 d v).wake s
  | .join => (t.setV64 0#7 v).wake s
  | .joinr => t.wake s
  | .ending value =>
    { (if value then t.setV64 0#7 v else t) with ending := true, status := .ready s.cycle }
/-- A recorded thread is woken with the class's value, exactly once (05 R143, R147). -/
def wakeCell (s : State) (v : DWord) (w : Nat × Option Nat) : State :=
  match whoGet s w.1 w.2 with
  | some t =>
    match t.status with
    | .parked (.cell c) => whoSet s w.1 w.2 (completeWait s t c v)
    | _ => s
  | none => s
/-- The fill of a cell (05 R144, R147): its body the value, every record for it woken. -/
def fillCell (s : State) (loc : Nat) (v : DWord) : State :=
  let l := waitersAt s loc
  let s1 := { s with cellWaiters := s.cellWaiters.filter (·.loc != loc) }
  ((l.filter (·.module.isNone)).map fun w => (w.place, w.team)).foldl (fun s w => wakeCell s v w) (putCell s1 loc .full v)
/-- A waiter held at a cell (05 R144). -/
def holdWaiter (s : State) (w : CellWaiter) : State :=
  countCell { s with cellWaiters := s.cellWaiters ++ [w] } w.loc
/-- A thread's waiter record at a cell (05 R142). -/
def threadWaiter (loc va ctx place : Nat) : CellWaiter := ⟨loc, va, ctx, place, none, none, coreOf place⟩

/-! Traps (05 R152; 19_faults_traps_preemption.md R395, Table 1). -/

/-- The conflicting-fill fault: the cell, the root reached, its value, count or state, and the one supplied.
Where no root is reached, in a chain that is too long, they are the last LINKED cell, the code of LINKED and 0; of a CEQU
the root named is that of its operand cell. DESIGN CHOICE (log 50). -/
def conflict (sub cell root : Nat) (have_ given : DWord) : Trap :=
  mkTrap .conflictingFill sub (BitVec.ofNat 64 cell) (BitVec.ofNat 64 root) have_ given

/-- A cell reached by a walk or an event: translated under the context, its permissions as the instruction's; outside
host memory, its module reachable, not poisoned (05 R149, R151, R157; 22 R431). DEDUCED (log 49). -/
def reachCell (s : State) (ctx named va : Nat) (a : Access) : Chk (Nat × BitVec 128) :=
  (translate s 144 ctx (BitVec.ofNat 64 va) a.notHost).bind fun pl =>
    if isLost s pl.loc then .trap (mkTrap .poison 0 (BitVec.ofNat 64 named))
    else if s.poisoned pl.loc 16 then .trap (mkTrap .poison 0 (BitVec.ofNat 64 va))
    else .ok (pl.loc, cellAt s pl.loc)

/-- What an instruction needs of the cells it reaches (05 R149). DEDUCED (log 49). -/
def Goal.access : Goal → Access
  | .fill .. | .count .. | .equate _ => Access.both
  | .init .. => Access.store
  | _ => Access.load

/-! Forwarded records (05 R142). -/

/-- The cell that the CWAIT of a parked thread names, else the cell of its record. DEDUCED (log 55). -/
def cellNamed (s : State) (p : Nat) (t : Thread) (va : Nat) : DWord :=
  match peek s p t with
  | some (_, _, .cwait _ o) => memEa s t o.m
  | _ => BitVec.ofNat 64 va
/-- A thread whose record is lost takes the fault at its instruction (22 R431). DEDUCED (log 55). -/
def loseWaiter (s : State) (place : Nat) (team : Option Nat) (va : Nat) : State :=
  match whoGet s place team with
  | some t =>
    match t.status with
    | .parked (.cell _) => trapWho s place team t (mkTrap .poison 0 (cellNamed s place t va))
    | _ => s
  | none => s
/-- Every thread of a lost record in transit. -/
def loseForward (s : State) (f : Forward) : State :=
  if f.module.isSome then s else f.who.foldl (fun s w => loseWaiter s w.1 w.2 f.va) s
/-- Where a forwarded record travels to: the location its target had when it left, or has now. DEDUCED (log 49). -/
def forwardLoc (s : State) (f : Forward) : Option Nat := f.loc.or (devLoc s f.ctx f.va Access.none)
/-- Where the parent of a LINKED cell lies: as its address translates, or where it lay when the cell was linked, so that an
unmapped member keeps no record in transit from its class (05 R157). DEDUCED (log 49). -/
def parentLoc (s : State) (ctx loc va : Nat) : Option Nat := (devLoc s ctx va Access.none).or (mget s.links loc)
/-- What an attempt of a forwarded record costs: the walk of its address, and its cell (14_scheduling.md R348).
DEDUCED (log 91). -/
def forwardCost (s : State) (f : Forward) (loc : Nat) : List (Nat × Nat) :=
  walkCost s 0 f.ctx (BitVec.ofNat 64 f.va) ++ [(loc, 16)]
/-- One attempt of a forwarded record: it follows links, wakes its threads at a FULL cell, merges where there is room, is
lost with its waits toward an unreachable module (22 R431), and otherwise stays for a retry. The owner of a LINKED cell that
it reaches forwards it from there. DEDUCED (log 49). -/
def forwardStep (s : State) (k : Nat) : State :=
  match mget s.forwards k with
  | none => s
  | some f =>
    match forwardLoc s f with
    | none => s
    | some loc =>
      let paid := chargeAll s f.ctx (forwardCost s f loc)
      let gone := { paid with forwards := mdel s.forwards k }
      let x := cellAt s loc
      if isLost s loc then loseForward gone f
      else if s.poisoned loc 16 || isHost loc || !ctxMay s f.ctx loc || !allFit s f.ctx (forwardCost s f loc) then s
      else
        match cellState x with
        | .full => if f.module.isSome then gone else f.who.foldl (fun s w => wakeCell s (cellBody x) w) gone
        | .linked =>
          let f1 := { f with src := loc, va := cellParent x, loc := parentLoc s f.ctx loc (cellParent x) }
          { paid with forwards := mset s.forwards k f1 }
        | _ =>
          if f.who.isEmpty then gone
          else if recordRoom s loc (f.module, f.core) (if ownerOf s f.src == ownerOf s loc then 1 else 0) then
            f.who.foldl (fun s w => holdWaiter s ⟨loc, f.va, f.ctx, w.1, w.2, f.module, f.core⟩) gone
          else s
/-- Attempts of a forwarded record, one after another, while it travels: at most 1,025 links. -/
def forwardGo : Nat → State → Nat → State
  | 0, s, _ => s
  | n + 1, s, k => if (mget s.forwards k).isSome then forwardGo n (forwardStep s k) k else s
/-- The records of a cell that becomes LINKED, one forward for each module and core (05 R142). -/
def forwardAll (s : State) (loc va ctx : Nat) : State :=
  let l := waitersAt s loc
  ((l.map (·.key)).eraseDups).foldl (fun s key =>
    let who := (l.filter fun w => w.key == key).map fun w => (w.place, w.team)
    let k := s.serial
    let s1 := State.bump { s with
      cellWaiters := s.cellWaiters.filter fun w => !(w.loc == loc && w.key == key)
      forwards := mset s.forwards k ⟨loc, va, parentLoc s ctx loc va, ctx, key.1, key.2, who⟩ }
    if s.choices.mesh then s1 else forwardGo 1026 s1 k) s

/-! Messages. -/

/-- A thread's instruction ends in a trap at its cell; an ending that was under way stays so (13 R307). -/
def trapMsg (s : State) (m : Msg) (tr : Trap) : State :=
  match s.thr m.place with
  | none => s
  | some t =>
    let ends := match m.goal with
      | .wait (.ending _) => true
      | .count _ (some (_, .ending _)) => true
      | _ => false
    takeTrap s m.place (if ends then { t with ending := true } else t) tr

/-- What CPEEK writes (05 R150). -/
def peekValue (r : Root) : DWord := BitVec.ofNat 64 (r.va % 2 ^ 57 + min r.hops 31 * 2 ^ 57 + r.st.code * 2 ^ 62)

/-- A thread's instruction completes with what its message answers: the root it reached, its state and its body. -/
def finishMsg (s : State) (m : Msg) (r : Root) : State :=
  match s.thr m.place with
  | none => s
  | some t =>
    let go (t : Thread) : State := s.setThr m.place (t.wake s)
    match m.goal with
    | .fill x true =>
      if t.ln == 0#64 then s.setThr m.place { t with ending := true, status := .ready s.cycle }
      else s.setThr m.place ((t.setV64 0#7 x).goTo s t.ln)
    | .count _ (some (waits, c)) =>
      let t1 := popFrame s m.place t
      let s1 := chargeFrames s t t1
      if waits && r.st != .full then
        s1.setThr m.place { t1 with status := .parked (.cell c) }
      else s1.setThr m.place (completeWait s t1 c r.body)
    | .wait c =>
      let t1 := match c with
        | .wait _ => t
        | _ => popFrame s m.place t
      let s1 := chargeFrames s t t1
      if r.st == .full then s1.setThr m.place (completeWait s t1 c r.body)
      else s1.setThr m.place { t1 with status := .parked (.cell c) }
    | .test q d =>
      if r.st == .full then go ((t.setPred q true).setV64 d r.body) else go ((t.setPred q false).setV64 d 0#64)
    | .peek d => go (t.setQuad d r.body (peekValue r))
    | .init .. => s
    | _ => go t

/-- A message that ends well. -/
def endMsg (s : State) (k : Nat) (m : Msg) (r : Root) : State := finishMsg { s with msgs := mdel s.msgs k } m r
/-- A message that ends in a trap. -/
def failMsg (s : State) (k : Nat) (m : Msg) (tr : Trap) : State := trapMsg { s with msgs := mdel s.msgs k } m tr
/-- A message moved on. -/
def setMsg (s : State) (k : Nat) (m : Msg) : State := { s with msgs := mset s.msgs k m }
/-- A CEQU walks again (05 R150). DEDUCED (log 52). -/
def restart (s : State) (k : Nat) (m : Msg) : State :=
  setMsg s k { m with stage := .walk m.cell, hops := 0, visited := [], roots := [], result := none, first := [], sent := none }

/-- CEQU once both roots are known (05 R150). Its own FILL answers the walk that found the root it fills, so the cells of
that walk are rewritten (05 R139). Its conflict names the operand cell's root, never that of va. DESIGN CHOICE (log 50).
DEDUCED (log 51). DEDUCED (log 102). -/
def decide2 (s : State) (k : Nat) (m : Msg) (x y : Root) : State :=
  if x.loc == y.loc then endMsg s k m y
  else
    match x.st, y.st with
    | .empty, .empty =>
      let h := if x.va < y.va then y else x
      let l := if x.va < y.va then x else y
      setMsg s k { m with stage := .event (.link l.va) h.va, roots := [x, y] }
    | .full, .empty => setMsg s k { m with stage := .event (.fill x.body) y.va, roots := [x, y] }
    | .empty, .full => setMsg s k { m with stage := .event (.fill y.body) x.va, roots := [x, y], visited := m.first }
    | .full, .full => if x.body == y.body then endMsg s k m y else failMsg s k m (conflict 0 m.cell x.va x.body y.body)
    | .count, .empty => setMsg s k { m with stage := .event (.link x.va) y.va, roots := [x, y] }
    | .empty, .count => setMsg s k { m with stage := .event (.link y.va) x.va, roots := [x, y] }
    | _, _ =>
      failMsg s k m (conflict 1 m.cell x.va (BitVec.ofNat 64 x.st.code) (BitVec.ofNat 64 y.st.code))

/-- A message whose walk has returned a root (05 R150). DEDUCED (log 102). -/
def proceed (s : State) (k : Nat) (m : Msg) (r : Root) : State :=
  match m.goal with
  | .fill x _ => setMsg s k { m with stage := .event (.fill x) r.va }
  | .count d _ => setMsg s k { m with stage := .event (.count d) r.va }
  | .wait _ => setMsg s k { m with stage := .event .wait r.va }
  | .test .. | .peek _ => setMsg s k { m with stage := .event .query r.va, roots := if m.roots.isEmpty then [r] else m.roots }
  | .init c x => setMsg s k { m with stage := .event (.init c x) r.va }
  | .equate other =>
    match m.sent with
    | some v => setMsg s k { m with stage := .event (.fill v) r.va }
    | none =>
      match m.roots with
      | [] => setMsg s k { m with stage := .walk other, hops := 0, first := m.visited, visited := [], roots := [r] }
      | x :: _ => decide2 s k m x r

/-- One step of a walk at the owner of the cell it reads (05 R139). The chain-broken record, where no root is reached,
names the last LINKED cell and its state (05 R152). DESIGN CHOICE (log 50). -/
def walkStep (s : State) (k : Nat) (m : Msg) (va : Nat) : State :=
  match reachCell s m.ctx m.cell va m.goal.access with
  | .trap tr => failMsg s k m tr
  | .stall _ => s
  | .ok (loc, x) =>
    if cellState x != .linked then
      let r : Root := ⟨va, loc, cellState x, cellBody x, m.hops⟩
      if r.st == .full && !m.visited.isEmpty then setMsg s k { m with stage := .reply r } else proceed s k m r
    else
      let p := cellParent x
      match reachCell s m.ctx m.cell p m.goal.access with
      | .trap tr => failMsg s k m tr
      | .stall _ => s
      | .ok (loc2, y) =>
        let m' := { m with hops := m.hops + 1, visited := m.visited ++ [(loc, va)] }
        let halve := ownerOf s loc != ownerOf s loc2 && cellState y == .linked
        let s' := if halve then noteLink (rewriteCell s loc .linked (BitVec.ofNat 64 (cellParent y))) loc (mget s.links loc2) else s
        if 1024 ≤ m.hops then failMsg s' k m (conflict 3 m.cell va (BitVec.ofNat 64 CellState.linked.code) 0#64)
        else setMsg s' k { m' with stage := .walk (if halve then cellParent y else p) }

/-- A visited cell rewritten: one that is still LINKED becomes FULL with the root's value (05 R139). -/
def rewriteLinked (s : State) (loc : Nat) (v : DWord) : State :=
  if cellState (cellAt s loc) == .linked then rewriteCell s loc .full v else s
/-- The reply passes back through the cells a walk visited, in this order, and each is rewritten (05 R139); it stops at a
poisoned one with the fault at that cell (05 R151), and at one of an unreachable module with the fault at the cell the
instruction named (22 R431). DEDUCED (log 49). -/
def passBack (s : State) (named : Nat) (v : DWord) : List (Nat × Nat) → State × Option Trap
  | [] => (s, none)
  | c :: r =>
    if isLost s c.1 then (s, some (mkTrap .poison 0 (BitVec.ofNat 64 named)))
    else if s.poisoned c.1 16 then (s, some (mkTrap .poison 0 (BitVec.ofNat 64 c.2)))
    else passBack (rewriteLinked s c.1 v) named v r
/-- What a message does once its reply has passed back, from the cell visited last. DEDUCED (log 49). -/
def afterReply (s : State) (k : Nat) (m : Msg) (v : DWord) (go : State → State) : State :=
  match passBack s m.cell v m.visited.reverse with
  | (s1, some tr) => failMsg s1 k m tr
  | (s1, none) => go s1
/-- The reply passes back (05 R139). -/
def replyStep (s : State) (k : Nat) (m : Msg) (r : Root) : State :=
  afterReply s k m r.body fun s1 =>
    match m.result with
    | some x => endMsg s1 k m x
    | none => proceed s1 k { m with visited := [] } r

/-- An event has been performed: a reply follows when the walk visited cells and the root is now FULL. -/
def answered (s : State) (k : Nat) (m : Msg) (r : Root) : State :=
  if r.st == .full && !m.visited.isEmpty then setMsg s k { m with stage := .reply r, result := some r } else endMsg s k m r

/-- A FILL at a cell that is not LINKED (05 R144). A CEQU whose FILL found its root changed walks again (05 R150).
DEDUCED (log 52). -/
def fillEvent (s : State) (k : Nat) (m : Msg) (x : DWord) (r : Root) : State :=
  let equates := match m.goal with
    | .equate _ => true
    | _ => false
  match r.st with
  | .empty =>
    let s1 := fillCell s r.loc x
    if m.sent.isSome then afterReply s1 k m x fun s2 => restart s2 k m
    else answered s1 k m { r with st := .full, body := x }
  | .full =>
    if r.body == x then if equates then afterReply s k m x fun s1 => restart s1 k m else answered s k m r
    else failMsg s k m (conflict 0 m.cell r.va r.body x)
  | _ => failMsg s k m (conflict 1 m.cell r.va (BitVec.ofNat 64 r.st.code) x)

/-- A COUNT at a cell that is not LINKED (05 R144). A JOINR that waits is recorded in the same step, or, with no room for
its record, waits for some as a WAIT (13 R306; 05 R143). DEDUCED (log 53). -/
def countEvent (s : State) (k : Nat) (m : Msg) (d : DWord) (r : Root) : State :=
  match r.st with
  | .count =>
    let n : Int := r.body.toNat + d.toInt
    if n = 0 then answered (fillCell s r.loc 0#64) k m { r with st := .full, body := 0#64 }
    else if 0 < n ∧ n < 2 ^ 63 then
      let b := BitVec.ofNat 64 n.toNat
      let s1 := putCell s r.loc .count b
      match m.goal with
      | .count _ (some (true, c)) =>
        if recordRoom s r.loc (none, coreOf m.place) 0 then
          endMsg (holdWaiter s1 (threadWaiter r.loc r.va m.ctx m.place)) k m { r with body := b }
        else setMsg s1 k { m with goal := .wait c, stage := .event .wait r.va }
      | _ => endMsg s1 k m { r with body := b }
    else failMsg s k m (conflict 2 m.cell r.va r.body d)
  | _ => failMsg s k m (conflict 1 m.cell r.va (BitVec.ofNat 64 r.st.code) d)

/-- A WAIT at a cell that is not LINKED (05 R144): no room stalls the thread, holding its lane (05 R143). -/
def waitEvent (s : State) (k : Nat) (m : Msg) (r : Root) : State :=
  match r.st with
  | .full => answered s k m r
  | _ =>
    if recordRoom s r.loc (none, coreOf m.place) 0 then endMsg (holdWaiter s (threadWaiter r.loc r.va m.ctx m.place)) k m r
    else
      match s.thr m.place with
      | some t => if t.status = .stalled (.message k) then s else s.setThr m.place { t with status := .stalled (.message k) }
      | none => s

/-- An INIT at the named cell itself (05 R144). -/
def initEvent (s : State) (k : Nat) (m : Msg) (count : Bool) (x : DWord) (loc : Nat) : State :=
  let r : Root := ⟨m.cell, loc, .empty, 0#64, 0⟩
  if !count then endMsg (putCell s loc .empty 0#64) k m r
  else if x == 0#64 then endMsg (fillCell s loc 0#64) k m r
  else endMsg (putCell s loc .count x) k m r

/-- The answer of a QUERY: an EMPTY root's value is 0 (05 R144, Table 2), and CPEEK names the root and the hops its walk
returned (05 R150). -/
def queried (m : Msg) (r : Root) : Root :=
  let r1 := if r.st == .empty then { r with body := 0#64 } else r
  match m.goal, m.roots with
  | .peek _, x :: _ => { r1 with va := x.va, hops := x.hops }
  | _, _ => r1
/-- An event at the owner of its target (05 R144, Table 2): at a LINKED cell it follows the link as a continued walk. The
target of an INIT is the location its instruction translated. DEDUCED (log 52). -/
def eventStep (s : State) (k : Nat) (m : Msg) (ev : CellEv) (va : Nat) : State :=
  match ev with
  | .init c x =>
    if isLost s va then endMsg (lostRecord s m.ctx va) k m ⟨m.cell, va, .empty, 0#64, 0⟩ else initEvent s k m c x va
  | _ =>
    match reachCell s m.ctx m.cell va m.goal.access with
    | .trap tr => failMsg s k m tr
    | .stall _ => s
    | .ok (loc, x) =>
      let r : Root := ⟨va, loc, cellState x, cellBody x, m.hops⟩
      match ev, m.goal with
      | .link t, _ =>
        if r.st == .empty then
          let s0 := noteLink (rewriteCell s loc .linked (BitVec.ofNat 64 t)) loc ((m.roots.find? (·.va == t)).map (·.loc))
          let s1 := forwardAll s0 loc t m.ctx
          endMsg (countCell s1 loc) k m r
        else restart s k m
      | _, _ =>
        if r.st == .linked then
          setMsg s k { m with stage := .walk va, sent := match ev, m.goal with
            | .fill v, .equate _ => some v
            | _, _ => m.sent }
        else
          match ev with
          | .fill x => fillEvent s k m x r
          | .count d => countEvent s k m d r
          | .wait => waitEvent s k m r
          | _ => answered s k m (queried m r)

/-- Where a message stands. -/
def msgStage (s : State) (k : Nat) : Option Stage :=
  match mget s.msgs k with
  | some m => some m.stage
  | none => none
/-- The run state of the thread at a place. -/
def statusOf (s : State) (p : Nat) : Option Status :=
  match s.thr p with
  | some t => some t.status
  | none => none

/-- Whether a message stands at an event that waits for room in a waiter table (05 R143). -/
def msgFull (s : State) (m : Msg) : Bool :=
  match statusOf s m.place, m.stage with
  | some (.stalled (.message _)), .event .wait _ => true
  | _, _ => false
/-- The cells that the next step of a message accesses, with the walk of a parent's address (14_scheduling.md R348).
DEDUCED (log 91). -/
def msgCost (s : State) (m : Msg) : List (Nat × Nat) :=
  let cell (va : Nat) : List (Nat × Nat) := match devLoc s m.ctx va Access.none with
    | some l => [(l, 16)]
    | none => []
  if msgFull s m then []
  else
    match m.stage with
    | .walk va => (if m.hops == 0 then [] else walkCost s 144 m.ctx (BitVec.ofNat 64 va)) ++ cell va
    | .reply _ => m.visited.map (·.1, 16)
    | .event (.init ..) loc => [(loc, 16)]
    | .event _ va => cell va
/-- The frames that a message's thread would read back if its next step completed the join (13 R305, R306). -/
def joinFrames (s : State) (m : Msg) : List (Nat × Nat) :=
  let pops := match m.goal with
    | .count _ (some _) | .wait .join | .wait .joinr | .wait (.ending _) => true
    | _ => false
  let ends := match m.stage with
    | .walk _ => false
    | _ => true
  if pops && ends then
    match s.thr m.place with
    | some t => framesRead s t (popFrame s m.place t)
    | none => []
  else []
/-- Whether the budget of a message's context admits its next step. -/
def msgFits (s : State) (m : Msg) : Bool := allFit s m.ctx (msgCost s m ++ joinFrames s m)
/-- One step of a message, when its context's budget admits it. DEDUCED (log 91). -/
def msgStep (s : State) (k : Nat) : State :=
  match mget s.msgs k with
  | none => s
  | some m =>
    if !msgFits s m then s
    else
      let s1 := chargeAll s m.ctx (msgCost s m)
      match m.stage with
      | .walk va => walkStep s1 k m va
      | .reply r => replyStep s1 k m r
      | .event ev va => eventStep s1 k m ev va

/-- Whether a message waits: for room in a waiter table, or for its context's budget. -/
def msgBlocked (s : State) (k : Nat) : Bool :=
  match mget s.msgs k with
  | none => false
  | some m => msgFull s m || !msgFits s m

/-- The steps of a message, one after another, until it ends or waits for room: two walks of at most 1,025 cells, their
replies and an event. -/
def msgGo : Nat → State → Nat → State
  | 0, s, _ => s
  | n + 1, s, k => if (mget s.msgs k).isSome && !msgBlocked s k then msgGo n (msgStep s k) k else s

/-- The thread at `p` sends a message: a CINIT proceeds, a CWAIT or JOIN parks at once, every other instruction holds its
thread until the reply (05 R149). It goes on at `npc`. `target` is the cell as the message is sent to it: its location for
an INIT, else its address. DESIGN CHOICE (log 10). -/
def sendMsg (s : State) (p : Nat) (t : Thread) (cell : Nat) (goal : Goal) (npc : DWord) (loc : Nat := 0) : State :=
  let k := s.serial
  let t1 : Thread := match goal with
    | .wait c => { t with status := .parked (.cell c), npc := npc }
    | .init .. => Thread.wake { t with npc := npc } s
    | _ => { t with status := .stalled (.message k), npc := npc }
  let stage : Stage := match goal with
    | .init c x => .event (.init c x) loc
    | _ => .walk cell
  let s1 := State.bump (s.setThr p t1)
  let s2 := { s1 with msgs := mset s1.msgs k ⟨ctxOf s t, p, cell, goal, stage, 0, [], [], none, [], none⟩ }
  if s.choices.mesh then s2 else msgGo 4200 s2 k

/-! Events of the device itself, which wait for nothing (05 R155, R156; 14_scheduling.md R328). -/

/-- How an event of the device ended: the state, and the root or the trap. -/
inductive DevRes where
  | ok (s : State) (r : Root)
  | trap (s : State) (t : Trap)
  deriving DecidableEq, Repr

/-- The walk of a device's event: the state after its compression, the cells visited, and the root. As in a thread's walk,
the record of one longer than 1,024 hops names the last LINKED cell it read (05 R139, R152). DESIGN CHOICE (log 50). -/
def devWalk (s : State) (ctx named : Nat) (a : Access) :
    Nat → Nat → List (Nat × Nat) → Nat → State × List (Nat × Nat) × Chk Root
  | 0, va, vis, _ => (s, vis, .trap (conflict 3 named va (BitVec.ofNat 64 CellState.linked.code) 0#64))
  | n + 1, va, vis, hops =>
    match reachCell s ctx named va a with
    | .trap t => (s, vis, .trap t)
    | .stall w => (s, vis, .stall w)
    | .ok (loc, x) =>
      let s1 := chargeAll s ctx (walkCost s 144 ctx (BitVec.ofNat 64 va) ++ [(loc, 16)])
      if cellState x != .linked then (s1, vis, .ok ⟨va, loc, cellState x, cellBody x, hops⟩)
      else
        match reachCell s ctx named (cellParent x) a with
        | .trap t => (s1, vis, .trap t)
        | .stall w => (s1, vis, .stall w)
        | .ok (loc2, y) =>
          let halve := ownerOf s loc != ownerOf s loc2 && cellState y == .linked
          let s2 := if halve then noteLink (rewriteCell s1 loc .linked (BitVec.ofNat 64 (cellParent y))) loc (mget s.links loc2)
            else s1
          devWalk s2 ctx named a n (if n == 0 then va else if halve then cellParent y else cellParent x) (vis ++ [(loc, va)]) (hops + 1)

/-- The cells that an event of the device reads, in order: those of its walk, with the walks of their addresses
(14_scheduling.md R348). -/
def devCells (s : State) (ctx named : Nat) (a : Access) : Nat → Nat → List (Nat × Nat)
  | 0, _ => []
  | n + 1, va =>
    match reachCell s ctx named va a with
    | .ok (loc, x) => walkCost s 144 ctx (BitVec.ofNat 64 va) ++ (loc, 16) ::
        if cellState x == .linked then devCells s ctx named a n (cellParent x) else []
    | _ => []
/-- Whether the budget of a context admits an event of the device at a cell now. DEDUCED (log 91). -/
def devFits (s : State) (ctx cell : Nat) : Bool := allFit s ctx (devCells s ctx cell Access.load 1025 cell)

/-- How an event of the device ends once the reply to its walk has passed back (05 R139, R151). -/
def devBack (s : State) (named : Nat) (vis : List (Nat × Nat)) (v : DWord) (go : State → DevRes) : DevRes :=
  match passBack s named v vis.reverse with
  | (s1, some t) => .trap s1 t
  | (s1, none) => go s1
/-- A FILL by the device at Find(cell). -/
def devFill (s : State) (ctx cell : Nat) (x : DWord) : DevRes :=
  match devWalk s ctx cell Access.both 1025 cell [] 0 with
  | (s1, _, .trap t) => .trap s1 t
  | (s1, _, .stall _) => .trap s1 (mkTrap .absence 0 (BitVec.ofNat 64 cell))
  | (s1, vis, .ok r) =>
    match r.st with
    | .empty => devBack (fillCell s1 r.loc x) cell vis x fun s2 => .ok s2 { r with st := .full, body := x }
    | .full =>
      devBack s1 cell vis r.body fun s2 => if r.body == x then .ok s2 r else .trap s2 (conflict 0 cell r.va r.body x)
    | _ => .trap s1 (conflict 1 cell r.va (BitVec.ofNat 64 r.st.code) x)

/-- A COUNT by the device at Find(cell). -/
def devCount (s : State) (ctx cell : Nat) (d : DWord) : DevRes :=
  match devWalk s ctx cell Access.both 1025 cell [] 0 with
  | (s1, _, .trap t) => .trap s1 t
  | (s1, _, .stall _) => .trap s1 (mkTrap .absence 0 (BitVec.ofNat 64 cell))
  | (s1, vis, .ok r) =>
    match r.st with
    | .count =>
      let n : Int := r.body.toNat + d.toInt
      if n = 0 then devBack (fillCell s1 r.loc 0#64) cell vis 0#64 fun s2 => .ok s2 { r with st := .full, body := 0#64 }
      else if 0 < n ∧ n < 2 ^ 63 then
        .ok (putCell s1 r.loc .count (BitVec.ofNat 64 n.toNat)) { r with body := BitVec.ofNat 64 n.toNat }
      else .trap s1 (conflict 2 cell r.va r.body d)
    | .full => devBack s1 cell vis r.body fun s2 => .trap s2 (conflict 1 cell r.va (BitVec.ofNat 64 r.st.code) d)
    | _ => .trap s1 (conflict 1 cell r.va (BitVec.ofNat 64 r.st.code) d)

/-- A QUERY by the device at Find(cell). -/
def devQuery (s : State) (ctx cell : Nat) : DevRes :=
  match devWalk s ctx cell Access.load 1025 cell [] 0 with
  | (s1, _, .trap t) => .trap s1 t
  | (s1, _, .stall _) => .trap s1 (mkTrap .absence 0 (BitVec.ofNat 64 cell))
  | (s1, vis, .ok r) => if r.st == .full then devBack s1 cell vis r.body fun s2 => .ok s2 r else .ok s1 r

/-- An INIT by FORK or FORKR at a located cell, performed at .team (13 R303); on an unreachable module the write is
dropped with its record (22 R430). DEDUCED (log 54). -/
def initCell (s : State) (ctx loc : Nat) (count : Bool) (m : DWord) : State :=
  if isLost s loc then lostRecord s ctx loc
  else if !count then putCell s loc .empty 0#64 else if m == 0#64 then fillCell s loc 0#64 else putCell s loc .count m

/-- Whether an event of another module follows a link (05 R144, Table 2). -/
def followsLink : CellReq → Bool
  | .fill _ | .count _ | .wait .. => true
  | _ => false
/-- Where an event of another module goes on from a LINKED cell: to its parent, while that lies on this module. -/
def nextHere (s : State) (ctx loc : Nat) : Option Nat :=
  match devLoc s ctx (cellParent (cellAt s loc)) Access.none with
  | some l => if isHere s l then some l else none
  | none => none
/-- The cells of this module that an event of another one reads, in order. -/
def requestCells : Nat → State → Nat → CellReq → Nat → List Nat
  | 0, _, _, _, _ => []
  | n + 1, s, ctx, ev, loc =>
    loc :: if followsLink ev && !s.poisoned loc 16 && cellState (cellAt s loc) == .linked then
        match nextHere s ctx loc with
        | some l => requestCells n s ctx ev l
        | none => []
      else []
/-- Whether a record of a context names the thread of another module at a place, or with an index of its swapped-out team. -/
def namesAway (ctx module : Nat) (who : Nat × Option Nat) (c : Nat) (m : Option Nat) (w : Nat × Option Nat) : Bool :=
  c == ctx && m == some module && w == who
/-- What another module's forced reset, swap and resumption do to the records here that name its threads, as this module's own
do to its own (05 R143): the records discarded and the waiters of their cells lowered; or the thread named anew.
DESIGN CHOICE (log 47). -/
def discardAway (s : State) (ctx module : Nat) (who : Nat × Option Nat) : State :=
  let mine (w : CellWaiter) : Bool := namesAway ctx module who w.ctx w.module (w.place, w.team)
  let gone := s.cellWaiters.filter mine
  let s1 := { s with
    cellWaiters := s.cellWaiters.filter fun w => !mine w
    forwards := (s.forwards.map fun f => (f.1, { f.2 with
      who := f.2.who.filter fun w => !namesAway ctx module who f.2.ctx f.2.module w })).filter fun f => !f.2.who.isEmpty }
  ((gone.map (·.loc)).eraseDups).foldl (fun s l => if isLost s l then s else putWsum s l) s1
/-- The records that name a thread of another module name it as `to_`, with its core where it has a new one (05 R143).
DESIGN CHOICE (log 47). -/
def renameAway (s : State) (ctx module : Nat) (who to_ : Nat × Option Nat) (core : Option Nat) : State :=
  let is (c : Nat) (m : Option Nat) (w : Nat × Option Nat) : Bool := namesAway ctx module who c m w
  { s with
    cellWaiters := s.cellWaiters.map fun w =>
      if is w.ctx w.module (w.place, w.team) then { w with place := to_.1, team := to_.2, core := core.getD w.core } else w
    forwards := s.forwards.map fun f => (f.1, { f.2 with
      core := if f.2.who.any (is f.2.ctx f.2.module ·) then core.getD f.2.core else f.2.core
      who := f.2.who.map fun w => if is f.2.ctx f.2.module w then to_ else w }) }
/-- An event of another module at a cell of this one, performed at its owner (05 R144, Table 2): at a LINKED cell it follows
the link while that stays on this module; at a poisoned one it stops, unless it is an INIT (05 R151). Its reply goes to that
module, and the reply of that module's walk rewrites the cells it visited here (05 R139). DESIGN CHOICE (log 47). -/
def cellRequest : Nat → State → Nat → CellReq → Nat → State
  | 0, s, _, _, _ => s
  | n + 1, s, ctx, ev, loc =>
    let x := cellAt s loc
    let st := cellState x
    let stops := s.poisoned loc 16 && match ev with
      | .init .. | .discard .. | .mark .. | .rename .. => false
      | _ => true
    let onward : State := match nextHere s ctx loc with
      | some l => cellRequest n s ctx ev l
      | none => s
    if stops then s
    else
    match ev with
    | .relink p g =>
      if st == .linked && cellParent x == p then
        noteLink (rewriteCell s loc .linked (BitVec.ofNat 64 g)) loc (devLoc s ctx g Access.none)
      else s
    | .reply v => rewriteLinked s loc v
    | .discard mo place team => discardAway s ctx mo (place, team)
    | .mark mo core slot team tid => renameAway s ctx mo (core * 2048 + slot, none) (tid, some team) none
    | .rename mo team tid core slot => renameAway s ctx mo (tid, some team) (core * 2048 + slot, none) (some core)
    | .init c m => initCell s ctx loc c m
    | .link t =>
      if st == .empty then
        let s0 := noteLink (rewriteCell s loc .linked (BitVec.ofNat 64 t)) loc (devLoc s ctx t Access.none)
        countCell (forwardAll s0 loc t ctx) loc
      else s
    | .fill v => match st with
      | .empty => fillCell s loc v
      | .linked => onward
      | _ => s
    | .count d => match st with
      | .count =>
        let m : Int := (cellBody x).toNat + d.toInt
        if m = 0 then fillCell s loc 0#64
        else if 0 < m ∧ m < 2 ^ 63 then putCell s loc .count (BitVec.ofNat 64 m.toNat) else s
      | .linked => onward
      | _ => s
    | .wait mo core slot => match st with
      | .full => s
      | .linked => onward
      | _ => if recordRoom s loc (some mo, core) 0 then
          holdWaiter s ⟨loc, apertureVa s ctx loc, ctx, core * 2048 + slot, none, some mo, core⟩ else s

/-! The instructions (05 R148 to R150). -/

/-- The virtual address by which a cell is known: a window cell by its aperture address (05 R441). -/
def cellVa (s : State) (t : Thread) (m : MemOp) (pl : Place) : Nat :=
  if m.win then apertureVa s (ctxOf s t) pl.loc else (memEa s t m).toNat

/-- The checks of a cell (05 R149): alignment, permissions, host memory, translation; its address and its location. -/
def locateCell (s : State) (p : Nat) (t : Thread) (m : MemOp) (a : Access) : Chk (Nat × Nat) :=
  (locate s p t m.win (memEa s t m) 16 a.notHost).bind fun pl => .ok (cellVa s t m pl, pl.loc)

/-- A cell instruction of one cell. -/
def runCell (g : Guard) (i : Instr) (m : MemOp) (a : Access) (goal : Thread → Goal) (s : State) : Out :=
  run g i s noCheck (fun t => locateCell s s.cur t m a) fun t c =>
    sendMsg s s.cur t c.1 (goal t) (nextPc t.pc (parcelsOf i)) c.2

/-- CINIT (05 R150). -/
def execCinit (g : Guard) (o : CellOps) (s : State) : Out :=
  runCell g (.cinit g o) o.m Access.store (fun _ => .init false 0#64) s
/-- CINIT.count (05 R150): m at or above 2^63 conflicts. No walk precedes it, so the root its record names is the cell
itself, with the body the cell then holds (05 R152). DESIGN CHOICE (log 50). -/
def execCinitCount (g : Guard) (o : CellOps) (s : State) : Out :=
  run g (.cinitCount g o) s noCheck (fun t => locateCell s s.cur t o.m Access.store) fun t c =>
    let m := t.rv64 o.d
    if m.msb then takeTrap s s.cur t (conflict 2 c.1 c.1 (cellBody (cellAt s c.2)) m)
    else sendMsg s s.cur t c.1 (.init true m) (nextPc t.pc (parcelsOf (.cinitCount g o))) c.2
/-- CFILL (05 R150). -/
def execCfill (g : Guard) (o : CellOps) (s : State) : Out :=
  runCell g (.cfill g o) o.m Access.both (fun t => .fill (t.rv64 o.d) false) s
/-- CFILL.cnt (05 R150). -/
def execCfillCnt (g : Guard) (o : CellOps) (s : State) : Out :=
  runCell g (.cfillCnt g o) o.m Access.both (fun t => .count (t.rv64 o.d) none) s
/-- CWAIT (05 R150). -/
def execCwait (g : Guard) (o : CellOps) (s : State) : Out :=
  runCell g (.cwait g o) o.m Access.load (fun _ => .wait (.wait o.d)) s
/-- CEQU (05 R149, R150): both cells are checked, the cell first: their alignment, their permissions, host memory, and
their translation. -/
def execCequ (g : Guard) (o : CellOps) (s : State) : Out :=
  run g (.cequ g o) s noCheck
    (fun t =>
      let va := t.rv64 o.b
      let at_ (a : Access) : List (Chk Nat) :=
        [(locate s s.cur t o.m.win (memEa s t o.m) 16 a).bind fun pl => .ok (cellVa s t o.m pl),
         (locate s s.cur t false va 16 a).bind fun _ => .ok va.toNat]
      rankAll (at_ Access.both ++ at_ Access.both.notHost))
    fun t l =>
      match l with
      | a :: b :: _ => sendMsg s s.cur t a (.equate b) (nextPc t.pc (parcelsOf (.cequ g o)))
      | _ => s
/-- CTEST (05 R150). -/
def execCtest (g : Guard) (la : BitVec 4) (q : PReg) (o : CellOps) (s : State) : Out :=
  runCell g (.ctest g la q o) o.m Access.load (fun _ => .test q o.d) s
/-- CPEEK (05 R150). -/
def execCpeek (g : Guard) (la : BitVec 4) (o : CellOps) (s : State) : Out :=
  runCell g (.cpeek g la o) o.m Access.load (fun _ => .peek o.d) s

/-! The steps of messages as events of their own. -/

/-- WALK_STEP: one step of the walk of message `k` (05 R139). -/
def execWalkStep (k : Nat) (s : State) : Out :=
  match msgStage s k with
  | some (.walk _) => .next (msgStep s k)
  | _ => .next s
/-- WALK_REPLY: the reply of message `k` passes back (05 R139). -/
def execWalkReply (k : Nat) (s : State) : Out :=
  match msgStage s k with
  | some (.reply _) => .next (msgStep s k)
  | _ => .next s
/-- FILL_EVENT (05 R144). -/
def execFillEvent (k : Nat) (s : State) : Out :=
  match msgStage s k with
  | some (.event (.fill _) _) => .next (msgStep s k)
  | _ => .next s
/-- COUNT_EVENT (05 R144). -/
def execCountEvent (k : Nat) (s : State) : Out :=
  match msgStage s k with
  | some (.event (.count _) _) => .next (msgStep s k)
  | _ => .next s
/-- LINK_EVENT (05 R144). -/
def execLinkEvent (k : Nat) (s : State) : Out :=
  match msgStage s k with
  | some (.event (.link _) _) => .next (msgStep s k)
  | _ => .next s
/-- WAIT_EVENT (05 R144). -/
def execWaitEvent (k : Nat) (s : State) : Out :=
  match msgStage s k with
  | some (.event .wait _) => .next (msgStep s k)
  | _ => .next s
/-- QUERY_EVENT (05 R144). -/
def execQueryEvent (k : Nat) (s : State) : Out :=
  match msgStage s k with
  | some (.event .query _) => .next (msgStep s k)
  | _ => .next s
/-- INIT_EVENT (05 R144). -/
def execInitEvent (k : Nat) (s : State) : Out :=
  match msgStage s k with
  | some (.event (.init ..) _) => .next (msgStep s k)
  | _ => .next s
/-- WAITER_RECORD_FORWARD: an attempt of the forwarded record `k` (05 R142). -/
def execWaiterRecordForward (k : Nat) (s : State) : Out := .next (forwardStep s k)

end Sys2Proof.Machine
end

