-- ==== Sys2Proof/Machine/WorkLists.lean ====
section
/-! DEFINITION. Work lists and SPAWN (13_thread_instructions.md R315 to R318; 14_scheduling.md R320, R334). -/

namespace Sys2Proof.Machine

/-! The header (13 R316, Table 3a). -/

/-- A header as a unit reads it. DEDUCED (log 64). -/
structure WlHead where
  va    : DWord
  loc   : Nat
  base  : Nat
  log2  : Nat
  flog2 : Nat
  fbase : Nat
  head  : Nat
  tail  : Nat
  starve : Bool
  deriving DecidableEq, Repr

/-- The header in 64 bytes. DEDUCED (log 64). -/
def wlHead (va : DWord) (loc : Nat) (bs : List Byte) : WlHead :=
  let x := BitVec.ofNat 512 (leNat bs)
  { va := va, loc := loc, base := field x 0 57, log2 := field x 64 5, flog2 := field x 72 5, fbase := field x 128 57
    head := field x 192 64, tail := field x 256 64, starve := x.getLsbD 320 }
/-- Whether every field lies in the range of Table 3a. -/
def WlHead.ok (h : WlHead) : Bool :=
  decide (10 ≤ h.log2) && decide (h.log2 ≤ 28) && (h.flog2 == 0 || (decide (10 ≤ h.flog2) && decide (h.flog2 ≤ 30)))
    && h.base % 64 == 0 && h.fbase % 64 == 0
/-- The fields the units write: head, tail and starve. -/
def putHead (s : State) (h : WlHead) : State :=
  (s.write (h.loc + 24) (toBytes 8 h.head ++ toBytes 8 h.tail)).write (h.loc + 40) (toBytes 1 (if h.starve then 1 else 0))
/-- The tag of a ring position. -/
def posTag (h : WlHead) (p : Nat) : Nat := p / 2 ^ h.log2 % (2 ^ 32 - 1) + 1
/-- The address of a position's slot. -/
def posVa (h : WlHead) (p : Nat) : DWord := BitVec.ofNat 64 (h.base + 8 * (p % 2 ^ h.log2))
/-- The entries of a list on chip, on a core. -/
def onChip (s : State) (core team : Nat) (va : DWord) : List WlEntry :=
  (s.core core).wl.filter fun e => e.team == team && e.header == va
/-- Whether a unit has room for an entry: 4,096 on chip. -/
def wlRoom (s : State) (core : Nat) : Bool := decide ((s.core core).wl.length < 4096)
/-- The entries of a core's unit, set. -/
def setWl (s : State) (core : Nat) (l : List WlEntry) : State := s.setCore core { s.core core with wl := l }
/-- A slot of the ring: its location, entry and tag; `pri` as in a translation. -/
def ringSlot (s : State) (core ctx pri : Nat) (h : WlHead) (p : Nat) : Chk (Nat × Nat × Nat) :=
  (translate s core ctx (posVa h p) Access.both false pri).bind fun pl =>
    let r := loadP s pl.loc 8
    if r.2 then .trap (mkTrap .poison 0 (posVa h p)) else .ok (pl.loc, leNat (r.1.take 4), leNat (r.1.drop 4))

/-- The header an instruction names: alignment, permissions, translation, its space, then its fields (13 R317). -/
def locateHead (s : State) (p : Nat) (t : Thread) (va : DWord) : Chk WlHead :=
  (locate s p t false va 64 Access.both.notHost).bind fun pl =>
    let r := loadP s pl.loc 64
    if r.2 then .trap (mkTrap .poison 0 va)
    else if (wlHead va pl.loc r.1).ok then .ok (wlHead va pl.loc r.1) else .trap (spaceTrap va pl.leaf)

/-! Spill and refill. -/

/-- What a push does: it places its entry where the unit has room; else it spills the oldest entry of its list to a
slot that is empty; else nothing (13 R317). -/
inductive Push where
  | place
  | spill (loc : Nat)
  | full
  deriving DecidableEq, Repr

/-- What a push of this list will do. DEDUCED (log 64). -/
def planPush (s : State) (core ctx team pri : Nat) (h : WlHead) : Chk Push :=
  if wlRoom s core then .ok .place
  else if (onChip s core team h.va).isEmpty then .ok .full
  else (ringSlot s core ctx pri h h.tail).bind fun x => .ok (if x.2.2 == 0 then .spill x.1 else .full)

/-- The oldest entry of a list taken from its unit. DEDUCED (log 65). -/
def takeEntry (s : State) (core team : Nat) (va : DWord) : State × Option Word :=
  let l := (s.core core).wl
  match l.find? fun e => e.team == team && e.header == va with
  | some e => (setWl s core (l.erase e), some e.value)
  | none => (s, none)
/-- An entry written to the slot of the tail position, which is claimed. -/
def spillTo (s : State) (h : WlHead) (loc : Nat) (v : Word) : State :=
  putHead (s.write loc (toBytes 4 v.toNat ++ toBytes 4 (posTag h h.tail))) { h with tail := (h.tail + 1) % 2 ^ 64 }
/-- A push performed: the state, and whether the entry was placed. -/
def performPush (s : State) (core ctx team : Nat) (h : WlHead) (v : Word) : Push → State × Bool
  | .place => (setWl s core ((s.core core).wl ++ [⟨team, ctx, h.va, v⟩]), true)
  | .spill loc =>
    let r := takeEntry s core team h.va
    let s1 := match r.2 with
      | some x => spillTo (chargeDram r.1 ctx loc 8) h loc x
      | none => r.1
    (setWl s1 core ((s1.core core).wl ++ [⟨team, ctx, h.va, v⟩]), true)
  | .full => (s, false)

/-- The positions a refill reads, from head up, while their slots are full (13 R316): locations and entries. -/
def planRefill (s : State) (core ctx pri : Nat) (h : WlHead) : Nat → Nat → Chk (List (Nat × Nat))
  | 0, _ => .ok []
  | n + 1, p =>
    if p == h.tail then .ok []
    else
      (ringSlot s core ctx pri h p).bind fun x =>
        if x.2.2 == posTag h p then
          (planRefill s core ctx pri h n ((p + 1) % 2 ^ 64)).bind fun r => .ok ((x.1, x.2.1) :: r)
        else .ok []
/-- How many positions a refill may claim: 256, as far as the unit has room; one always, for the pop itself. -/
def refillCount (s : State) (core : Nat) : Nat := min 256 (max 1 (4096 - (s.core core).wl.length))
/-- A refill performed: the slots emptied, the head advanced, starve cleared. -/
def performRefill (s : State) (core ctx team : Nat) (h : WlHead) (l : List (Nat × Nat)) : State :=
  if l.isEmpty then s
  else
    let s1 := l.foldl (fun s e => s.write e.1 (toBytes 8 0)) (chargeAll s ctx (l.map fun e => (e.1, 8)))
    let s2 := putHead s1 { h with head := (h.head + l.length) % 2 ^ 64, starve := false }
    setWl s2 core ((s2.core core).wl ++ l.map fun e => ⟨team, ctx, h.va, BitVec.ofNat 32 e.2⟩)

/-! The instructions (13 R317). -/

/-- WLPUSH. DEDUCED (log 64). -/
def execWlpush (g : Guard) (o : SpawnOps) (s : State) : Out :=
  let core := coreOf s.cur
  run g (.wlpush g o) s noCheck
    (fun t => (locateHead s s.cur t (upairVal s t o.a)).bind fun h =>
      (planPush s core (ctxOf s t) t.team t.pri h).bind fun pl => .ok (h, pl))
    fun t x =>
      let r := performPush s core (ctxOf s t) t.team x.1 (t.rv o.b) x.2
      finish (.wlpush g o) r.1 s.cur (t.setPred o.q r.2)

/-- How WLINS finds whether its value is present: on chip, never, or in the bitmap, whose 32-bit word is at a location. -/
inductive Seen where
  | chip (present : Bool)
  | word (loc : Nat) (old : Word)
  deriving DecidableEq, Repr

/-- Whether a value is present. -/
def Seen.present (x : Seen) (v : Word) : Bool :=
  match x with
  | .chip b => b
  | .word _ old => old.getLsbD (v.toNat % 32)
/-- The address of the filter's word for a value. -/
def filterVa (h : WlHead) (v : Word) : DWord := BitVec.ofNat 64 (h.fbase + 4 * (v.toNat / 32))
/-- The filter's answer, before its bit is set; the atomic's checks as ATOM's (04_memory_instructions.md R114, R115). -/
def planFilter (s : State) (core ctx team pri : Nat) (h : WlHead) (v : Word) : Chk Seen :=
  if h.flog2 == 0 then .ok (.chip ((onChip s core team h.va).any (·.value == v)))
  else if 2 ^ h.flog2 ≤ v.toNat then .ok (.chip false)
  else
    let ea := filterVa h v
    (translate s core ctx ea (Access.both.notHost 6) false pri).bind fun pl =>
      let r := loadP s pl.loc 4
      if r.2 then .trap (mkTrap .poison 0 ea) else .ok (.word pl.loc (BitVec.ofNat 32 (leNat r.1)))
/-- The filter's bit set. -/
def setFilter (s : State) (ctx : Nat) (v : Word) : Seen → State
  | .chip _ => s
  | .word loc old => store (chargeDram s ctx loc 4) ctx loc (toBytes 4 (old ||| 1#32 <<< (v.toNat % 32)).toNat)

/-- The ordered-cell fault of the filter's atomic at a live cell (03_memory_model.md R105). -/
def filterLive (s : State) (h : WlHead) (v : Word) : Seen → Chk Unit
  | .chip _ => .ok ()
  | .word loc _ => .ofTrap ((liveAt s loc 4).map (liveTrap (filterVa h v)))
/-- What WLINS checks: the header, the filter's word, where the value is not present the push, and last, as the rank of its
cause has it (19_faults_traps_preemption.md R395), that no live ordered cell holds the word. -/
def planInsert (s : State) (p : Nat) (t : Thread) (va : DWord) (v : Word) : Chk (WlHead × Seen × Push) :=
  (locateHead s p t va).bind fun h =>
    (planFilter s (coreOf p) (ctxOf s t) t.team t.pri h v).bind fun f =>
      (if f.present v then .ok Push.full else planPush s (coreOf p) (ctxOf s t) t.team t.pri h).bind fun pl =>
        (filterLive s h v f).bind fun _ => .ok (h, f, pl)
/-- WLINS. -/
def execWlins (g : Guard) (o : SpawnOps) (s : State) : Out :=
  let core := coreOf s.cur
  run g (.wlins g o) s noCheck (fun t => planInsert s s.cur t (upairVal s t o.a) (t.rv o.b)) fun t x =>
      let s1 := setFilter s (ctxOf s t) (t.rv o.b) x.2.1
      let r := performPush s1 core (ctxOf s t) t.team x.1 (t.rv o.b) x.2.2
      finish (.wlins g o) r.1 s.cur (t.setPred o.q r.2)

/-- WLPOP. DEDUCED (log 65). -/
def execWlpop (g : Guard) (la : BitVec 4) (o : WlpopOps) (s : State) : Out :=
  let core := coreOf s.cur
  let i : Instr := .wlpop g la o
  run g i s noCheck
    (fun t => (locateHead s s.cur t (upairVal s t o.a)).bind fun h =>
      if (onChip s core t.team h.va).isEmpty then
        (planRefill s core (ctxOf s t) t.pri h (refillCount s core) h.head).bind fun l => .ok (h, l)
      else .ok (h, []))
    fun t x =>
      let s1 := performRefill s core (ctxOf s t) t.team x.1 x.2
      let r := takeEntry s1 core t.team x.1.va
      match r.2 with
      | some v => finish i r.1 s.cur ((t.setV o.d v).setPred o.q true)
      | none => finish i (putHead r.1 { x.1 with starve := true }) s.cur (t.setPred o.q false)

/-- WLCNT. -/
def execWlcnt (g : Guard) (la : BitVec 4) (o : WlcntOps) (s : State) : Out :=
  run g (.wlcnt g la o) s noCheck (fun t => locateHead s s.cur t (upairVal s t o.a)) fun t h =>
    let n := (onChip s (coreOf s.cur) t.team h.va).length
    finish (.wlcnt g la o) s s.cur
      (t.setV64 o.d (BitVec.ofNat 64 n + (BitVec.ofNat 64 h.tail - BitVec.ofNat 64 h.head)))

/-! Spills of the device: at a beat, a team's end and before a swap (13 R318). -/

/-- One list of a team on a core spilled as far as its ring has room, at most `n` entries. A header or a slot that does not
translate, or is poisoned, has no room. DEDUCED (log 65). -/
def spillList : Nat → State → Nat → Nat → Nat → DWord → State
  | 0, s, _, _, _, _ => s
  | n + 1, s, core, ctx, team, va =>
    match translate s core ctx va Access.both false 1 with
    | .ok pl =>
      let r := loadP s pl.loc 64
      let h := wlHead va pl.loc r.1
      if r.2 || !h.ok then s
      else
        match ringSlot s core ctx 1 h h.tail with
        | .ok (loc, _, 0) =>
          match takeEntry s core team va with
          | (s1, some v) => spillList n (spillTo s1 h loc v) core ctx team va
          | (_, none) => s
        | _ => s
    | _ => s
/-- Whether a list's starve bit is set. -/
def starving (s : State) (core ctx : Nat) (va : DWord) : Bool :=
  match translate s core ctx va Access.both false 1 with
  | .ok pl => (wlHead va pl.loc (s.read pl.loc 64)).starve
  | _ => false
/-- The lists with entries on a core: team, context, header. -/
def listsOn (s : State) (core : Nat) : List (Nat × Nat × DWord) :=
  ((s.core core).wl.map fun e => (e.team, e.ctx, e.header)).eraseDups
/-- The bytes that a unit accesses of a context at an address, with their walk, on a core (14 R348).
DEDUCED (log 91). -/
def unitCost (s : State) (core ctx : Nat) (va : DWord) (n : Nat) : List (Nat × Nat) :=
  walkCost s core ctx va ++
    match translate s core ctx va Access.none false 1 with
    | .ok pl => [(pl.loc, n)]
    | _ => []
/-- What the spill of `n` entries of a list costs: its header, and the slots. DEDUCED (log 91). -/
def spillPlaces (s : State) (core ctx : Nat) (va : DWord) (n : Nat) : List (Nat × Nat) :=
  match translate s core ctx va Access.both false 1 with
  | .ok pl =>
    let h := wlHead va pl.loc (s.read pl.loc 64)
    if n == 0 then [] else unitCost s core ctx va 64 ++ (List.range n).flatMap fun k => unitCost s core ctx (posVa h (h.tail + k)) 8
  | _ => []
/-- A list spilled as `spillList` does, and charged. -/
def spillCharged (s : State) (n core ctx team : Nat) (va : DWord) : State :=
  let s1 := spillList n s core ctx team va
  chargeAll s1 ctx (spillPlaces s core ctx va ((onChip s core team va).length - (onChip s1 core team va).length))
/-- The entries of a list on chip that the budget of a context admits to the ring now, at most `n` (14 R348). -/
def spillCount (s : State) (core ctx : Nat) (va : DWord) : Nat → Nat
  | 0 => 0
  | n + 1 => if allFit s ctx (spillPlaces s core ctx va (n + 1)) then n + 1 else spillCount s core ctx va n
/-- The starved lists of a core spilled, at a beat. -/
def starveSpill (s : State) (core : Nat) : State :=
  (listsOn s core).foldl (fun s e =>
    if starving s core e.2.1 e.2.2 then
      spillCharged s (spillCount s core e.2.1 e.2.2 (onChip s core e.1 e.2.2).length) core e.2.1 e.1 e.2.2
    else s) s
/-- What the spill of an ended team's lists on a core costs. -/
def endPlaces (s : State) (core team : Nat) : List (Nat × Nat) :=
  ((listsOn s core).filter (·.1 == team)).flatMap fun e =>
    spillPlaces s core e.2.1 e.2.2 (onChip s core team e.2.2).length
/-- The lists of an ended team spilled on a core; what finds no room is discarded with a record (13 R318; 19 R401).
DEDUCED (log 65). -/
def endSpill (s : State) (core team : Nat) : State :=
  ((listsOn s core).filter (·.1 == team)).foldl (fun s e =>
    let s1 := spillCharged s 4096 core e.2.1 team e.2.2
    let left := (onChip s1 core team e.2.2).length
    if left == 0 then s1
    else
      deviceRecord (setWl s1 core ((s1.core core).wl.filter fun x => !(x.team == team && x.header == e.2.2)))
        (unitWork core) e.2.1 2 20 0 e.2.2.toNat left 0 0) s

/-! Queue descriptors (14 R320, Table 1), and SPAWN. -/

/-- A field of a queue's descriptor. -/
def qfield (s : State) (q off w : Nat) : Nat := field (s.queue q).desc off w
/-- A field of a queue's descriptor, set. -/
def setQfield (s : State) (q off w v : Nat) : State :=
  s.setQueue q { s.queue q with desc := setField (s.queue q).desc off w v }
/-- The queue's state: 0 idle, 1 running, 2 failed. -/
def qstate (s : State) (q : Nat) : Nat := qfield s q 192 2
/-- The slots of a queue's ring. -/
def qslots (s : State) (q : Nat) : Nat := 2 ^ qfield s q 64 5
/-- The slots written and not passed, modulo 2^32. -/
def qbacklog (s : State) (q : Nat) : Nat := (qfield s q 128 32 + 2 ^ 32 - qfield s q 160 32) % 2 ^ 32
/-- The virtual address of slot k of a queue's stream (14 R321). -/
def slotVa (s : State) (q k : Nat) : Nat := qfield s q 0 57 + 64 * (k % qslots s q)

/-- The queue SPAWN names: device-resident, of the thread's context (13 R315); the fault's address is that of the task
record, the one address the instruction names. DEDUCED (log 63). -/
def spawnQueue (s : State) (t : Thread) (va : DWord) (q : Nat) : Chk Unit :=
  if q < 8192 && qfield s q 59 1 == 1 && qfield s q 57 1 == 0 && qfield s q 96 12 == ctxOf s t then .ok ()
  else .trap (mkTrap .permission 4 va)
/-- Whether SPAWN's queue has room for three slots; a failed queue has none. -/
def spawnRoom (s : State) (q : Nat) : Bool := qstate s q != 2 && decide (qbacklog s q + 3 ≤ qslots s q)
/-- The packet SPAWN builds from the template and the record (14 R334, Table 9). -/
def spawnPacket (tmpl record : List Byte) : List Byte :=
  toBytes 8 (2 + 3 * 2 ^ 8 + 4 * 2 ^ 13) ++ toBytes 8 0 ++ tmpl.take 8 ++ toBytes 8 0 ++ toBytes 4 1
    ++ (tmpl.drop 8).take 4 ++ (tmpl.drop 16).take 8 ++ List.replicate 80 0#8 ++ record
/-- The addresses of SPAWN's accesses beside its record: the queue's template, and the three slots its packet goes to. -/
def spawnVas (s : State) (q : Nat) : DWord × List DWord :=
  (BitVec.ofNat 64 (qfield s q 256 57), (List.range 3).map fun k => BitVec.ofNat 64 (slotVa s q (qfield s q 128 32 + k)))
/-- What SPAWN reads and writes, all checked together: the record and the queue, and where that has room the template and
the three slots (19_faults_traps_preemption.md R395). DEDUCED (log 63). DEDUCED (log 27). -/
def spawnPlan (s : State) (p : Nat) (t : Thread) (va : DWord) (q : Nat) :
    Chk (Option (List Byte × List Place)) :=
  let at_ (v : DWord) (a : Access) : Chk Place := translate s (coreOf p) (ctxOf s t) v a false t.pri
  let x := spawnVas s q
  let mine := locate s p t false va 64 Access.load
  let rest := if (spawnQueue s t va q) == .ok () && spawnRoom s q then at_ x.1 Access.load :: x.2.map (at_ · Access.store) else []
  (mine.bind fun _ => .ok ()).beside ((spawnQueue s t va q).beside ((rankAll (mine :: rest)).bind fun l =>
    match l with
    | rec_ :: tm :: r =>
      let a := loadP s rec_.loc 64
      let b := loadP s tm.loc 24
      if a.2 then .trap (mkTrap .poison 0 va)
      else if b.2 then .trap (mkTrap .poison 0 x.1)
      else .ok (some (spawnPacket b.1 a.1, r))
    | _ => .ok none))
/-- The bytes of SPAWN's accesses beside its record. -/
def spawnPlaces (s : State) (ctx q : Nat) : List (Nat × Nat) :=
  if spawnRoom s q then devCost s ctx (spawnVas s q).1.toNat 24 ++ (spawnVas s q).2.flatMap fun v => devCost s ctx v.toNat 64
  else []
/-- SPAWN (13 R315; 14 R334): the packet appended, and the doorbell rung. DEDUCED (log 63). -/
def execSpawn (g : Guard) (o : SpawnOps) (s : State) : Out :=
  run g (.spawn g o) s noCheck (fun t => spawnPlan s s.cur t (upairVal s t o.a) (t.rv o.b).toNat) fun t x =>
    let q := (t.rv o.b).toNat
    match x with
    | none => finish (.spawn g o) s s.cur (t.setPred o.q false)
    | some (bs, l) =>
      let s1 := (l.zipIdx).foldl (fun s e => store s (ctxOf s t) e.1.loc ((bs.drop (64 * e.2)).take 64))
        (chargeAll s (ctxOf s t) (spawnPlaces s (ctxOf s t) q))
      finish (.spawn g o) (setQfield s1 q 128 32 ((qfield s q 128 32 + 3) % 2 ^ 32)) s.cur (t.setPred o.q true)

end Sys2Proof.Machine
end

