-- ==== Sys2Proof/Machine/Packets.lean ====
section
/-! DEFINITION. Command queues and packets: doorbells, the Piccolo and the Bassoon, rank programs, dispatch and completion
(14_scheduling.md R320 to R342). -/

namespace Sys2Proof.Machine

/-! Reads of the device under a context (14 R326). -/

/-- Bytes of a context's memory as a unit of the device reads them: a fault, poison, or the bytes. -/
def devRead (s : State) (ctx va n : Nat) (a : Access := Access.load) : Chk (List Byte) :=
  (rankAll ((pagePieces (BitVec.ofNat 64 va) n).map fun q =>
    (translate s 0 ctx q.1 a false 1).bind fun pl => .ok (pl.loc, q.2))).bind fun l =>
    if piecesPoisoned s l then .trap (mkTrap .poison 0 (BitVec.ofNat 64 va)) else .ok (readPieces s l)

/-- The status of a packet one of whose structures cannot be read: 8 where a piece of it lies on an unreachable module,
else 6 (14 R328, Table 5). -/
def readFault (s : State) (ctx va n : Nat) : Nat :=
  if (pagePieces (BitVec.ofNat 64 va) n).any fun q =>
      match translate s 0 ctx q.1 Access.load false 1 with
      | .ok pl => isLost s pl.loc
      | _ => false
  then 8 else 6
/-- A slot of a queue's ring: under its PASID when the ring is in host memory, else under its context. -/
def ringRead (s : State) (q k : Nat) : Chk (List Byte) :=
  if qfield s q 57 1 == 1 then
    let l := hostLoc (qfield s q 108 20) (slotVa s q k)
    if s.poisoned l 64 then .trap (mkTrap .poison 0 (BitVec.ofNat 64 (slotVa s q k))) else .ok (s.read l 64)
  else devRead s (qfield s q 96 12) (slotVa s q k) 64

/-! Packets (14 R322, R323). -/

/-- A field of a packet's bytes: byte offset, bit, width. -/
def pfield (bs : List Byte) (off bit w : Nat) : Nat := leNat ((bs.drop off).take 8) / 2 ^ bit % 2 ^ w
/-- The slots of a packet. -/
def packetSlots (bs : List Byte) : Nat := pfield bs 0 8 3
/-- Whether the packet carries a warm block. -/
def packetWarm (bs : List Byte) : Bool := pfield bs 0 12 1 == 1
/-- The completion cell. -/
def packetDone (bs : List Byte) : Nat := pfield bs 8 0 57
/-- Whether Table 3 permits a type with its slots: a TASKS packet has 3 when its record is inline, its records field 0
(14 R331). DEDUCED (log 70). -/
def slotsOk (typ slots rec : Nat) (warm : Bool) : Bool :=
  match typ with
  | 1 => slots == 2
  | 2 => slots == if rec == 0 then 3 else 2
  | 3 | 4 | 5 | 6 | 7 => slots == 1
  | 8 => slots == if warm then 2 else 1
  | _ => false

/-- A shape word and a resources dword (14 R330, Tables 7 and 8). -/
structure Shape where
  width    : Nat
  gangs    : Nat
  w        : Nat
  h        : Nat
  share    : Nat
  slotNeed : Nat
  kib      : Nat
  stagger  : Nat
  deriving DecidableEq, Repr

/-- The shape a LAUNCH packet names at bytes 28–31, a TASKS packet at 36–39, with its resources. -/
def packetShape (typ : Nat) (bs : List Byte) : Shape :=
  let o := if typ == 1 then 28 else 36
  let r := if typ == 1 then 32 else 40
  { width := 16 * 2 ^ pfield bs o 9 2, gangs := pfield bs o 0 5, w := pfield bs o 5 2, h := pfield bs o 7 2
    share := pfield bs r 16 12, slotNeed := pfield bs r 32 7, kib := pfield bs r 0 11, stagger := pfield bs r 40 12 }
/-- Whether a shape and its resources are in their ranges, their reserved bits zero (01_assembly_language.md R39). -/
def shapeOk (typ : Nat) (bs : List Byte) : Bool :=
  let o := if typ == 1 then 28 else 36
  let r := if typ == 1 then 32 else 40
  let x := packetShape typ bs
  pfield bs o 11 21 == 0 && pfield bs o 9 2 != 3 && 1 ≤ x.h && x.h ≤ 3 && 1 ≤ x.w && x.w ≤ 3 && 1 ≤ x.gangs
    && x.gangs ≤ 24 && x.w * x.h ≤ 6 && x.gangs * x.width ≤ 2048 * (x.w * x.h)
    && pfield bs r 11 5 == 0 && pfield bs r 28 4 == 0 && pfield bs r 39 1 == 0 && pfield bs r 52 12 == 0
    && x.slotNeed ≤ 64 && x.share ≤ 2048 && 1 ≤ x.kib && x.kib ≤ 1024

/-- The warm block (14 R342, Table 10). -/
structure Warm where
  src : Nat
  dst : Nat
  len : Nat
  tgt : Nat
  deriving DecidableEq, Repr
/-- The warm block of a packet. DEDUCED (log 70). -/
def packetWarmBlock (bs : List Byte) : Warm := ⟨pfield bs 80 0 57, pfield bs 88 0 57, pfield bs 96 0 32, pfield bs 96 32 2⟩
/-- Whether bytes [a, a + n) of a packet are zero. DEDUCED (log 66). -/
def zeros (bs : List Byte) (a n : Nat) : Bool := ((bs.drop a).take n).all (· == 0#8)
/-- Whether a warm block is in its ranges; all zero when the packet has none. -/
def warmOk (s : State) (ctx : Nat) (bs : List Byte) : Bool :=
  if packetWarm bs then
    let x := packetWarmBlock bs
    let ab := apertureBase s ctx
    pfield bs 80 57 7 == 0 && pfield bs 88 57 7 == 0 && x.src % 4096 == 0 && x.dst % 4096 == 0 && x.len % 4096 == 0
      && x.tgt != 3 && pfield bs 96 34 30 == 0
      && (x.tgt != 2 || (decide (ab ≤ x.dst) && decide (x.dst + x.len ≤ ab + 576 * 2 ^ 20)))
  else zeros bs 80 24

/-- Whether the header's fields are in their ranges (14 R323). DEDUCED (log 66). -/
def headerOk (bs : List Byte) : Bool :=
  let typ := pfield bs 0 0 8
  let sig := pfield bs 0 11 1 == 1
  let scope := pfield bs 0 13 3
  pfield bs 0 16 8 == 0 && 4 ≤ scope && scope ≤ 6 && (!packetWarm bs || typ == 1 || typ == 2 || typ == 8)
    && pfield bs 8 57 7 == 0 && (if sig then packetDone bs % 16 == 0 else packetDone bs == 0)
/-- Whether a packet's done cell can be used. -/
def doneUsable (bs : List Byte) : Bool :=
  pfield bs 0 11 1 == 1 && pfield bs 8 57 7 == 0 && packetDone bs % 16 == 0

/-- Whether the fields of a packet beyond its header are in their ranges; `depth` call buffers are open (14 R323, R325,
R329, R331, R332). DEDUCED (log 66). -/
def bodyOk (s : State) (ctx depth : Nat) (bs : List Byte) : Bool :=
  match pfield bs 0 0 8 with
  | 1 => pfield bs 16 58 6 == 0 && pfield bs 16 0 57 % 64 == 0 && 1 ≤ pfield bs 24 0 32 && shapeOk 1 bs
      && zeros bs 40 8 && zeros bs 104 24 && warmOk s ctx bs
  | 2 =>
    let rec_ := pfield bs 24 0 57
    let n := pfield bs 32 0 32
    pfield bs 16 58 6 == 0 && pfield bs 16 0 57 % 64 == 0 && pfield bs 24 57 7 == 0 && rec_ % 64 == 0 && 1 ≤ n && n ≤ 2 ^ 24
      && (rec_ != 0 || n == 1) && shapeOk 2 bs
      && zeros bs 48 32 && zeros bs 104 24 && warmOk s ctx bs
  | 3 => pfield bs 16 0 64 % 64 == 0 && 1 ≤ pfield bs 24 0 32 && pfield bs 24 0 32 ≤ 2 ^ 20 && depth < 4
      && zeros bs 28 36
  | 4 => zeros bs 16 48
  | 5 => 4 ≤ pfield bs 16 0 8 && pfield bs 16 0 8 ≤ 6 && zeros bs 17 47
  | 6 => pfield bs 16 0 64 % 16 == 0 && pfield bs 32 1 7 == 0 && zeros bs 33 31
  | 7 => pfield bs 16 0 64 % 16 == 0 && zeros bs 24 40
  | 8 => pfield bs 16 0 64 % 32 == 0 && pfield bs 24 0 64 % 32 == 0 && pfield bs 32 0 64 % 32 == 0
      && 32 ≤ pfield bs 32 0 64 && pfield bs 32 0 64 ≤ 2 ^ 40 && zeros bs 40 24
      && (!packetWarm bs || (zeros bs 64 16 && zeros bs 104 24 && warmOk s ctx bs))
  | _ => true

/-! Kernel descriptors (17_code_objects.md R381). -/

/-- A role's code. -/
def roleNum (n : Nat) : Role := match n with | 1 => .copy | 2 => .matrix | 3 => .vector | _ => .general
/-- Whether an address lies in certified text of this module with its target_mask bit set (17 R381). -/
def entryOk (s : State) (ctx entry : Nat) : Bool :=
  match translate s 0 ctx (BitVec.ofNat 64 (entry / 64 * 64)) Access.fetch with
  | .ok pl =>
    !isHost pl.loc && (rget s.certified (pl.loc / 32768)).isSome && maskBit (s.read pl.loc 64) (BitVec.ofNat 64 entry)
  | _ => false
/-- Whether a descriptor is valid (17 R381, Table 3). -/
def kdValid (s : State) (ctx : Nat) (bs : List Byte) : Bool :=
  let f (b w : Nat) : Nat := pfield bs 8 b w
  pfield bs 0 57 7 == 0 && f 0 2 != 3 && 1 ≤ f 2 5 && f 2 5 ≤ 24 && 1 ≤ f 7 2 && 1 ≤ f 9 2 && f 7 2 * f 9 2 ≤ 6
    && f 2 5 * (16 * 2 ^ f 0 2) ≤ 2048 * (f 7 2 * f 9 2) && 2 ≤ f 13 5 && f 13 5 ≤ 16 && 2 ≤ f 18 5 && f 18 5 ≤ f 13 5
    && f 23 4 ≤ 8 && f 28 36 == 0 && zeros bs 16 48 && entryOk s ctx (pfield bs 0 0 57)
/-- Whether a descriptor agrees with the packet's shape (14 R330). -/
def kdFits (x : Shape) (bs : List Byte) : Bool :=
  x.width == 16 * 2 ^ pfield bs 8 0 2 && x.gangs == pfield bs 8 2 5 && x.w == pfield bs 8 7 2 && x.h == pfield bs 8 9 2
/-- What the device keeps of a descriptor. -/
def kdOf (bs : List Byte) : KDesc := ⟨pfield bs 0 0 57, roleNum (pfield bs 8 11 2), 8 * pfield bs 8 18 5, pfield bs 8 27 1 == 1⟩
/-- The descriptors at a list of addresses, or the status that stands against the packet.
DESIGN CHOICE (log 99). -/
def readKds (s : State) (ctx : Nat) (x : Shape) : List Nat → Except Nat (List KDesc)
  | [] => .ok []
  | a :: r =>
    match devRead s ctx a 64 with
    | .ok bs =>
      if a % 64 != 0 then .error 1
      else if !kdValid s ctx bs then .error 2
      else if !kdFits x bs then .error 1
      else
        match readKds s ctx x r with
        | .ok l => .ok (kdOf bs :: l)
        | .error e => .error e
    | _ => .error (readFault s ctx a 64)
/-- The descriptors a LAUNCH or TASKS packet names: one, or a table with one for each gang. -/
def packetKds (s : State) (ctx : Nat) (bs : List Byte) : Except Nat (List KDesc) :=
  let x := packetShape (pfield bs 0 0 8) bs
  let a := pfield bs 16 0 57
  if pfield bs 16 57 1 == 1 then
    match devRead s ctx a (8 * x.gangs) with
    | .ok t => readKds s ctx x ((List.range x.gangs).map fun g => pfield t (8 * g) 0 64)
    | _ => .error (readFault s ctx a (8 * x.gangs))
  else readKds s ctx x [a]

/-- The status a packet gets as it is read, and its descriptors. DEDUCED (log 67). -/
def judge (s : State) (ctx depth : Nat) (bs : List Byte) : Nat × List KDesc :=
  if !headerOk bs || !bodyOk s ctx depth bs then (1, [])
  else if pfield bs 0 0 8 == 1 || pfield bs 0 0 8 == 2 then
    match packetKds s ctx bs with
    | .ok l => (0, l)
    | .error e => (e, [])
  else (0, [])

/-! Dispatch (14 R336, R337). -/

/-- How far a rank stands above gvt, read as signed. -/
def above (s : State) (r : Word) : Int := (r - s.gvt).toInt
/-- The packets of a stage. -/
def inStage (s : State) (st : PStage) : List (Nat × Packet) := s.packets.filter fun e => e.2.stage == st
/-- The first of some packets in dispatch order: least rank above gvt, then least order. -/
def firstInOrder (s : State) : List (Nat × Packet) → Option (Nat × Packet)
  | [] => none
  | e :: r =>
    match firstInOrder s r with
    | none => some e
    | some f =>
      if above s f.2.rank < above s e.2.rank ∨ (above s f.2.rank = above s e.2.rank ∧ f.2.order < e.2.order) then some f
      else some e
/-- A packet dispatched: it waits for placement. -/
def dispatchOne (s : State) (k : Nat) (p : Packet) : State :=
  State.bump (s.setPacket k { p with stage := .distributed, order := s.serial, next := 0 })
/-- Every eligible packet dispatched, and gvt moved up to the first ready packet when none waits
for placement (14 R337); a packet that has stopped places nothing more. -/
def dispatch : Nat → State → State
  | 0, s => s
  | n + 1, s =>
    match firstInOrder s (inStage s .ready) with
    | none => s
    | some (k, p) =>
      if above s p.rank ≤ 0 then dispatch n (dispatchOne s k p)
      else if (inStage s .distributed).all (·.2.status != 0) then dispatch n { s with gvt := p.rank }
      else s
/-- Dispatch until nothing is eligible: the Crumhorn holds at most 1,024 packets. -/
def dispatchAll (s : State) : State := dispatch 2050 s

/-! Completion (14 R328). -/

/-- The unreachable cell a walk from `va` meets, if it meets one (22_host_fabric_bringup.md R431). -/
def lostOnWalk (s : State) (ctx : Nat) : Nat → Nat → Option Nat
  | 0, _ => none
  | n + 1, va =>
    match translate s 0 ctx (BitVec.ofNat 64 va) Access.load with
    | .ok pl =>
      if isLost s pl.loc then some pl.loc
      else if cellState (cellAt s pl.loc) == .linked then lostOnWalk s ctx n (cellParent (cellAt s pl.loc)) else none
    | _ => none
/-- The done-conflict record (19_faults_traps_preemption.md R401, Table 5). -/
def conflictRecord (s : State) (ctx cell : Nat) (t : Trap) : State :=
  deviceRecord s unitCommand ctx 2 19 0 cell t.info0.toNat t.info1.toNat t.info2.toNat
/-- The packet-failure record. DEDUCED (log 68). -/
def failureRecord (s : State) (p : Packet) (sub status : Nat) : State :=
  deviceRecord s unitCommand p.ctx 2 18 sub p.addr p.queue status (packetDone p.bytes)
/-- Whether the budget of a packet's context admits the fill of its done cell now, and an event at another cell before it
(14 R348; 16_contexts_translation.md R377). DEDUCED (log 91). -/
def endFits (s : State) (p : Packet) (before : List (Nat × Nat)) : Bool :=
  allFit s p.ctx (before ++ if doneUsable p.bytes then devCells s p.ctx (packetDone p.bytes) Access.load 1025 (packetDone p.bytes) else [])
/-- The end of a packet with a status: its done cell filled, its records written, its place given up (14 R328; 22 R431).
DEDUCED (log 67). DEDUCED (log 68). -/
def completePacket (s : State) (k status : Nat) : State :=
  match s.packet k with
  | none => s
  | some p =>
    let s1 : State :=
      if !doneUsable p.bytes then (if status == 0 then s else failureRecord s p 0 status)
      else
        match devFill s p.ctx (packetDone p.bytes) (BitVec.ofNat 64 status) with
        | .ok s' _ => if status == 0 then s' else failureRecord s' p 0 status
        | .trap s' t =>
          if t.cause == .conflictingFill then
            let s'' := conflictRecord s' p.ctx (packetDone p.bytes) t
            if status == 0 then s'' else failureRecord s'' p 0 status
          else
            match lostOnWalk s p.ctx 1025 (packetDone p.bytes) with
            | some l => failureRecord (lostRecord s' p.ctx l) p 0 8
            | none => failureRecord s' p 1 status
    let q := s1.queue p.queue
    dispatchAll (State.setQueue { s1 with packets := mdel s1.packets k } p.queue
      { q with stop := if q.stop == some k then none else q.stop })

/-! Queues (14 R320, R321, R324). -/

/-- The queue-failed record (19_faults_traps_preemption.md R401, Table 5). -/
def queueRecord (s : State) (ctx q reason rd : Nat) : State :=
  deviceRecord s unitCommand ctx 2 26 0 (0x100000 + 64 * q) q reason rd
/-- The record of a failure of a queue written, if one is to be. -/
def writeFailure (s : State) (ctx q : Nat) : State :=
  match (s.queue q).failing with
  | some x => queueRecord (s.setQueue q { s.queue q with failing := none }) ctx q x.1 x.2
  | none => s
/-- The packets that failed with their queue and are not complete. -/
def failedPackets (s : State) (q : Nat) : List (Nat × Packet) :=
  s.packets.filter fun e => e.2.queue == q && e.2.stage == .failed
/-- The record of a queue's failure, once every packet that failed with it is complete (14 R324).
DEDUCED (log 69). DEDUCED (log 70). -/
def endFailure (s : State) (ctx q : Nat) : State := if (failedPackets s q).isEmpty then writeFailure s ctx q else s
/-- A packet that fails with its queue: it completes with status 7, once its context's budget admits its end (14 R324,
R348). DEDUCED (log 70). -/
def failUnhanded (s : State) (k : Nat) (p : Packet) : State :=
  if endFits s p [] then completePacket s k 7 else s.setPacket k { p with stage := .failed, status := 7 }
/-- A queue failed (14 R324): its unhanded packets complete with status 7, and then a record is written.
DEDUCED (log 69). -/
def failQueue (s : State) (q reason : Nat) : State :=
  let ctx := qfield s q 96 12
  let s1 := setQfield (setQfield (writeFailure s ctx q) q 192 2 2) q 58 1 0
  let s2 := s1.setQueue q
    { s1.queue q with calls := [], stop := none, stalled := none, failing := some (reason, qfield s q 160 32) }
  let mine := (s2.packets.filter fun e => e.2.queue == q && (e.2.stage == .read || e.2.stage == .held)).map (·.1)
  endFailure (mine.foldl (fun s k => match s.packet k with
    | some p => failUnhanded s k p
    | none => s) s2) ctx q

/-- The queue a doorbell offset of a function names (22 R423). -/
def doorbellQueue (fn off : Nat) : Option Nat :=
  if off % 64 != 0 then none
  else if fn == 0 then (if off / 64 < 8192 then some (off / 64) else none)
  else if fn ≤ 63 && off / 64 < 128 then some (128 * fn + off / 64) else none
/-- DOORBELL (14 R321; 22 R423, R433). -/
def execDoorbell (fn off : Nat) (value : DWord) (s : State) : Out :=
  match doorbellQueue fn off with
  | none => .next s
  | some q =>
    if s.stage == 0#2 || qstate s q == 2 then .next s
    else
      let s1 := setQfield s q 128 32 (value.toNat % 2 ^ 32)
      .next (if qstate s1 q == 1 && qslots s1 q < qbacklog s1 q then failQueue s1 q 1 else s1)

/-- The words of a rank program: entry 0 is the default program (14 R336, R339). -/
def rankWords (s : State) (n : Nat) : List Word :=
  if n == 0 then
    [0x320#32, 0x224#32, 0x9#32, 0x20#32, 0x128#32, 0x9#32, 0x31#32, 0x2A#32, 0x9#32, 0xB#32, 0xF#32] ++ List.replicate 5 0#32
  else (List.range 16).map fun k => ((mget s.ranks n).getD 0#512).extractLsb' (32 * k) 32
/-- Whether a word of a rank program is valid (14 R336). -/
def rankWordOk (w : Word) : Bool :=
  let op := field w 0 4
  let src := field w 4 2
  let arg := field w 8 24
  let sel := field w 8 4
  field w 6 2 == 0 &&
    if op == 9 || op == 11 || op == 15 then src == 0 && arg == 0
    else if op == 10 then src == 2 && (sel == 0 || sel == 7) && arg / 16 == 0
    else if 12 ≤ op then false
    else if src == 1 || src == 2 then sel ≤ 7 && arg / 16 == 0
    else src == 0 || arg == 0
/-- Whether a rank program is valid: every word up to its END, and none after it. -/
def rankOk : List Word → Bool
  | [] => true
  | w :: r => rankWordOk w && if field w 0 4 == 15 then r.all (· == 0#32) else rankOk r

/-- Whether a queue descriptor's fields are in their ranges (14 R320). -/
def queueFieldsOk (s : State) (d : BitVec 512) : Bool :=
  let n := field d 64 5
  4 ≤ n && n ≤ 16 && field d 0 57 % (64 * 2 ^ n) == 0 && 1 ≤ field d 72 8 && field d 256 57 % 64 == 0
    && !(d.getLsbD 59 && d.getLsbD 57) && rankOk (rankWords s (field d 88 8))
/-- The bits of a queue descriptor that a write sets: Table 1's rw fields (14 R320). DEDUCED (log 73). -/
def queueWritable : BitVec 512 :=
  BitVec.ofNat 512 ((2 ^ 60 - 1) + (2 ^ 69 - 2 ^ 64) + (2 ^ 160 - 2 ^ 72) + (2 ^ 313 - 2 ^ 256))
/-- A descriptor with the writable bits of another. DEDUCED (log 73). -/
def mergeDesc (old new : BitVec 512) : BitVec 512 := (old &&& ~~~queueWritable) ||| (new &&& queueWritable)
/-- A queue put to running: vfin and scratch set (14 R338). The Piccolo goes on where packets it has read still wait,
else at read_index. DEDUCED (log 72). -/
def startQueue (s : State) (q : Nat) : State :=
  let s1 := setQfield s q 192 2 1
  let x := { s1.queue q with vfin := s.gvt, scratch := 0#32 }
  s1.setQueue q
    (if (s.packets.any fun e => e.2.queue == q && (e.2.stage == .read || e.2.stage == .held)) then x
     else { x with seen := BitVec.ofNat 32 (qfield s1 q 160 32), calls := [], stop := none, stalled := none })
/-- A queue whose enable failed. -/
def refuseQueue (s : State) (q : Nat) : State := setQfield (setQfield s q 192 2 2) q 58 1 0
/-- A descriptor written with enable 1 to a queue that is not enabled: in state 0 it starts where read_index stands; a
failed queue resumes at write_index (14 R320, R321, R324). DEDUCED (log 72). -/
def enableQueue (s : State) (q : Nat) (desc : BitVec 512) : State :=
  let s1 := s.setQueue q { s.queue q with desc := mergeDesc (s.queue q).desc desc }
  if !queueFieldsOk s1 (s1.queue q).desc then refuseQueue s1 q
  else if qstate s q == 2 then startQueue (setQfield s1 q 160 32 (qfield s1 q 128 32)) q
  else if qbacklog s1 q ≤ qslots s1 q then startQueue s1 q else refuseQueue s1 q
/-- QUEUE_ENABLE: a descriptor written with enable 1 to a queue in state 0 (14 R320, R321, R338). -/
def execQueueEnable (q : Nat) (desc : BitVec 512) (s : State) : Out :=
  if s.stage == 0#2 || 8192 ≤ q || qstate s q != 0 || !desc.getLsbD 58 then .next s else .next (enableQueue s q desc)
/-- QUEUE_RECOVERY: a descriptor written with enable 1 to a failed queue: the stream resumes at write_index (14 R324). -/
def execQueueRecovery (q : Nat) (desc : BitVec 512) (s : State) : Out :=
  if s.stage == 0#2 || 8192 ≤ q || qstate s q != 2 || !desc.getLsbD 58 then .next s else .next (enableQueue s q desc)

/-! The Piccolo (14 R325). -/

/-- The packets of a queue that its Bassoon has not handed over. -/
def unhanded (s : State) (q : Nat) : List (Nat × Packet) :=
  s.packets.filter fun e => e.2.queue == q && (e.2.stage == .read || e.2.stage == .held)
/-- The further slots of a packet read one after another; a fault gives what was read. -/
def readSlots (rd : Nat → Chk (List Byte)) : Nat → Nat → List Byte → List Byte × Bool
  | 0, _, acc => (acc, true)
  | n + 1, k, acc =>
    match rd k with
    | .ok bs => readSlots rd n (k + 1) (acc ++ bs)
    | _ => (acc, false)
/-- The position of the Piccolo after `n` slots. -/
def Queue.advance (q : Queue) (n : Nat) : Queue :=
  match q.calls with
  | [] => { q with seen := q.seen + BitVec.ofNat 32 n }
  | (a, l, k) :: r => { q with calls := (a + 64 * n, l - n, k) :: r }
/-- What the Piccolo reads for a packet beside its slots: the descriptors it names, their addresses and sizes. -/
def kdReads (s : State) (ctx : Nat) (bs : List Byte) : List (Nat × Nat) :=
  let n := (packetShape (pfield bs 0 0 8) bs).gangs
  let a := pfield bs 16 0 57
  if pfield bs 0 0 8 != 1 && pfield bs 0 0 8 != 2 then []
  else if pfield bs 16 57 1 == 1 then
    match devRead s ctx a (8 * n) with
    | .ok t => (a, 8 * n) :: (List.range n).map fun g => (pfield t (8 * g) 0 64, 64)
    | _ => []
  else [(a, 64)]
/-- The bytes of what the Piccolo reads for its next packet: every slot of it, and what they name.
DEDUCED (log 91). -/
def packetPlaces (s : State) (ctx avail : Nat) (rd : Nat → Chk (List Byte)) (cost : Nat → List (Nat × Nat)) : List (Nat × Nat) :=
  match rd 0 with
  | .ok first =>
    let n := packetSlots first
    if !slotsOk (pfield first 0 0 8) n (pfield first 24 0 57) (packetWarm first) || avail < n then cost 0
    else (List.range n).flatMap cost ++ (kdReads s ctx (readSlots rd (n - 1) 1 first).1).flatMap fun e => devCost s ctx e.1 e.2
  | _ => []
/-- A packet read: formed, judged, and the position moved; a call buffer is opened, a JOIN stops the Piccolo.
DEDUCED (log 70). -/
def formPacket (s : State) (q addr avail : Nat) (parent : Option Nat) (rd : Nat → Chk (List Byte))
    (cost : Nat → List (Nat × Nat)) : State :=
  match rd 0 with
  | .ok first =>
    let typ := pfield first 0 0 8
    let n := packetSlots first
    if !slotsOk typ n (pfield first 24 0 57) (packetWarm first) then failQueue s q 2
    else if avail < n then (if parent.isSome then failQueue s q 2 else s)
    else
      let ctx := qfield s q 96 12
      let r := readSlots rd (n - 1) 1 first
      let j := if r.2 then judge s ctx (s.queue q).calls.length r.1 else (6, [])
      let k := s.serial
      let total := if j.1 != 0 then 0
        else match typ with
          | 1 => pfield r.1 24 0 32
          | 2 => pfield r.1 32 0 32
          | 8 => pfield r.1 32 0 64 / 32
          | _ => 0
      let paid := chargeAll s ctx (packetPlaces s ctx avail rd cost)
      let s1 := State.bump (paid.setPacket k
        { queue := q, ctx := ctx, typ := typ, addr := addr, bytes := r.1, parent := parent, stage := .read, rank := 0#32
          order := 0, kds := j.2, total := total, placed := 0, live := 0, warm := 0, status := j.1, next := 0 })
      let q1 := (s1.queue q).advance n
      s1.setQueue q
        (if j.1 != 0 then q1
         else if typ == 3 then { q1 with calls := (pfield r.1 16 0 64, pfield r.1 24 0 32, k) :: q1.calls }
         else if typ == 4 then { q1 with stop := some k } else q1)
  | _ => failQueue s q 4
/-- PACKET_LOOKAHEAD: the Piccolo reads the next packet of a queue (14 R325, R326), when the budget of the queue's context
admits its slots and what they name (14 R348). -/
def execPacketLookahead (q : Nat) (s : State) : Out :=
  let x := s.queue q
  let ctx := qfield s q 96 12
  if 8192 ≤ q || qstate s q != 1 || qfield s q 58 1 == 0 || x.stop.isSome || 64 ≤ (unhanded s q).length then .next s
  else
    match x.calls with
    | (_, 0, _) :: r => .next (s.setQueue q { x with calls := r })
    | (a, l, k) :: _ =>
      let cost (i : Nat) := devCost s ctx (a + 64 * i) 64
      let rd (i : Nat) := devRead s ctx (a + 64 * i) 64
      .next (if !allFit s ctx (packetPlaces s ctx l rd cost) then s else formPacket s q a l (some k) rd cost)
    | [] =>
      let avail := (BitVec.ofNat 32 (qfield s q 128 32) - x.seen).toNat
      if avail == 0 then .next s
      else
        let cost (i : Nat) := if qfield s q 57 1 == 1 then [] else devCost s ctx (slotVa s q (x.seen.toNat + i)) 64
        let rd (i : Nat) := ringRead s q (x.seen.toNat + i)
        .next (if !allFit s ctx (packetPlaces s ctx avail rd cost) then s
          else formPacket s q (slotVa s q x.seen.toNat) avail none rd cost)

/-! Rank programs (14 R336). -/

/-- A packet field of Table 11; what a COPY packet has no field for, and the warm length of a packet without a warm block,
reads 0. DESIGN CHOICE (log 113). -/
def rankField (p : Packet) (sel : Nat) : Word :=
  BitVec.ofNat 32 (match sel with
    | 0 => pfield p.bytes 0 32 32
    | 1 => pfield p.bytes 0 24 8
    | 2 => p.typ
    | 3 => if p.typ == 8 then min (pfield p.bytes 32 0 64 / 4096) (2 ^ 32 - 1)
           else if p.typ == 1 then pfield p.bytes 24 0 32 else pfield p.bytes 32 0 32
    | 4 => if p.typ == 8 then 0 else (packetShape p.typ p.bytes).gangs * (packetShape p.typ p.bytes).width
    | 5 => if packetWarm p.bytes then (packetWarmBlock p.bytes).len / 4096 else 0
    | 6 => if p.typ == 8 then 0 else (packetShape p.typ p.bytes).share
    | _ => p.queue)
/-- The queues that hold a ready packet, and one more. -/
def readyQueues (s : State) (q : Nat) : List Nat := (q :: (inStage s .ready).map (·.2.queue)).eraseDups
/-- A queue counter of Table 11. -/
def rankCounter (s : State) (q sel : Nat) : Word :=
  match sel with
  | 0 => (s.queue q).vfin
  | 1 => s.gvt
  | 2 => BitVec.ofNat 32 (qfield s q 72 8)
  | 3 => BitVec.ofNat 32 ((readyQueues s q).map fun j => qfield s j 72 8).sum
  | 4 => BitVec.ofNat 32 (qfield s q 80 8)
  | 5 => lo32 s.beat
  | 6 => BitVec.ofNat 32 (s.packets.filter fun e =>
      e.2.queue == q && (e.2.stage == .ready || e.2.stage == .distributed)).length
  | _ => (s.queue q).scratch
/-- A rank program's registers and what it has asked for. -/
structure RankState where
  acc     : Word
  tmp     : Word
  vfin    : Word
  scratch : Word
  warm    : Bool
  deriving DecidableEq, Repr
/-- One word of a rank program (14 R336). Of an invalid program that runs all the same, operations 0xC to 0xE do nothing,
selectors 8 to 15 read as the last, and KEEP to another number writes the scratch value. DEDUCED (log 73). -/
def rankStep (s : State) (p : Packet) (x : RankState) (w : Word) : RankState :=
  let v : Word := match field w 4 2 with
    | 0 => BitVec.ofNat 32 (field w 8 24)
    | 1 => rankField p (field w 8 4)
    | 2 => rankCounter s p.queue (field w 8 4)
    | _ => x.tmp
  match field w 0 4 with
  | 0 => { x with acc := v }
  | 1 => { x with acc := x.acc + v }
  | 2 => { x with acc := x.acc - v }
  | 3 => { x with acc := x.acc * v }
  | 4 => { x with acc := if v == 0#32 then 0xFFFFFFFF#32
                         else BitVec.ofNat 32 ((x.acc.toNat + v.toNat - 1) / v.toNat) }
  | 5 => { x with acc := x.acc >>> (v.toNat % 32) }
  | 6 => { x with acc := x.acc &&& v }
  | 7 => { x with acc := if above s v < above s x.acc then v else x.acc }
  | 8 => { x with acc := if above s x.acc < above s v then v else x.acc }
  | 9 => { x with acc := x.tmp, tmp := x.acc }
  | 10 => if field w 8 4 == 0 then { x with vfin := x.acc } else { x with scratch := x.acc }
  | 11 => { x with warm := true }
  | _ => x
/-- A rank program run to its END or its last word. -/
def runRank (s : State) (p : Packet) : List Word → RankState → RankState
  | [], x => x
  | w :: r, x => if field w 0 4 == 15 then x else runRank s p r (rankStep s p x w)

/-! The Bassoon (14 R323, R327, R335). -/

/-- The packet a queue's Bassoon stands at: the oldest one not handed over. -/
def headPacket (s : State) (q : Nat) : Option (Nat × Packet) := (unhanded s q).head?
/-- The Bassoon passes a packet: read_index advances past its slots in the ring. DEDUCED (log 67). -/
def handOver (s : State) (q : Nat) (p : Packet) : State :=
  if p.parent.isSome then s
  else setQfield s q 160 32 ((qfield s q 160 32 + packetSlots p.bytes) % 2 ^ 32)
/-- The packets a queue holds in the Crumhorn, or all of them. -/
def crumhorn (s : State) (q : Option Nat) : Nat :=
  (s.packets.filter fun e => (e.2.typ == 1 || e.2.typ == 2 || e.2.typ == 8)
    && (e.2.stage == .ready || e.2.stage == .distributed || e.2.stage == .resident)
    && (match q with | some j => e.2.queue == j | none => true)).length
/-- Whether a stalled queue takes a freed entry before another: a queue that holds no packet first, then the one that
stalled first. -/
def takesFirst (s : State) (a b : Nat × Nat) : Bool :=
  let x := decide (0 < crumhorn s (some a.2))
  let y := decide (0 < crumhorn s (some b.2))
  if x == y then decide (a.1 < b.1) else y
/-- Whether a queue may insert now: the Crumhorn and the queue have room, and no stalled queue comes before. -/
def mayInsert (s : State) (q : Nat) : Bool :=
  let mine : Nat × Nat := (((s.queue q).stalled).getD s.serial, q)
  decide (crumhorn s (some q) < 64) && decide (crumhorn s none < 1024) &&
    s.queues.all fun e =>
      match e.2.stalled with
      | some n => e.1 == q || 64 ≤ crumhorn s (some e.1) || !takesFirst s (n, e.1) mine
      | none => true
/-- The rank a packet is inserted with: not below a ready packet of its queue (14 R337). -/
def raiseRank (s : State) (q : Nat) (r : Word) : Word :=
  (inStage s .ready).foldl (fun r e => if e.2.queue == q && above s r < above s e.2.rank then e.2.rank else r) r
/-- A packet inserted into the Crumhorn (14 R336, R337, R342). -/
def insertPacket (s : State) (q k : Nat) (p : Packet) : State :=
  let x := s.queue q
  let r := runRank s p (rankWords s (qfield s q 88 8)) ⟨0#32, 0#32, x.vfin, x.scratch, false⟩
  let w := packetWarmBlock p.bytes
  let warm := if r.warm && packetWarm p.bytes && w.tgt != 0 then w.len / 32 else 0
  let s1 := (handOver s q p).setPacket k
    { p with stage := .ready, rank := raiseRank s q r.acc, order := s.serial, warm := warm }
  dispatchAll (State.bump (s1.setQueue q { s1.queue q with vfin := r.vfin, scratch := r.scratch, stalled := none }))
/-- The Bassoon acts on a LAUNCH, TASKS or COPY packet at the head of its queue. -/
def rankedPacket (s : State) (q typ : Nat) : State :=
  match headPacket s q with
  | some (k, p) =>
    if p.typ != typ then s
    else if p.status != 0 then (if endFits s p [] then completePacket (handOver s q p) k p.status else s)
    else if mayInsert s q then insertPacket s q k p
    else if (s.queue q).stalled.isSome then s
    else State.bump (s.setQueue q { s.queue q with stalled := some s.serial })
  | none => s
/-- LAUNCH_PACKET. -/
def execLaunchPacket (q : Nat) (s : State) : Out := .next (rankedPacket s q 1)
/-- TASKS_PACKET. -/
def execTasksPacket (q : Nat) (s : State) : Out := .next (rankedPacket s q 2)
/-- COPY_PACKET. -/
def execCopyPacket (q : Nat) (s : State) : Out := .next (rankedPacket s q 8)
/-- CALLBUF_PACKET: its buffer's packets follow (14 R325). -/
def execCallbufPacket (q : Nat) (s : State) : Out :=
  match headPacket s q with
  | some (k, p) =>
    if p.typ != 3 then .next s
    else if p.status != 0 then .next (if endFits s p [] then completePacket (handOver s q p) k p.status else s)
    else .next ((handOver s q p).setPacket k { p with stage := .resident })
  | none => .next s
/-- The call buffers a packet lies in. DEDUCED (log 71). -/
def ancestors (s : State) : Nat → Option Nat → List Nat
  | 0, _ => []
  | _, none => []
  | n + 1, some k => k :: ancestors s n ((s.packet k).bind (·.parent))
/-- Whether every earlier packet of a packet's stream has completed; the call buffers it lies in cannot yet.
DEDUCED (log 71). -/
def earlierDone (s : State) (q k : Nat) (p : Packet) : Bool :=
  s.packets.all fun e => e.2.queue != q || k ≤ e.1 || (ancestors s 5 p.parent).contains e.1
/-- A JOIN or QFENCE at the head of its queue: held until every earlier packet has completed. DEDUCED (log 71). -/
def barrierPacket (s : State) (q typ : Nat) : State :=
  match headPacket s q with
  | some (k, p) =>
    if p.typ != typ then s
    else if p.status != 0 || earlierDone s q k p then
      (if endFits s p [] then completePacket (handOver s q p) k p.status else s)
    else s.setPacket k { p with stage := .held }
  | none => s
/-- JOIN_PACKET. -/
def execJoinPacket (q : Nat) (s : State) : Out := .next (barrierPacket s q 4)
/-- QFENCE_PACKET: completed packets have performed their writes. -/
def execQfencePacket (q : Nat) (s : State) : Out := .next (barrierPacket s q 5)
/-- The status of an event that failed at a packet's cell, with the record of an unreachable module (22 R431).
DEDUCED (log 69). -/
def cellStatus (s : State) (ctx cell : Nat) (t : Trap) : State × Nat :=
  match lostOnWalk s ctx 1025 cell with
  | some l => (lostRecord s ctx l, 8)
  | none => (s, if t.cause == .conflictingFill then 5 else 6)
/-- The cells that the event of a SIGNAL or WAIT packet reads; none when it has a status. -/
def cellPlaces (s : State) (p : Packet) : List (Nat × Nat) :=
  if p.status != 0 then [] else devCells s p.ctx (pfield p.bytes 16 0 64) Access.load 1025 (pfield p.bytes 16 0 64)
/-- SIGNAL_PACKET (14 R323; 05_promise_cells.md R156). DEDUCED (log 69). -/
def execSignalPacket (q : Nat) (s : State) : Out :=
  match headPacket s q with
  | some (k, p) =>
    if p.typ != 6 then .next s
    else if !endFits s p (cellPlaces s p) then .next s
    else
      let s0 := handOver s q p
      if p.status != 0 then .next (completePacket s0 k p.status)
      else
        let cell := pfield p.bytes 16 0 64
        let x := BitVec.ofNat 64 (pfield p.bytes 24 0 64)
        match if pfield p.bytes 32 0 1 == 1 then devCount s0 p.ctx cell x else devFill s0 p.ctx cell x with
        | .ok s1 _ => .next (completePacket s1 k 0)
        | .trap s1 t =>
          let r := cellStatus s1 p.ctx cell t
          .next (completePacket r.1 k r.2)
  | none => .next s
/-- Whether the query of a WAIT packet would end it now: its class is filled, or the query fails. -/
def waitEnds (s : State) (p : Packet) : Bool :=
  match devQuery s p.ctx (pfield p.bytes 16 0 64) with
  | .ok _ r => r.st == .full
  | .trap _ _ => true
/-- An attempt of a WAIT packet at the head of its queue. -/
def tryWait (s : State) (q k : Nat) (p : Packet) : State :=
  let cell := pfield p.bytes 16 0 64
  if !endFits s p (cellPlaces s p) then s
  else
  match devQuery s p.ctx cell with
  | .ok s1 r => if r.st == .full then completePacket (handOver s1 q p) k 0 else s1.setPacket k { p with stage := .held }
  | .trap s1 t =>
    let r := cellStatus s1 p.ctx cell t
    completePacket (handOver r.1 q p) k r.2
/-- WAIT_PACKET: the Bassoon takes a WAIT, and holds until the class of its cell is filled. DEDUCED (log 69). -/
def execWaitPacket (q : Nat) (s : State) : Out :=
  match headPacket s q with
  | some (k, p) =>
    if p.typ != 7 || p.stage != .read then .next s
    else if p.status != 0 then .next (if endFits s p [] then completePacket (handOver s q p) k p.status else s)
    else .next (tryWait s q k p)
  | none => .next s
/-- WAIT_PACKET_QUERY_ATTEMPT: a held WAIT queries its cell again (05 R156), and the bytes of the query are charged to its
context whether or not it ends the wait (16_contexts_translation.md R377). DEDUCED (log 69). -/
def execWaitPacketQueryAttempt (q : Nat) (s : State) : Out :=
  match headPacket s q with
  | some (k, p) => .next (if p.typ == 7 && p.stage == .held then tryWait s q k p else s)
  | none => .next s

/-- Whether a copy of a packet stands in a queue of some core. -/
def copiesOut (s : State) (k : Nat) : Bool :=
  (List.range 144).any fun core => (queueAt s core 3).any fun e => e.ofPacket k
/-- Whether a packet's work is finished (14 R328), or it failed with its queue (14 R324). -/
def packetOver (s : State) (k : Nat) (p : Packet) : Bool :=
  p.stage == .failed || match p.typ with
  | 3 => p.stage == .resident && !(s.queue p.queue).calls.any (·.2.2 == k) && s.packets.all fun e => e.2.parent != some k
  | 1 | 2 => p.live == 0 && !copiesOut s k &&
      (p.stage == .resident || (p.status != 0 && (p.stage == .ready || p.stage == .distributed)))
  | 8 => !copiesOut s k && (p.stage == .resident || (p.status != 0 && (p.stage == .ready || p.stage == .distributed)))
  | _ => false
/-- PACKET_COMPLETION: a packet whose work is finished completes. -/
def execPacketCompletion (k : Nat) (s : State) : Out :=
  match s.packet k with
  | some p => .next (if packetOver s k p && endFits s p [] then
      endFailure (completePacket s k p.status) p.ctx p.queue else s)
  | none => .next s

end Sys2Proof.Machine
end

