-- ==== Sys2Proof/Machine/Threads.lean ====
section
/-! DEFINITION. Fork, join, the end of a thread, binding, rejoining, yielding and allotment (13_thread_instructions.md R303
to R314; 07_compute_instructions.md R189). -/

namespace Sys2Proof.Machine

/-! The end of a thread. -/

/-- A thread ends: its place, lane and allotment are free (07 R189), and its team's state on a core outside the
rectangle goes with the last thread there (08 R231). -/
def endThread (s : State) (p : Nat) (t : Thread) : State := tidyCore (s.dropThr p) (coreOf p) t.team

/-- Registers v0 to v5 or v0 to v3 given the argument words of a frame. -/
def loadArgs (t : Thread) (ws : List Word) : Thread :=
  (ws.zipIdx).foldl (fun t w => t.setV (BitVec.ofNat 7 w.2) w.1) t

/-- The poison fault of frame `i` of a thread, read back poisoned (19 R398). DESIGN CHOICE (log 112). -/
def poisonFrame (t : Thread) (i : Nat) : Trap := mkTrap .poison 0 (BitVec.ofNat 64 (t.block.base + 64 * i))
/-- The check that the newest frame of a thread is not poisoned. DESIGN CHOICE (log 112). -/
def newestOk (s : State) (t : Thread) : Chk Unit :=
  match newest s t with
  | some f => if f.poison then .trap (poisonFrame t (fsp t - 1)) else .ok ()
  | none => .ok ()
/-- What a join does with the newest frame (13 R305, R306): an inline run with ln as given, or a message. A wait goes on
at `npc`. A fault of an ending leaves it under way. -/
def joinFrame (s : State) (p : Nat) (t : Thread) (f : Frame) (ln npc : DWord) (ending : Bool) : State :=
  let entry : DWord := f.entry.setWidth 64
  let fault (tr : Trap) : State := takeTrap s p { t with ending := ending } tr
  let inline (t' : Thread) : State :=
    match checkJump s p t entry with
    | .trap tr => fault tr
    | .stall w => stall s p { t with ending := ending } w
    | .ok _ => (chargeFrames s t t').setThr p (Thread.goTo { loadArgs t' f.args with ln := ln, ending := false } s entry)
  if f.poison then fault (poisonFrame t (fsp t - 1))
  else if f.range then
    if f.lo.toInt < f.hi.toInt then inline t
    else
      let mine := !(t.recv && fsp t == 1)
      sendMsg s p { t with ending := false } f.join.toNat
        (.count (-1#64) (some (mine && f.promoted, if ending then .ending false else .joinr))) npc
  else if !f.promoted then inline (popFrame s p t)
  else
    sendMsg s p { t with ending := false } f.join.toNat (.wait (if ending then .ending true else .join)) npc

/-- One step of the end of a thread (07 R189; 13 R307): the newest frame is joined, or none is left and the thread
ends. `byExit`: an EXIT, which runs again after each join. -/
def endStep (s : State) (p : Nat) (t : Thread) (byExit : Bool) : State :=
  match newest s t with
  | none => endThread s p t
  | some f => joinFrame s p t f (if byExit then t.pc else 0#64) t.pc (!byExit)

/-- The convergence trap of a bound thread that would end (07 R189; 13 R307). -/
def boundEnd (s : State) (t : Thread) (i : Instr) : Chk Unit :=
  if t.group.isSome then .trap (mkTrap .illegalConvergence 3 0#64 (wordInfo i) (boundMask s t)) else .ok ()

/-- EXIT, short form. -/
def execExitShort (g : Guard) (s : State) : Out :=
  run g (.exitShort g) s (fun t => boundEnd s t (.exitShort g)) noCheck fun t _ => endStep s s.cur t true
/-- EXIT (07 R189). -/
def execExit (g : Guard) (s : State) : Out :=
  run g (.exit g) s (fun t => boundEnd s t (.exit g)) noCheck fun t _ => endStep s s.cur t true

/-! Frames (13 R303 to R309). -/

/-- The checks of a join cell (13 R303): alignment, write permission, host memory, translation. -/
def joinCell (s : State) (p : Nat) (t : Thread) (va : DWord) : Chk Nat :=
  (locate s p t false va 16 Access.store.notHost).bind fun pl => .ok pl.loc

/-- The bound fields of a pushed frame (13 R303). -/
def boundFields (s : State) (p : Nat) (t : Thread) : Bool × BitVec 2 × BitVec 5 :=
  match groupMembers s t with
  | some ps => (true, BitVec.ofNat 2 (ps.length.log2 - 2), BitVec.ofNat 5 (positionIn ps p))
  | none => (false, 0#2, 0#5)

/-- Register k of a block. -/
def blockReg (t : Thread) (r : VReg) (k : Nat) : Word := t.rv (r + BitVec.ofNat 7 k)

/-- The frame FORK or FORKR pushes (13 R303). -/
def forkFrame (s : State) (p : Nat) (t : Thread) (o : ForkOps) (range : Bool) : Frame :=
  let b := boundFields s p t
  { entry := (upairVal s t o.entry).extractLsb' 0 57, range := range, bound := b.1, promoted := false
    join := upairVal s t o.join
    lo := if range then blockReg t o.r 0 else 0#32
    hi := if range then blockReg t o.r 1 else 0#32
    grain := if range then (if (blockReg t o.r 2).toInt < 1 then 1#32 else blockReg t o.r 2) else 0#32
    args := if range then (List.range 4).map fun k => blockReg t o.r (3 + k) else (List.range 6).map (blockReg t o.r)
    site := t.pc.extractLsb' 0 57, bwidth := b.2.1, bpos := b.2.2
    dv := s.dies[dieOf (coreOf p) % 8]'(by omega), poison := false }

/-- FORK and FORKR (13 R303; 12_execution_model.md R296). -/
def forkOp (g : Guard) (i : Instr) (o : ForkOps) (range : Bool) (s : State) : Out :=
  run g i s (fun t => (checkJump s s.cur t (nextOf i t)).early)
    (fun t => (checkJump s s.cur t (nextOf i t)).beside (joinCell s s.cur t (upairVal s t o.join))) fun t loc =>
    let full := fsp t == 64
    let s1 := if range && full then s else initCell (chargeDram s (ctxOf s t) loc 16) (ctxOf s t) loc range 1#64
    let r := if full then (s1, t) else pushFrame s1 s.cur t (forkFrame s s.cur t o range)
    finish i r.1 s.cur
      { r.2.setPred o.q (!full) with region := (nextOf i t).extractLsb' 0 57, replays := 0 }
/-- FORK. -/
def execFork (g : Guard) (o : ForkOps) (s : State) : Out := forkOp g (.fork g o) o false s
/-- FORKR. -/
def execForkr (g : Guard) (o : ForkOps) (s : State) : Out := forkOp g (.forkr g o) o true s

/-- The frame ITER claims from: the newest range frame (13 R304), or a poisoned one above it, whose kind cannot be told. -/
def iterFrame (s : State) (t : Thread) : Option (Nat × Frame) := findFrame s t (fun f => f.range || f.poison) (fsp t)
/-- The check that ITER's frame is not poisoned. -/
def iterOk (s : State) (t : Thread) : Chk Unit :=
  match iterFrame s t with
  | some (k, f) => if f.poison then .trap (poisonFrame t k) else .ok ()
  | none => .ok ()
/-- ITER (13 R304). -/
def execIter (g : Guard) (q : PReg) (d : VReg) (s : State) : Out :=
  run g (.iter g q d) s noCheck (iterOk s) fun t _ =>
    match iterFrame s t with
    | some (k, f) =>
      if f.lo.toInt < f.hi.toInt then
        let r := setFrameAt s t k { f with lo := f.lo + 1#32 }
        finish (.iter g q d) r.1 s.cur ((r.2.setV d f.lo).setPred q true)
      else finish (.iter g q d) s s.cur (t.setPred q false)
    | none => finish (.iter g q d) s s.cur (t.setPred q false)

/-- The frame cause (13 R305, R306). -/
def frameTrap (i : Instr) : Trap := mkTrap .illegalInstruction 2 0#64 (wordInfo i)
/-- The newest frame of the kind a join needs; of a poisoned one it cannot be told. -/
def needFrame (s : State) (t : Thread) (i : Instr) (range : Bool) : Chk Unit :=
  match newest s t with
  | some f => if f.range == range || f.poison then .ok () else .trap (frameTrap i)
  | none => .trap (frameTrap i)
/-- JOIN (13 R305). -/
def execJoin (g : Guard) (s : State) : Out :=
  run g (.join g) s (fun t => needFrame s t (.join g) false) noCheck fun t _ =>
    match newest s t with
    | some f => joinFrame s s.cur t f (nextOf (.join g) t) (nextOf (.join g) t) false
    | none => s
/-- JOINR (13 R306). DEDUCED (log 53). -/
def execJoinr (g : Guard) (s : State) : Out :=
  run g (.joinr g) s (fun t => needFrame s t (.joinr g) true) noCheck fun t _ =>
    match newest s t with
    | some f => joinFrame s s.cur t f t.pc (nextOf (.joinr g) t) false
    | none => s
/-- FDROP (13 R309). -/
def execFdrop (g : Guard) (q : PReg) (s : State) : Out :=
  run g (.fdrop g q) s noCheck (newestOk s) fun t _ =>
    match newest s t with
    | some f =>
      if f.promoted then finish (.fdrop g q) s s.cur (t.setPred q false)
      else finish (.fdrop g q) (chargeFrames s t (popFrame s s.cur t)) s.cur ((popFrame s s.cur t).setPred q true)
    | none => finish (.fdrop g q) s s.cur (t.setPred q false)
/-- What FDEPTH writes (13 R309). -/
def depthWord (s : State) (t : Thread) : Word :=
  match newest s t with
  | some f => BitVec.ofNat 32 (fsp t + (if f.range then 2 else 1) * 2 ^ 7 + (if f.promoted then 2 ^ 9 else 0))
  | none => BitVec.ofNat 32 (fsp t)
/-- FDEPTH (13 R309). -/
def execFdepth (g : Guard) (d : VReg) (s : State) : Out :=
  run g (.fdepth g d) s noCheck (newestOk s) fun t _ => finish (.fdepth g d) s s.cur (t.setV d (depthWord s t))

/-- TDONE (13 R307): the fill at Find(va); a conflict faults and leaves pc and ln. -/
def execTdone (g : Guard) (a : UPair) (v : VReg) (s : State) : Out :=
  let i : Instr := .tdone g a v
  let target (t : Thread) : Chk Unit := if t.ln == 0#64 then boundEnd s t i else checkJump s s.cur t t.ln
  run g i s (fun t => (target t).early) (fun t => (target t).beside (joinCell s s.cur t (upairVal s t a))) fun t _ =>
    sendMsg s s.cur t (upairVal s t a).toNat (.fill (t.rv64 v) true) (nextOf i t)
/-- TDONE.r (13 R307). -/
def execTdoneR (g : Guard) (s : State) : Out :=
  let i : Instr := .tdoneR g
  run g i s (fun t => if t.ln == 0#64 then boundEnd s t i else checkJump s s.cur t t.ln) noCheck fun t _ =>
    if t.ln == 0#64 then endStep s s.cur t false else goOn i s s.cur t t.ln

/-! Binding (13 R310, R311). -/

/-- W of BIND. -/
def bindWidth (w : BitVec 2) : Nat := 4 * 2 ^ w.toNat
/-- The threads of a thread's gang on its aligned block of W lanes, by lane (13 R310). -/
def blockThreads (s : State) (p : Nat) (t : Thread) (w : Nat) : List Nat :=
  let first := laneOf p / w * w
  (List.range w).flatMap fun k =>
    (laneThreads s (coreOf p) (first + k)).filterMap fun e =>
      if e.2.team == t.team && e.2.gang == t.gang then some e.1 else none
/-- Whether a gang was launched as a Slarex G7 kernel (12 R281). -/
def isLegacy (s : State) (t : Thread) : Bool := ((homeGang s t).map (·.legacy)).getD false
/-- Whether members may form a group (13 R310). -/
def bindShape (s : State) (t : Thread) (ps : List Nat) (w : Nat) : Bool :=
  ps.length == w && (ps.all fun p => ((s.thr p).map (·.group.isNone)).getD false)
    && (!isLegacy s t || w == 16 || t.emu.isSome)
/-- The group formed: its members by lane, every token complete with flags 0 (13 R310). -/
def formGroup (s : State) (team : Nat) (ps : List Nat) : State :=
  let k := s.serial
  let s1 := State.bump (s.setGroup k ⟨team, ps, [], true⟩)
  onMembers s1 ps fun s p t => s.setThr p { t with group := some k, tok := Vector.replicate 16 ⟨none, 0#5⟩ }

/-- BIND (13 R310): a rendezvous of the block's threads, which tests addresses (subcause 2) before guards (1) and guards
before the block's shape (0). DEDUCED (log 62). -/
def execBind (g : Guard) (w : BitVec 2) (s : State) : Out :=
  let i : Instr := .bind g w
  match s.thr s.cur with
  | none => .fault (.noThread s.cur)
  | some t =>
    if t.gang.isNone then
      .next (if active g t then takeTrap s s.cur t (convTrap 0 i []) else skip i s s.cur t)
    else
      let ps := blockThreads s s.cur t (bindWidth w)
      if !allWait s s.cur ps then .next (meet s s.cur)
      else if !sameAddress s ps then .next (differentAddresses s ps true)
      else if activeCount g s ps == 0 then .next (proceedAll i g s ps)
      else if activeCount g s ps != ps.length then .next (trapActive i g s ps (convTrap 1 i ps))
      else if !bindShape s t ps (bindWidth w) then .next (trapActive i g s ps (convTrap 0 i ps))
      else .next (proceedAll i g (formGroup s t.team ps) ps)

/-- UNBIND (13 R311): a rendezvous of the group's members. DEDUCED (log 62). -/
def execUnbind (g : Guard) (s : State) : Out :=
  let i : Instr := .unbind g
  match s.thr s.cur with
  | none => .fault (.noThread s.cur)
  | some t =>
    match groupMembers s t, t.group with
    | some ps, some k =>
      if !allWait s s.cur ps then .next (meet s s.cur)
      else if !sameAddress s ps then .next (differentAddresses s ps false)
      else if activeCount g s ps == 0 then .next (proceedAll i g s ps)
      else if activeCount g s ps != ps.length then .next (trapActive i g s ps (convTrap 1 i ps))
      else
        let s1 := match s.group k with
          | some gr => s.setGroup k { gr with live := false }
          | none => s
        .next (proceedAll i g (onMembers s1 ps fun s p t => s.setThr p { t with group := none }) ps)
    | _, _ => .next (if active g t then takeTrap s s.cur t (convTrap 0 i []) else skip i s s.cur t)

/-! Rejoining, yielding, allotment (13 R312 to R314). -/

/-- Whether a thread is running: ready, stalled or held (12 R291). -/
def running (t : Thread) : Bool :=
  match t.status with
  | .ready _ | .stalled _ | .held _ => true
  | _ => false
/-- The threads held by RECONV at an address of a bank, with their places. -/
def heldAt (s : State) (core bank : Nat) (pc : DWord) : List (Nat × Thread) :=
  s.threads.filter fun e => coreOf e.1 == core && bankOf e.1 == bank && e.2.pc == pc &&
    match e.2.status with
    | .held _ => true
    | _ => false
/-- The running threads of a thread's gang in its bank; a promoted thread belongs to none, and counts itself.
DEDUCED (log 61). -/
def gangRunning (s : State) (p : Nat) (t : Thread) : List Nat :=
  if t.gang.isNone then [p]
  else (s.threads.filter fun e => coreOf e.1 == coreOf p && bankOf e.1 == bankOf p && e.2.team == t.team
      && e.2.gang == t.gang && running e.2).map (·.1)
/-- Whether the hold of a thread at an address is over, but for its time (13 R312). -/
def holdOver (s : State) (p : Nat) (t : Thread) : Bool :=
  let h := heldAt s (coreOf p) (bankOf p) t.pc
  let r := gangRunning s p t
  decide (r.length ≤ ((h.map fun e => laneOf e.1).eraseDups).length) || r.all fun k => h.any (·.1 == k)
/-- Every held thread at an address goes on (13 R312). -/
def releaseHeld (s : State) (core bank : Nat) (pc : DWord) : State :=
  (heldAt s core bank pc).foldl (fun s e => s.setThr e.1 (e.2.wake s)) s
/-- RECONV (13 R312). DEDUCED (log 61). -/
def execReconv (g : Guard) (s : State) : Out :=
  run g (.reconv g) s noCheck noCheck fun t _ =>
    let t' := { t with status := .held s.cycle, npc := nextOf (.reconv g) t }
    let s1 := s.setThr s.cur t'
    if holdOver s1 s.cur t' then releaseHeld s1 (coreOf s.cur) (bankOf s.cur) t.pc else s1
/-- The cycle since which the first thread now held at an address is held. -/
def heldSince (s : State) (core bank : Nat) (pc : DWord) : Option Nat :=
  ((heldAt s core bank pc).filterMap fun e =>
    match e.2.status with
    | .held c => some c
    | _ => none).foldl (fun a c => match a with | none => some c | some b => some (min b c)) none
/-- RECONV_TIMEOUT: 256 cycles after the first thread now held at an address arrived, all are released; so they are once
every running thread of a held thread's gang in the bank is held there, others having ended or parked (13 R312). -/
def execReconvTimeout (core bank : Nat) (pc : DWord) (s : State) : Out :=
  match heldSince s core bank pc with
  | some c =>
    if c + 256 ≤ s.cycle || (heldAt s core bank pc).any (fun e => holdOver s e.1 e.2) then
      .next (releaseHeld s core bank pc)
    else .next s
  | none => .next s

/-- YIELD (13 R313): the waiting time starts anew; .beat parks until the next beat has made its promotions. -/
def execYield (g : Guard) (beat : Bool) (s : State) : Out :=
  run g (.yield g beat) s noCheck noCheck fun t _ =>
    if beat then park (.yield g beat) s s.cur t .beat else finish (.yield g beat) s s.cur t

/-- The allotment a thread may raise to: its kernel's (12 R283). -/
def kernelAllot (s : State) (t : Thread) : Nat := ((homeGang s t).map (·.allot)).getD 16
/-- The allotment raised: the new registers arrive zeroed (12 R283; 16_contexts_translation.md R370). -/
def raiseAllot (t : Thread) (n : Nat) : Thread :=
  { t with
    allot := n
    v := Vector.ofFn fun k : Fin 128 => if t.allot ≤ k.val then 0#32 else t.v[k.val]
    vp := Vector.ofFn fun k : Fin 128 => if t.allot ≤ k.val then false else t.vp[k.val] }
/-- The order in which a stalled ACQUIRE issued. -/
def poolOrder (t : Thread) : Option Nat :=
  match t.status with
  | .stalled (.pool k) => some k
  | _ => none
/-- Whether a lane has a pending ACQUIRE (12 R285). -/
def acquirePending (s : State) (core lane : Nat) : Bool := (laneThreads s core lane).any fun e => (poolOrder e.2).isSome
/-- Whether the pool can serve an ACQUIRE of order `k`: no earlier one pends, and the registers are free. -/
def acquireFits (s : State) (p : Nat) (t : Thread) (k : Nat) : Bool :=
  decide (kernelAllot s t - t.allot ≤ poolOfLane s p) &&
    (laneThreads s (coreOf p) (laneOf p)).all fun e =>
      match poolOrder e.2 with
      | some j => e.1 == p || decide (k ≤ j)
      | none => true
/-- ACQUIRE (13 R314; 12 R285). -/
def execAcquire (g : Guard) (s : State) : Out :=
  run g (.acquire g) s noCheck noCheck fun t _ =>
    if kernelAllot s t ≤ t.allot then finish (.acquire g) s s.cur t
    else
      let k := (poolOrder t).getD s.serial
      if acquireFits s s.cur t k then finish (.acquire g) s s.cur (raiseAllot t (kernelAllot s t))
      else stall (if (poolOrder t).isSome then s else State.bump s) s.cur t (.pool k)

end Sys2Proof.Machine
end

