-- ==== Sys2Proof/Machine/Placement.lean ====
section
/-! DEFINITION. Local blocks, new threads, the placement of teams and their end (14_scheduling.md R331, R332, R342 to R346;
16_contexts_translation.md R356, R372, R373; 12_execution_model.md R274, R275, R280). -/

namespace Sys2Proof.Machine

/-! The local region (16 R372, R373). -/

/-- The size of a local block. -/
def blockSize (kib : Nat) : Nat := (kib + 4 + 31) / 32 * 32768
/-- The threads of a context, those of swapped-out teams included. -/
def ctxThreads (s : State) (c : Nat) : List Thread :=
  (s.threads.filterMap fun e => if ctxOf s e.2 == c then some e.2 else none) ++
  s.teams.flatMap fun e => if e.2.ctx == c then ((e.2.saved.map (·.threads)).getD []).map (·.2) else []
/-- The blocks of a context that no thread may take. -/
def takenBlocks (s : State) (c : Nat) : List Block := (ctxThreads s c).map (·.block) ++ (s.ctx c).bad
/-- Whether bytes [a, a + n) meet a block. -/
def Block.meets (b : Block) (a n : Nat) : Bool := decide (a < b.base + b.size) && decide (b.base < a + n)
/-- The lowest free block of the region that is large enough. DEDUCED (log 74). -/
def lowestBlock (s : State) (c : Nat) (taken : List Block) (kib : Nat) : Option Block :=
  let lo := cfield s c 192 57
  let hi := lo + cfield s c 256 40
  let n := blockSize kib
  ((lo :: taken.map fun b => b.base + b.size).filter fun a =>
      decide (lo ≤ a) && decide (a + n ≤ hi) && taken.all fun b => !b.meets a n).foldl
    (fun (o : Option Block) a => match o with
      | some b => if a < b.base then some ⟨a, n, kib⟩ else some b
      | none => some ⟨a, n, kib⟩) none
/-- The locations of a block's 32 KiB pieces, if all of them translate. -/
def blockLocs (s : State) (c : Nat) (b : Block) : Option (List Nat) :=
  match rankAll ((List.range (b.size / 32768)).map fun k =>
      translate s 0 c (BitVec.ofNat 64 (b.base + 32768 * k)) Access.store false 1) with
  | .ok l => some (l.map (·.loc))
  | _ => none
/-- A block marked unusable, with its record (16 R373). -/
def spoilBlock (s : State) (c : Nat) (b : Block) : State :=
  deviceRecord (s.setCtx c { s.ctx c with bad := b :: (s.ctx c).bad }) unitCommand c 2 21 0 b.base 0 0 0
/-- What the zeroing of a block costs in DRAM: the walks of its pages, and its pieces. DEDUCED (log 91). -/
def zeroCost (s : State) (c : Nat) (b : Block) (l : List Nat) : List (Nat × Nat) :=
  walkCosts s 0 c (BitVec.ofNat 64 b.base) b.size ++ l.map (·, 32768)
/-- Whether the budgets of a context cover the zeroing of a block on a core now: copy_b, and dram_b for its bytes
(14 R348; 16 R373). DEDUCED (log 91). -/
def zeroFits (s : State) (core c : Nat) (b : Block) (l : List Nat) : Bool :=
  copyFits s core 0 c b.size && allFit s c (zeroCost s c b l)
/-- Pieces of 32 KiB made zero and charged; a piece on an unreachable module is dropped with its record (16 R373;
22_host_fabric_bringup.md R430). -/
def zeroPieces (s : State) (core c : Nat) (b : Block) (l : List Nat) : State :=
  let s1 := l.foldl (fun s a => if isLost s a then lostRecord s c a else s.zero a 32768) (chargeAll s c (zeroCost s c b l))
  s1.setCore core { s1.core core with copyUsed := addTo (s1.core core).copyUsed c b.size }
/-- How the zeroing of a block ends: done, or waiting for the reset of a budget, or failed (16 R373; 14 R348). -/
inductive Zeroed where
  | done (s : State)
  | waits
  | failed (s : State)
  deriving DecidableEq, Repr
/-- A block zeroed and charged to its context's budgets, or left for the next beat where they do not cover it, or marked
unusable with its record (16 R373; 14 R348). DEDUCED (log 74). -/
def zeroBlock (s : State) (core c : Nat) (b : Block) : Zeroed :=
  match blockLocs s c b with
  | some l => if zeroFits s core c b l then .done (zeroPieces s core c b l) else .waits
  | none => .failed (spoilBlock s c b)
/-- Blocks zeroed on their cores one after another: the state, and which of them wait. DEDUCED (log 74). -/
def zeroAll (s : State) (c : Nat) (l : List (Nat × Block)) : State × List Bool :=
  l.foldl (fun (a : State × List Bool) x =>
    match zeroBlock a.1 x.1 c x.2 with
    | .done s1 => (s1, a.2 ++ [false])
    | _ => (a.1, a.2 ++ [true])) (s, [])

/-! New threads (12 R274, Table 1). -/

/-- A thread at its start: everything zero but its entry, its stack and its place among its kind. -/
def freshThread (team tid : Nat) (gang : Option Nat) (home : Nat) (entry : Nat) (b : Block) (dv : Vector Nat 8)
    (start : Nat) : Thread :=
  { team := team, tid := BitVec.ofNat 32 tid, gang := gang, home := home, group := none, allot := 16
    v := Vector.replicate 128 0#32, vp := Vector.replicate 128 false, q := Vector.replicate 7 false
    sp := BitVec.ofNat 64 (b.base + b.size), ln := 0#64, stklim := BitVec.ofNat 64 (b.base + b.size - b.kib * 1024)
    tok := Vector.replicate 16 ⟨none, 0#5⟩, fpflags := 0#5, region := BitVec.ofNat 57 entry, tag := 0#11, replays := 0
    pnone := 0#64, pskip := 0#64, pdefer := 0#64, spilled := [], chip := [], recv := false
    pc := BitVec.ofNat 64 entry, npc := 0#64, ctr := 0#64, key := none, status := .waiting start, replay := false
    issued := 0, board := [], emu := none, ending := false, lent := false, lentFrames := 0, block := b, dv := dv, pri := 0
    trail := none, pos := none, zero := false, piece := none }

/-! Cores and lanes. -/

/-- The cores of a rectangle, row-major. -/
def rectCores (x0 y0 w h : Nat) : List Nat := (List.range h).flatMap fun r => (List.range w).map fun c => 12 * (y0 + r) + x0 + c
/-- The resident team whose rectangle holds a core. -/
def residentOn (s : State) (core : Nat) : Option (Nat × Team) := s.teams.find? fun e => e.2.saved.isNone && inRect e.2 core
/-- Whether a core of a context takes new teams and promoted threads (16 R356). DEDUCED (log 87). -/
def coreOpen (s : State) (c core : Nat) : Bool :=
  inPartition s c core && (if (s.core core).leaving then decide (s.beat.toNat ≤ (s.core core).changed)
                           else decide ((s.core core).changed < s.beat.toNat))
/-- How many new threads a lane can take: a free slot and 16 pool registers each, and none behind an ACQUIRE. -/
def laneCap (s : State) (core lane : Nat) : Nat :=
  if acquirePending s core lane then 0
  else min (16 - (laneThreads s core lane).length) (poolFree s core lane / 16)
/-- The capacities of a core's lanes. -/
def laneCaps (s : State) (core : Nat) : List Nat := (List.range 128).map (laneCap s core)
/-- The slot that a new thread of a lane takes: the lowest free one (12_execution_model.md R273 names none).
DESIGN CHOICE (log 110). -/
def freeSlot (s : State) (core lane : Nat) : Nat :=
  ((List.range 16).find? fun k => (s.thr (placeOf core lane k)).isNone).getD 0
/-- The lowest free lanes for a gang of a width: a half-bank, a bank or a bank pair (14 R343). -/
def seatGang (caps : List Nat) (width : Nat) : Option Nat :=
  ((List.range (128 / width)).map (· * width)).find? fun b => ((caps.drop b).take width).all (0 < ·)
/-- The capacities after a gang is seated. -/
def useLanes (caps : List Nat) (b width : Nat) : List Nat :=
  caps.take b ++ ((caps.drop b).take width).map (· - 1) ++ caps.drop (b + width)
/-- The base lanes of `n` gangs of a width on one core. -/
def seatGangs : Nat → List Nat → Nat → Option (List Nat)
  | 0, _, _ => some []
  | n + 1, caps, width =>
    match seatGang caps width with
    | none => none
    | some b => (seatGangs n (useLanes caps b width) width).map (b :: ·)
/-- The gangs of a team on core k of its rectangle. -/
def gangsOn (x : Shape) (k : Nat) : Nat := (x.gangs + x.w * x.h - 1 - k) / (x.w * x.h)
/-- Whether a core could hold its part of a shape when empty. -/
def emptyFits (x : Shape) (k : Nat) : Bool := (seatGangs (gangsOn x k) (List.replicate 128 16) x.width).isSome
/-- The base lanes a core offers to its part of a shape now (14 R343). -/
def coreSeats (s : State) (c : Nat) (x : Shape) (k core : Nat) : Option (List Nat) :=
  if coreOpen s c core && (residentOn s core).isNone
      && (decide (x.share + ((s.core core).shares.map (·.n)).sum ≤ 2048))
      && decide (x.slotNeed ≤ ((List.range 64).filter (physFree s core ·)).length) then
    seatGangs (gangsOn x k) (laneCaps s core) x.width
  else none
/-- An option for every element, or none. -/
def allSome {α : Type} : List (Option α) → Option (List α)
  | [] => some []
  | none :: _ => none
  | some x :: r => (allSome r).map (x :: ·)
/-- The corners a shape's rectangle may have, in order of their core number. -/
def corners (x : Shape) : List (Nat × Nat) :=
  (List.range (13 - x.h)).flatMap fun y => (List.range (13 - x.w)).map fun c => (c, y)
/-- The first rectangle that takes a shape now: its corner and the base lanes on each core. -/
def findRect (s : State) (c : Nat) (x : Shape) : Option (Nat × Nat × List (List Nat)) :=
  ((corners x).filterMap fun e =>
    (allSome ((rectCores e.1 e.2 x.w x.h).zipIdx.map fun k => coreSeats s c x k.2 k.1)).map fun l => (e.1, e.2, l)).head?
/-- Whether some rectangle of the partition could hold a shape when empty (14 R343). -/
def canEverFit (s : State) (c : Nat) (x : Shape) : Bool :=
  ((List.range (x.w * x.h)).all (emptyFits x)) && (corners x).any fun e => (rectCores e.1 e.2 x.w x.h).all (inPartition s c)

/-! The placement of a team (14 R343 to R346). -/

/-- A task record (14 R331, Table 9). -/
structure Task where
  entry : Nat
  args  : List Word
  tile  : Word
  succ  : Option Nat
  deriving DecidableEq, Repr
/-- The eight words at an offset. -/
def words8 (bs : List Byte) (off : Nat) : List Word := (List.range 8).map fun k => BitVec.ofNat 32 (pfield bs (off + 4 * k) 0 32)
/-- A record, if its reserved bits are zero. -/
def taskOf (bs : List Byte) : Option Task :=
  if pfield bs 0 57 7 != 0 || pfield bs 44 1 31 != 0 || pfield bs 48 57 7 != 0 || !zeros bs 56 8
      || (pfield bs 44 0 1 == 1 && pfield bs 48 0 57 % 16 != 0) then none
  else some ⟨pfield bs 0 0 57, words8 bs 8, BitVec.ofNat 32 (pfield bs 40 0 32),
             if pfield bs 44 0 1 == 1 then some (pfield bs 48 0 57) else none⟩
/-- What the next team of a packet runs on: its arguments, or the status against the packet. -/
def nextTask (s : State) (p : Packet) : Except Nat Task :=
  if p.typ == 1 then .ok ⟨0, words8 p.bytes 48, 0#32, none⟩
  else
    let r := pfield p.bytes 24 0 57
    let va := r + 64 * p.placed
    let bs : Chk (List Byte) := if r == 0 then .ok ((p.bytes.drop 128).take 64) else devRead s p.ctx va 64
    match bs with
    | .ok x => match taskOf x with
      | some t => .ok t
      | none => .error 1
    | _ => .error (readFault s p.ctx va 64)
/-- The serial of a context's next team (19_faults_traps_preemption.md R401): the count plus one, skipping 0 and serials
still held. -/
def nextSerial (s : State) (c : Nat) : Nat → Word → Word
  | 0, n => n
  | k + 1, n =>
    let m := n + 1#32
    if m == 0#32 || s.teams.any (fun e => e.2.ctx == c && e.2.serial == m) then nextSerial s c k m else m
/-- The gangs of a team, their s registers loaded (14 R345). -/
def teamGangs (x : Shape) (kds : List KDesc) (t : Task) (cores : List Nat) (seats : List (List Nat)) : List Gang :=
  (List.range x.gangs).map fun g =>
    let k := g % (x.w * x.h)
    let d := ((kds[g]?).or kds.head?).getD ⟨0, .general, 16, false⟩
    { index := g, core := (cores[k]?).getD 0, base := (((seats[k]?).getD [])[g / (x.w * x.h)]?).getD 0, width := x.width
      role := d.role, allot := d.allot, legacy := d.legacy
      s := Vector.ofFn fun n : Fin 64 => if n.val == 8 then t.tile else (t.args[n.val]?).getD 0#32
      key := 0#64 }
/-- The blocks of `n` threads in %tid order. -/
def takeBlocks (s : State) (c kib : Nat) : Nat → List Block → Option (List Block)
  | 0, _ => some []
  | n + 1, taken =>
    match lowestBlock s c taken kib with
    | none => none
    | some b => (takeBlocks s c kib n (b :: taken)).map (b :: ·)
/-- The threads of a gang put in their lanes, with the blocks of the team and which of them are still to be zeroed; `z` is
the time of the team's zeroing, or 0 while a block waits. -/
def startGang (s : State) (team : Nat) (x : Shape) (g : Gang) (entry z : Nat) (blocks : List (Block × Bool)) : State :=
  (List.range g.width).foldl (fun s t =>
    let tid := g.index * g.width + t
    let b := (blocks[tid]?).getD (⟨0, 0, 0⟩, false)
    let p := placeOf g.core (g.base + t) (freeSlot s g.core (g.base + t))
    s.setThr p { freshThread team tid (some g.index) g.index entry b.1 (s.dies[dieOf g.core % 8]'(by omega))
        (z + 64 * x.stagger * g.index) with zero := b.2 }) s
/-- A packet's team counted as placed. -/
def countPlaced (s : State) (k : Nat) : State :=
  match s.packet k with
  | some p =>
    s.setPacket k { p with placed := p.placed + 1, live := p.live + 1, next := 0
                           stage := if p.placed + 1 == p.total then .resident else p.stage }
  | none => s
/-- A packet that places nothing more, with a status. -/
def stopPacket (s : State) (k status : Nat) : State := failPacket s k status

/-- A team placed on a rectangle: its slices zeroed, its state laid out, its threads waiting for their start, and for the
zeroing of the blocks that a budget has not covered yet. DEDUCED (log 78). -/
def layTeam (s : State) (k : Nat) (p : Packet) (x : Shape) (t : Task) (blocks : List (Block × Bool))
    (r : Nat × Nat × List (List Nat)) : State :=
  let cores := rectCores r.1 r.2.1 x.w x.h
  let team := s.serial
  let c := p.ctx
  let sn := nextSerial s c 65536 (s.ctx c).serials
  let gangs := teamGangs x p.kds t cores r.2.2
  let tm : Team :=
    { ctx := c, serial := sn, index := BitVec.ofNat 32 p.placed, packet := k, x0 := r.1, y0 := r.2.1, w := x.w, h := x.h
      width := x.width, share := x.share, slotNeed := x.slotNeed, kib := x.kib, count := x.gangs * x.width, gangs := gangs
      rings := Vector.replicate 8 Ring.empty, saved := none, area := none, succ := t.succ }
  let s1 := State.setTeam (State.bump (s.setCtx c { s.ctx c with serials := sn })) team tm
  let s2 := cores.foldl (fun s core =>
    let z := s.zero (sliceLoc core 0) (2 ^ 22)
    let y := z.core core
    z.setCore core { y with
      shares := if x.share == 0 then y.shares else y.shares ++ [⟨team, 0, x.share⟩]
      tiles := if x.share == 0 then y.tiles else memZero y.tiles 0 (4096 * x.share)
      tileP := if x.share == 0 then y.tileP else y.tileP.filter fun m => x.share ≤ m / 32 }) s1
  let s3 := gangs.foldl (fun s g =>
    let d := ((p.kds[g.index]?).or p.kds.head?).getD ⟨0, .general, 16, false⟩
    startGang s team x g (if t.entry == 0 then d.entry else t.entry) (if blocks.any (·.2) then 0 else s.chron) blocks) s2
  countPlaced s3 k

/-- What reading the task record costs that the next team of a packet runs on, where it lies in memory. -/
def taskPlaces (s : State) (p : Packet) : List (Nat × Nat) :=
  if p.typ == 2 && pfield p.bytes 24 0 57 != 0 then devCost s p.ctx (pfield p.bytes 24 0 57 + 64 * p.placed) 64 else []
/-- An attempt to place the next team of a distributed packet, once the budget of its context admits the reading of its
record (14 R348): the state, and whether it changed. -/
def placeNext (s : State) (k : Nat) (p : Packet) : State × Bool :=
  let x := packetShape p.typ p.bytes
  if p.status != 0 || p.warm != 0 || copiesOut s k || !allFit s p.ctx (taskPlaces s p) then (s, false)
  else
    match nextTask s p with
    | .error e => (stopPacket s k e, true)
    | .ok t =>
      if !canEverFit s p.ctx x then (stopPacket s k 3, true)
      else
        match findRect s p.ctx x, takeBlocks s p.ctx x.kib (x.gangs * x.width) (takenBlocks s p.ctx) with
        | some r, some blocks =>
          let cores := rectCores r.1 r.2.1 x.w x.h
          match blocks.find? fun b => (blockLocs s p.ctx b).isNone with
          | some b => (spoilBlock s p.ctx b, true)
          | none =>
            let z := zeroAll (chargeAll s p.ctx (taskPlaces s p)) p.ctx
              (blocks.zipIdx.map fun b => ((cores[b.2 / x.width % (x.w * x.h)]?).getD 0, b.1))
            (layTeam z.1 k p x t (blocks.zip z.2) r, true)
        | _, _ => (s, false)

/-! Copies of packets handed to the copy engines (14 R332, R342). -/

/-- The sectors of a packet's copy handed to a queue at once (14 R332). DEDUCED (log 92). -/
def chunkSectors : Nat := 1024
/-- The first open core of a context whose queue c3 has room takes the next chunk of a copy (14 R332). DEDUCED (log 92). -/
def copyCore (s : State) (c : Nat) : Option Nat := (List.range 144).find? fun k => coreOpen s c k && queueRoom s k 3
/-- Sectors `i` to `i + n - 1` of a copy as elements; their addresses are translated when they are performed. -/
def lateSectors (src dst i n : Nat) : List (Nat × CopyElem) :=
  (List.range n).map fun j => (j, ⟨dst + 32 * (i + j), src + 32 * (i + j), 32, none, true, none, false, 0, false, 0, 0⟩)
/-- Sectors of a packet's copy put in a queue. -/
def handSectors (s : State) (k : Nat) (p : Packet) (core src dst i n : Nat) : State :=
  State.bump (enqueue s core 3 ⟨s.serial, p.ctx, 0, 32 * n, false, .copy (lateSectors src dst i n) (some k), none⟩)
/-- Whether the sectors of a warm copy go to this module's DRAM, where target 1 sends them (14 R342); asked as they are
handed over. DEDUCED (log 119). -/
def warmTargetOk (s : State) (p : Packet) (i n : Nat) : Bool :=
  let w := packetWarmBlock p.bytes
  w.tgt != 1 || (pagePieces (BitVec.ofNat 64 (w.dst + 32 * i)) (32 * n)).all fun q =>
    match translate s 0 p.ctx q.1 Access.store false 1 with
    | .ok pl => isDram s pl.loc
    | _ => true
/-- The next sectors of a packet's warm copy, or of its copy, handed over. -/
def handNext (s : State) (k : Nat) (p : Packet) : State × Bool :=
  if p.status != 0 then (s, false)
  else
    match copyCore s p.ctx with
    | none => (s, false)
    | some core =>
      if 0 < p.warm then
        let w := packetWarmBlock p.bytes
        let n := min chunkSectors p.warm
        let i := w.len / 32 - p.warm
        if warmTargetOk s p i n then
          ((handSectors s k p core w.src w.dst i n).setPacket k { p with warm := p.warm - n }, true)
        else (stopPacketCopies (failPacket (s.setPacket k { p with warm := 0 }) k 6) k, true)
      else if p.typ == 8 && p.stage == .distributed && (decide (0 < p.placed) || !copiesOut s k) then
        let n := min chunkSectors (p.total - p.placed)
        ((handSectors s k p core (pfield p.bytes 16 0 64) (pfield p.bytes 24 0 64) p.placed n).setPacket k
          { p with placed := p.placed + n, stage := if p.placed + n == p.total then .resident else p.stage }, true)
      else (s, false)

/-! TEAM_PLACEMENT and what follows it. -/

/-- Whether placement goes on for a context: enabled, and no pre-emption stands (19 R412, R413).
DEDUCED (log 77). -/
def placing (s : State) (c : Nat) : Bool := ctxEnabled s c && pstate s c == 0
/-- A packet put in its place in dispatch order. -/
def byOrder (e : Nat × Packet) : List (Nat × Packet) → List (Nat × Packet)
  | [] => [e]
  | f :: r => if e.2.order ≤ f.2.order then e :: f :: r else f :: byOrder e r
/-- The distributed packets whose contexts may place, in dispatch order. -/
def distributed (s : State) : List (Nat × Packet) :=
  ((inStage s .distributed).filter fun e => placing s e.2.ctx && e.2.status == 0).foldr byOrder []
/-- The reserved packet: the oldest, when its next team stood unplaced across two beats (14 R344).
A COPY packet, which has no team, is never it. DEDUCED (log 77). -/
def reserved (s : State) : Option (Nat × Packet) :=
  match ((distributed s).filter fun e => e.2.typ != 8).head? with
  | some e => if 2 ≤ e.2.next then some e else none
  | none => none
/-- The first of some attempts that changes the state. -/
def firstChange (f : State → Nat → Packet → State × Bool) (s : State) : List (Nat × Packet) → State × Bool
  | [] => (s, false)
  | e :: r =>
    match f s e.1 e.2 with
    | (s', true) => (s', true)
    | (_, false) => firstChange f s r
/-- The dispatcher's next act: sectors of a copy handed over, or a team placed. -/
def placeOne (s : State) : State × Bool :=
  let warm := s.packets.filter fun e => 0 < e.2.warm && placing s e.2.ctx
  match firstChange handNext s (warm ++ (distributed s).filter fun e => e.2.typ == 8) with
  | (s', true) => (s', true)
  | _ =>
    firstChange placeNext s (match reserved s with
      | some e => [e]
      | none => (distributed s).filter fun e => e.2.typ != 8)
/-- TEAM_PLACEMENT (14 R343 to R345). -/
def execTeamPlacement (s : State) : Out := .next (dispatchAll (placeOne s).1)

/-- Whether a block of a team's first threads is still to be zeroed. -/
def zeroing (s : State) (team : Nat) : Bool := s.threads.any fun e => e.2.team == team && e.2.gang.isSome && e.2.zero
/-- GANG_START: the threads of a gang whose time has come are ready, once the team's zeroing is performed (14 R346).
DEDUCED (log 78). -/
def execGangStart (team gang : Nat) (s : State) : Out :=
  if zeroing s team then .next s
  else .next { s with threads := s.threads.map fun e =>
    if e.2.team == team && e.2.gang == some gang then
      match e.2.status with
      | .waiting z => if z ≤ s.chron then (e.1, { e.2 with status := .ready s.cycle }) else e
      | _ => e
    else e }

/-- Whether a team's every thread has ended and its operations in the queues have completed (12 R280; 08_matrix_engine.md
R231; 14 R328). DEDUCED (log 75). -/
def teamOver (s : State) (k : Nat) (tm : Team) : Bool :=
  tm.saved.isNone && s.threads.all (fun e => e.2.team != k) &&
    (List.range 144).all fun core => (List.range 8).all fun q => (queueAt s core q).all fun e => !e.ofTeam k
/-- A core leaves its partition, if it was only waiting for its team (16 R356). DEDUCED (log 87). -/
def leavePartition (s : State) (c core : Nat) : State :=
  if (s.core core).leaving then
    let s1 := s.setCore core { s.core core with leaving := false }
    s1.setCtx c { s1.ctx c with desc := (s1.ctx c).desc &&& ~~~(1#1024 <<< (320 + core)) }
  else s
/-- The COUNT −1 at a successor counter (14 R331; 22_host_fabric_bringup.md R431). DEDUCED (log 76). -/
def countSuccessor (s : State) (tm : Team) (cell : Nat) : State :=
  match devCount s tm.ctx cell (-1#64) with
  | .ok s1 _ => s1
  | .trap s1 t =>
    if t.cause == .conflictingFill then conflictRecord s1 tm.ctx cell t
    else
      match lostOnWalk s tm.ctx 1025 cell with
      | some l => failPacket (lostRecord s1 tm.ctx l) tm.packet 8
      | none =>
        match s1.packet tm.packet with
        | some p => failureRecord s1 p 1 0
        | none => s1
/-- What the end of a team moves to and from DRAM: its work lists' entries, and its successor's cells (14 R348). -/
def endCost (s : State) (team : Nat) (tm : Team) : List (Nat × Nat) :=
  ((List.range 144).flatMap fun core => endPlaces s core team) ++
    match tm.succ with
    | some cell => devCells s tm.ctx cell Access.load 1025 cell
    | none => []
/-- TEAM_END, once the budget of the context admits it (12 R280; 13_thread_instructions.md R318; 14 R331). DEDUCED (log 75). -/
def execTeamEnd (team : Nat) (s : State) : Out :=
  match s.team team with
  | none => .next s
  | some tm =>
    if !teamOver s team tm || !allFit s tm.ctx (endCost s team tm) then .next s
    else
      let s1 := (List.range 144).foldl (fun s core =>
        let x := endSpill s core team
        let y := x.core core
        x.setCore core { y with binds := y.binds.filter (·.team != team), shares := y.shares.filter (·.team != team)
                                bufs := y.bufs.filter (·.team != team) }) s
      let s2 := { s1 with teams := mdel s1.teams team, groups := s1.groups.filter fun e => e.2.team != team }
      let s3 := (rectCores tm.x0 tm.y0 tm.w tm.h).foldl (fun s core => leavePartition s tm.ctx core) s2
      let s4 := match tm.succ with
        | some cell => countSuccessor s3 tm cell
        | none => s3
      let s5 := match s4.packet tm.packet with
        | some p => s4.setPacket tm.packet { p with live := p.live - 1 }
        | none => s4
      .next (dispatchAll s5)

end Sys2Proof.Machine
end

