-- ==== Sys2Proof/Machine/Swap.lean ====
section
/-! DEFINITION. Team swap (16_contexts_translation.md R374 to R376; 12_execution_model.md R299; 05_promise_cells.md R143,
R441; 08_matrix_engine.md R250; 09_signature_stage.md R268). -/

namespace Sys2Proof.Machine

/-! What stands in a team's window. -/

/-- The cores of a team's rectangle. -/
def teamCores (tm : Team) : List Nat := rectCores tm.x0 tm.y0 tm.w tm.h
/-- The number of a core in a rectangle, or 6 + core outside it. -/
def corePos (tm : Team) (core : Nat) : Nat :=
  if inRect tm core then (core / 12 - tm.y0) * tm.w + (core % 12 - tm.x0) else 6 + core
/-- The core of a number. -/
def posCore (tm : Team) (k : Nat) : Nat := if k < 6 then ((teamCores tm)[k]?).getD 0 else k - 6
/-- The window offset of a location in a team's slices. -/
def windowOff (tm : Team) (loc : Nat) : Option Nat :=
  if isSlice loc && inRect tm ((loc - 2 ^ 52) / 2 ^ 22) then
    some (corePos tm ((loc - 2 ^ 52) / 2 ^ 22) * 2 ^ 22 + loc % 2 ^ 22)
  else none
/-- The name by which a location of a swapped-out window is kept: no location of the machine. -/
def outLoc (team off : Nat) : Nat := 2 ^ 90 + team * 2 ^ 32 + off
/-- Where a location of a team's window is kept while the team is out; every other location as it is. -/
def toOut (tm : Team) (team loc : Nat) : Nat :=
  match windowOff tm loc with
  | some o => outLoc team o
  | none => loc
/-- Where a location kept for a team stands once the team is on its new rectangle. -/
def fromOut (tm : Team) (team loc : Nat) : Nat :=
  if outLoc team 0 ≤ loc ∧ loc < outLoc (team + 1) 0 then windowLoc tm (loc - outLoc team 0) else loc
/-- A run state with the barrier locations it holds moved. -/
def Status.relocate (f : Nat → Nat) : Status → Status
  | .parked (.barrier b ph) => .parked (.barrier (f b) ph)
  | .parked (.sleep a b ph u) => .parked (.sleep a (f b) ph u)
  | .parked (.trap tr w) => .parked (.trap { tr with bar := tr.bar.map f } w)
  | st => st
/-- Every location the machine keeps of a window moved: barrier and cell records, the cells that walks under way have visited,
live ordered cells, sleeping and waiting threads (05 R441; 16 R374, Table 5). DEDUCED (log 79). -/
def relocate (s : State) (f : Nat → Nat) : State :=
  { s with
    barWaiters := s.barWaiters.map fun w => { w with bar := f w.bar }
    cellWaiters := s.cellWaiters.map fun w => { w with loc := f w.loc }
    forwards := s.forwards.map fun e => (e.1, { e.2 with src := f e.2.src, loc := e.2.loc.map f })
    msgs := s.msgs.map fun e => (e.1, { e.2 with
      visited := e.2.visited.map fun c => (f c.1, c.2), first := e.2.first.map fun c => (f c.1, c.2)
      roots := e.2.roots.map fun r => { r with loc := f r.loc } })
    ordered := s.ordered.map fun c => { c with loc := f c.loc }
    threads := s.threads.map fun e => (e.1, { e.2 with status := e.2.status.relocate f })
    teams := s.teams.map fun e => (e.1, { e.2 with saved := e.2.saved.map fun v =>
      { v with threads := v.threads.map fun x => (x.1, { x.2 with status := x.2.status.relocate f }) } }) }

/-! The swap-out (16 R374). -/

/-- The threads of a team, with their places. -/
def teamThreads (s : State) (team : Nat) : List (Nat × Thread) := s.threads.filter fun e => e.2.team == team
/-- Whether a thread is parked. -/
def isParked (t : Thread) : Bool :=
  match t.status with
  | .parked _ => true
  | _ => false
/-- Whether an entry of a queue reads or writes a team's window. -/
def touchesWindow (s : State) (tm : Team) (e : QEntry) : Bool :=
  let hit (l : Nat) : Bool := (windowOff tm l).isSome
  match e.kind with
  | .marker _ => false
  | .copy left _ => left.any fun x =>
      if x.2.late then
        [(x.2.dst, Access.store), (x.2.src, Access.load)].any fun a =>
          match translate s 0 e.ctx (BitVec.ofNat 64 a.1) a.2 false 1 with
          | .ok pl => hit pl.loc
          | _ => false
      else hit x.2.dst || hit x.2.src || ((x.2.bar.map hit).getD false)
  | .eng op => op.locs.any hit
/-- Whether nothing of a team is under way: its operations and its writes performed, no operation of its context and no CINIT
toward its window, no message of its threads, its arrays at rest (16 R374, steps 2 and 3). -/
def quiescent (s : State) (team : Nat) (tm : Team) : Bool :=
  let mine (p : Nat) : Bool := ((s.thr p).map fun t => t.team == team).getD false
  ((List.range 144).all fun core => (List.range 8).all fun q => (queueAt s core q).all fun e =>
      !e.ofTeam team && (e.isMarker || e.ctx != tm.ctx || !touchesWindow s tm e))
    && s.mesh.all (fun w => !(w.place.map mine).getD false && (windowOff tm w.loc).isNone)
    && (teamThreads s team).all (fun e => !addHeld s e.1) && s.unacked.all (fun u => !mine u.place)
    && s.msgs.all (fun m => !mine m.2.place && match m.2.stage with
        | .event (.init ..) l => (windowOff tm l).isNone
        | _ => true)
    && (teamThreads s team).all (fun e => e.2.board.isEmpty)
    && (teamCores tm).all fun core => [(s.core core).arr0, (s.core core).arr1].all fun a => a != .busy && a != .holding
/-- The slots, tiles and buffers of a team on every core. -/
def saveSlots (s : State) (team : Nat) (tm : Team) : List (Nat × Nat × Memory × List Nat) :=
  (List.range 144).flatMap fun core => ((s.core core).binds.filter (·.team == team)).map fun b =>
    (corePos tm core, b.name, memCut (s.core core).slots (b.phys * 8192) 8192,
      ((s.core core).slotP.filter fun k => k / 32 == b.phys).map (· % 32))
/-- The share of a team on each core of its rectangle. -/
def saveTiles (s : State) (team : Nat) (tm : Team) : List (Nat × Memory × List Nat) :=
  (teamCores tm).filterMap fun core =>
    (shareOf s core team).map fun h =>
      (corePos tm core, memCut (s.core core).tiles (4096 * h.base) (4096 * h.n),
        ((s.core core).tileP.filter fun m => h.base ≤ m / 32 && m / 32 < h.base + h.n).map (· - 32 * h.base))
/-- The window's bytes by offset. -/
def saveWindow (s : State) (tm : Team) : Memory :=
  (teamCores tm).flatMap fun core =>
    (memCut s.mem (sliceLoc core 0) (2 ^ 22)).map fun c => (corePos tm core * 2 ^ 22 + c.1, c.2)
/-- The poisoned halves of the window by offset. -/
def saveWindowP (s : State) (tm : Team) : List Nat :=
  s.poison.filterMap fun h => (windowOff tm (16 * h)).map (· / 16)
/-- A size rounded up to 32 KiB. -/
def part32 (n : Nat) : Nat := (n + 32767) / 32768 * 32768
/-- The waiter records a swap saves (16 R374, Table 5): those of the team's threads at every barrier unit, one for each
barrier and core, and those held for the promise cells of its window, one for each cell, module and core. -/
def swapRecords (s : State) (team : Nat) (tm : Team) : Nat :=
  let ts := teamThreads s team
  ((s.barWaiters.filter fun w => ts.any fun e => e.1 == w.place && w.team.isNone).map
      fun w => (w.bar, coreOf w.place)).eraseDups.length
    + ((s.cellWaiters.filter fun w => (windowOff tm w.loc).isSome).map fun w => (w.loc, w.key)).eraseDups.length
/-- The bytes a team's swap record takes (16 R374, Table 5). -/
def swapSize (s : State) (team : Nat) (tm : Team) : Nat :=
  let ts := teamThreads s team
  let cores := tm.w * tm.h
  let recs := swapRecords s team tm
  32768 + part32 ((ts.map fun e => 640 + 4 * e.2.allot).sum) + part32 (264 * tm.gangs.length) + part32 (2 ^ 22 * cores)
    + part32 (8192 * (saveSlots s team tm).length) + part32 (4096 * tm.share * cores) + part32 (1024 + 4096 * 4 * cores)
    + part32 (300 * recs)
    + part32 (8 * ((List.range 144).map fun core => ((s.core core).wl.filter (·.team == team)).length).sum)
/-- The areas of a context's swap area that swapped teams hold. -/
def swapAreas (s : State) (c : Nat) : List (Nat × Nat) := s.teams.filterMap fun e => if e.2.ctx == c then e.2.area else none
/-- The lowest free range of the swap area for `n` bytes. -/
def swapRoom (s : State) (c n : Nat) : Option Nat :=
  let l := swapAreas s c
  ((0 :: l.map fun a => a.1 + a.2).filter fun o => decide (o + n ≤ cfield s c 640 40) &&
    l.all fun a => decide (o + n ≤ a.1) || decide (a.1 + a.2 ≤ o)).foldl
      (fun (r : Option Nat) o => match r with | some x => some (min x o) | none => some o) none
/-- The bytes of a swap record: their layout belongs to the device (16 R374; log 14). -/
def swapBytes : Nat → Nat → List Byte
  | 0, _ => []
  | n + 1, k => Config.swapByte k :: swapBytes n (k + 1)
/-- Where a swap record goes in the swap area, if every page of its range translates and none lies on an unreachable
module. DEDUCED (log 79). -/
def swapTargets (s : State) (c off n : Nat) : Option (List (Nat × Nat)) :=
  match rankAll ((pagePieces (BitVec.ofNat 64 (cfield s c 576 57 + off)) n).map fun q =>
      (translate s 0 c q.1 Access.store false 1).bind fun pl => .ok (pl.loc, q.2)) with
  | .ok l => if l.any fun e => isLost s e.1 then none else some l
  | _ => none
/-- What the walks of a swap record cost. -/
def swapWalks (s : State) (c off n : Nat) : List (Nat × Nat) := walkCosts s 0 c (BitVec.ofNat 64 (cfield s c 576 57 + off)) n
/-- A swap record written there, and charged with its walks. -/
def writeSwap (s : State) (c off n : Nat) (l : List (Nat × Nat)) : State :=
  { writePieces (chargeAll s c (swapWalks s c off n ++ l)) l (swapBytes n s.free) with free := s.free + n }
/-- What writing the frames on chip of a team's threads costs. -/
def swapFrames (s : State) (team : Nat) : List (Nat × Nat) :=
  (teamThreads s team).flatMap fun e => framePlaces s e.2 e.2.spilled.length e.2.chip.length
/-- What reading the swap record of a team costs. -/
def swapPlaces (s : State) (tm : Team) : List (Nat × Nat) :=
  match tm.area with
  | some a => devCost s tm.ctx (cfield s tm.ctx 576 57 + a.1) a.2
  | none => []
/-- A member as it is saved: its frames in memory, its tokens complete, its lane given back. -/
def savedThread (s : State) (t : Thread) : State × Thread :=
  let r := spillAll 4 s t
  (r.1, { r.2 with lent := false, lentFrames := 0, tok := Vector.ofFn fun k : Fin 16 =>
    ⟨none, (tokenFlags s (t.tok[k.val]'(by omega))).getD 0#5⟩ })
/-- Records that name a team's threads marked with the team and thread index (05 R143). -/
def markOut (s : State) (team : Nat) (ts : List (Nat × Thread)) : State :=
  let tid (p : Nat) (w : Option Nat) : Option Nat :=
    if w.isNone then (ts.find? (·.1 == p)).map (·.2.tid.toNat) else none
  { s with
    barWaiters := s.barWaiters.map fun w => match tid w.place w.team with
      | some n => { w with place := n, team := some team }
      | none => w
    cellWaiters := s.cellWaiters.map fun w => match if w.module.isSome then none else tid w.place w.team with
      | some n => { w with place := n, team := some team }
      | none => w
    forwards := s.forwards.map fun f => (f.1, if f.2.module.isSome then f.2 else
      { f.2 with who := f.2.who.map fun w => match tid w.1 w.2 with
        | some n => (n, some team)
        | none => w })
    records := s.records.map fun r => match r.place.bind (tid · r.team) with
      | some n => { r with place := some n, team := some team }
      | none => r }
/-- A team's engine state taken off every core. -/
def clearCores (s : State) (team : Nat) : State :=
  (List.range 144).foldl (fun s core =>
    let y := s.core core
    s.setCore core { y with binds := y.binds.filter (·.team != team), shares := y.shares.filter (·.team != team)
                            bufs := y.bufs.filter (·.team != team), wl := y.wl.filter (·.team != team) }) s
/-- The arrays of a team's cores held to QUIET and released again (08 R249, R250). DEDUCED (log 80). -/
def settleArrays (s : State) (tm : Team) : State :=
  (teamCores tm).foldl (fun s core =>
    [4, 5].foldl (fun s q => releaseArray (holdArray s core q) core q) s) s
/-- The swap-out itself, its conditions met, its record written at `l`. DEDUCED (log 79). -/
def swapOut (s : State) (team : Nat) (tm : Team) (off n : Nat) (l : List (Nat × Nat)) : State :=
  let ts := teamThreads s team
  let r := ts.foldl (fun (a : State × Map Thread) e =>
    let x := savedThread a.1 e.2
    (x.1, mset a.2 e.2.tid.toNat x.2)) (settleArrays s tm, [])
  let s1 := r.1
  let s2 := writeSwap s1 tm.ctx off n l
  let sv : Saved :=
    { threads := r.2, where_ := ts.foldl (fun m e => mset m e.2.tid.toNat e.1) [], window := saveWindow s1 tm
      windowP := saveWindowP s1 tm, slots := saveSlots s1 team tm, tiles := saveTiles s1 team tm
      bufs := (List.range 144).flatMap fun core =>
        ((s1.core core).bufs.filter (·.team == team)).map fun b => (corePos tm core, b)
      wl := (List.range 144).flatMap fun core =>
        ((s1.core core).wl.filter (·.team == team)).map fun e => (corePos tm core, e)
      shareN := tm.share }
  let s3 := markOut (clearCores s2 team) team ts
  let s4 := { s3 with
    threads := s3.threads.filter fun e => e.2.team != team
    links := s3.links.filter fun e => (windowOff tm e.1).isNone && (windowOff tm e.2).isNone }
  let s5 := relocate (s4.setTeam team { tm with saved := some sv, area := some (off, n) }) (toOut tm team)
  (teamCores tm).foldl (fun s core => leavePartition s tm.ctx core) s5

/-- Whether a team is to be swapped out: pre-emption asks for it, or its cores are needed by a reserved team (16 R374;
19_faults_traps_preemption.md R413). -/
def swapWanted (s : State) (tm : Team) : Bool :=
  pstate s tm.ctx == 1 ||
    match reserved s with
    | some e => e.2.ctx == tm.ctx && (findRect s e.2.ctx (packetShape e.2.typ e.2.bytes)).isNone
    | none => false
/-- TEAM_SWAP_OUT: a team whose every thread is parked is quiesced and saved; one that finds no room stays (16 R374), and one
whose record and frames the budget of its context does not admit waits (14 R348). -/
def execTeamSwapOut (team : Nat) (s : State) : Out :=
  match s.team team with
  | none => .next s
  | some tm =>
    let ts := teamThreads s team
    if tm.saved.isSome || ts.isEmpty || !(ts.all fun e => isParked e.2) || !swapWanted s tm || !quiescent s team tm then .next s
    else
      let n := swapSize s team tm
      match swapRoom s tm.ctx n with
      | none => .next s
      | some off =>
        match swapTargets s tm.ctx off n with
        | some l => .next (if allFit s tm.ctx (swapFrames s team ++ swapWalks s tm.ctx off n ++ l) then swapOut s team tm off n l else s)
        | none => .next s

/-! The resumption (16 R375). -/

/-- A place in a lane for a returning thread, beside the places already taken: a free slot, and 16 pool registers. -/
def seatIn (s : State) (used : List Nat) (core lane : Nat) : Option Nat :=
  let n := (used.filter fun p => p / 16 == core * 128 + lane).length
  if acquirePending s core lane || decide (poolFree s core lane < 16 * (n + 1)) then none
  else ((List.range 16).map (placeOf core lane ·)).find? fun p => (s.thr p).isNone && !used.contains p
/-- Places in `w` lanes from `b` on. -/
def seatBlock (s : State) (used : List Nat) (core w b : Nat) : Option (List Nat) :=
  allSome ((List.range w).map fun j => seatIn s used core (b + j))
/-- Threads that keep their lanes' order, put in a block of a core: their own lanes where they fit, else the first aligned
block. -/
def seatUnit (s : State) (used : List Nat) (core : Nat) (ps : List Nat) : Option (List Nat) :=
  (laneOf (ps.headD 0) :: (List.range (128 / ps.length)).map (· * ps.length)).findSome? (seatBlock s used core ps.length)
/-- Units seated on a core one after another, beside places already taken. -/
def seatUnits (s : State) (core : Nat) (l : List (Nat × Nat)) (us : List (List (Nat × Nat))) : Option (List (Nat × Nat)) :=
  us.foldl (fun a u =>
    match a with
    | some l => (seatUnit s (l.map (·.2)) core (u.map (·.2))).map fun ps => l ++ (u.map (·.1)).zip ps
    | none => none) (some l)
/-- A gang of a saved team, by its index. -/
def Team.gangOf (tm : Team) (g : Nat) : Option Gang := tm.gangs.find? (·.index == g)
/-- The place of a gang's thread: its place in the gang counts from the gang's new base. -/
def seatMember (s : State) (old new : Team) (used : List Nat) (g p : Nat) : Option Nat :=
  match old.gangOf g, new.gangOf g with
  | some a, some b => seatIn s used b.core (b.base + (laneOf p - a.base))
  | _, _ => none
/-- The promoted threads of a saved team, each with the members of its bound group, by lane. -/
def promotedUnits (sv : Saved) : List (List (Nat × Nat)) :=
  let l := sv.where_.filter fun e => ((mget sv.threads e.1).map (·.gang.isNone)).getD false
  let group (e : Nat × Nat) : Option Nat := (mget sv.threads e.1).bind (·.group)
  let mates (e : Nat × Nat) : List (Nat × Nat) :=
    if (group e).isNone then [e] else (l.filter fun x => group x == group e).foldr (fun x r =>
      (r.filter fun y => y.2 < x.2) ++ x :: r.filter fun y => x.2 ≤ y.2) []
  (l.map mates).eraseDups
/-- The core on which what a saved team kept under a number lands: that of the number in the rectangle, or the one found for
a core outside the old rectangle (08 R231, R250). -/
def landCore (new : Team) (land : List (Nat × Nat)) (k : Nat) : Nat :=
  if k < 6 then posCore new k else ((land.find? (·.1 == k)).map (·.2)).getD (k - 6)
/-- The numbers of the cores outside its old rectangle on which a saved team has threads or state. -/
def outsideOf (old : Team) (sv : Saved) : List Nat :=
  (((sv.where_.map fun e => corePos old (coreOf e.2)) ++ sv.slots.map (·.1) ++ sv.bufs.map (·.1) ++ sv.wl.map (·.1)).filter
    (6 ≤ ·)).eraseDups
/-- Whether a core has slots and work-list room for what a saved team brings to it. DEDUCED (log 79). -/
def resumeRoom (s : State) (new : Team) (land : List (Nat × Nat)) (sv : Saved) (core : Nat) : Bool :=
  decide ((sv.slots.filter (landCore new land ·.1 == core)).length ≤ ((List.range 64).filter (physFree s core ·)).length)
    && decide ((s.core core).wl.length + (sv.wl.filter (landCore new land ·.1 == core)).length ≤ 4096)
/-- The cores on which what a saved team kept of a core outside its rectangle may land: that core, then the others of the
partition, each for one such core, so that the team's names never meet; one of the new rectangle only where the team
kept no slot and no buffer there (08 R231, R250). DEDUCED (log 107). DEDUCED (log 79). -/
def landings (s : State) (new : Team) (sv : Saved) (land : List (Nat × Nat)) (k : Nat) : List Nat :=
  let free := ((k - 6) :: List.range 144).filter fun y => coreOpen s new.ctx y && !inRect new y && !land.any (·.2 == y)
  if sv.slots.any (·.1 == k) || sv.bufs.any (·.1 == k) then free else free ++ teamCores new
/-- The units of a core outside the old rectangle seated on the first core that takes them, with the state kept there. -/
def landOne (s : State) (old new : Team) (sv : Saved) (a : List (Nat × Nat) × List (Nat × Nat)) (k : Nat) :
    Option (List (Nat × Nat) × List (Nat × Nat)) :=
  (landings s new sv a.2 k).findSome? fun y =>
    match seatUnits s y a.1 ((promotedUnits sv).filter fun u => corePos old (coreOf ((u.headD (0, 0)).2)) == k) with
    | some l => if resumeRoom s new (a.2 ++ [(k, y)]) sv y then some (l, a.2 ++ [(k, y)]) else none
    | none => none
/-- The places of a saved team's threads on a rectangle: a gang's threads from the gang's seat, then the promoted threads, on
the core of the same number in the rectangle, or on the cores found for those outside it, which are named beside.
DEDUCED (log 79). -/
def resumePlaces (s : State) (old new : Team) (sv : Saved) : Option (List (Nat × Nat) × List (Nat × Nat)) :=
  let gangs := sv.where_.foldl (fun (a : Option (List (Nat × Nat))) e =>
    match a, (mget sv.threads e.1).bind (·.gang) with
    | some l, some g => (seatMember s old new (l.map (·.2)) g e.2).map fun p => l ++ [(e.1, p)]
    | a, _ => a) (some [])
  let inside := (List.range 6).foldl (fun (a : Option (List (Nat × Nat))) k =>
    match a with
    | some l => seatUnits s (posCore new k) l
        ((promotedUnits sv).filter fun u => corePos old (coreOf ((u.headD (0, 0)).2)) == k)
    | none => none) gangs
  (outsideOf old sv).foldl (fun a k =>
    match a with
    | some x => landOne s old new sv x k
    | none => none) (inside.map (·, []))
/-- The shape of a team, as placement judges it (14 R343). -/
def teamShape (tm : Team) : Shape := ⟨tm.width, tm.gangs.length, tm.w, tm.h, tm.share, tm.slotNeed, tm.kib, 0⟩
/-- A team on a rectangle, its gangs at their seats on each core. -/
def movedTeam (tm : Team) (x0 y0 : Nat) (seats : List (List Nat)) : Team :=
  let new := { tm with x0 := x0, y0 := y0 }
  { new with gangs := tm.gangs.map fun g =>
      let k := g.index % (tm.w * tm.h)
      { g with core := posCore new k, base := (((seats[k]?).getD [])[g.index / (tm.w * tm.h)]?).getD 0 } }
/-- The first rectangle on which placement would accept a saved team, with its threads' places (16 R375; 14 R343).
DEDUCED (log 79). -/
def resumeRect (s : State) (tm : Team) (sv : Saved) : Option (Team × List (Nat × Nat) × List (Nat × Nat)) :=
  (corners (teamShape tm)).findSome? fun e =>
    match allSome ((rectCores e.1 e.2 tm.w tm.h).zipIdx.map fun k => coreSeats s tm.ctx (teamShape tm) k.2 k.1) with
    | none => none
    | some seats =>
      let new := movedTeam tm e.1 e.2 seats
      match resumePlaces s tm new sv with
      | none => none
      | some (l, land) => if (teamCores new).all (resumeRoom s new land sv) then some (new, l, land) else none
/-- Memory restored at a base. -/
def placeBytes (m : Memory) (base : Nat) (bs : Memory) : Memory := bs.foldl (fun m c => memPut m (base + c.1) c.2) m
/-- A saved slot bound to a fresh physical slot. -/
def restoreSlot (s : State) (core team : Nat) (x : Nat × Nat × Memory × List Nat) : State :=
  match freePhys s core with
  | none => s
  | some ph =>
    let y := (zeroSlot s core ph).core core
    s.setCore core { y with
      binds := y.binds ++ [⟨ph, team, x.2.1⟩], slots := placeBytes y.slots (8192 * ph) x.2.2.1
      slotP := x.2.2.2.foldl (fun l k => setAdd l (32 * ph + k)) y.slotP }
/-- A saved share restored. -/
def restoreTiles (s : State) (new : Team) (team n : Nat) (x : Nat × Memory × List Nat) : State :=
  let core := posCore new x.1
  let y := s.core core
  s.setCore core { y with
    shares := y.shares ++ [⟨team, 0, n⟩], tiles := placeBytes (memZero y.tiles 0 (4096 * n)) 0 x.2.1
    tileP := x.2.2.foldl setAdd (y.tileP.filter fun m => n ≤ m / 32) }
/-- A saved window restored to the slices of its new rectangle. -/
def restoreWindow (s : State) (new : Team) (sv : Saved) : State :=
  let s1 := (teamCores new).foldl (fun s core => s.zero (sliceLoc core 0) (2 ^ 22)) s
  { s1 with
    mem := sv.window.foldl (fun m c => memPut m (windowLoc new c.1) c.2) s1.mem
    poison := sv.windowP.foldl (fun l h => setAdd l (windowLoc new (16 * h) / 16)) s1.poison }
/-- Records of a team's threads rewritten to name their new places (05 R143; 16 R375). -/
def markIn (s : State) (team : Nat) (places : List (Nat × Nat)) : State :=
  let at_ (n : Nat) (w : Option Nat) : Option Nat := if w == some team then (places.find? (·.1 == n)).map (·.2) else none
  { s with
    barWaiters := s.barWaiters.map fun w => match at_ w.place w.team with
      | some p => { w with place := p, team := none }
      | none => w
    cellWaiters := s.cellWaiters.map fun w => match if w.module.isSome then none else at_ w.place w.team with
      | some p => { w with place := p, team := none, core := coreOf p }
      | none => w
    forwards := s.forwards.map fun f => (f.1, if f.2.module.isSome then f.2 else { f.2 with
      core := ((f.2.who.findSome? fun w => at_ w.1 w.2).map coreOf).getD f.2.core
      who := f.2.who.map fun w => match at_ w.1 w.2 with
        | some p => (p, none)
        | none => w })
    records := s.records.map fun r => match r.place.bind (at_ · r.team) with
      | some p => { r with place := some p, team := none }
      | none => r }
/-- The members of a team's bound groups, by lane, after a resumption (07_compute_instructions.md R217). -/
def regroup (s : State) (team : Nat) : State :=
  { s with groups := s.groups.map fun e =>
      if e.2.team == team then
        (e.1, { e.2 with members := (s.threads.filter fun x => x.2.group == some e.1).map (·.1) }) else e }
/-- The address of a cell waiter in a moved window follows its slice (05 R441). -/
def renameWaiters (s : State) (new : Team) : State :=
  { s with cellWaiters := s.cellWaiters.map fun w =>
      if (windowOff new w.loc).isSome then { w with va := apertureVa s w.ctx w.loc } else w }
/-- A team put back on a rectangle. A thread returns with its 16 registers, as from a lent lane, and has the rest back as
its lane's pool supplies them (12 R286). DEDUCED (log 79). -/
def resumeOn (s : State) (team : Nat) (new : Team) (sv : Saved) (places land : List (Nat × Nat)) : State :=
  let s1 := restoreWindow s new sv
  let s2 := sv.slots.foldl (fun s x => restoreSlot s (landCore new land x.1) team x) s1
  let s3 := sv.tiles.foldl (fun s x => restoreTiles s new team sv.shareN x) s2
  let s4 := sv.bufs.foldl (fun s x =>
    let core := landCore new land x.1
    s.setCore core { s.core core with bufs := (s.core core).bufs ++ [x.2] }) s3
  let s5 := sv.wl.foldl (fun s x =>
    let core := landCore new land x.1
    setWl s core ((s.core core).wl ++ [x.2])) s4
  let s6 := relocate (s5.setTeam team { new with saved := none, area := none }) (fromOut new team)
  let s7 := places.foldl (fun s e =>
    match mget sv.threads e.1 with
    | some t =>
      let t1 := { t with status := t.status.relocate (fromOut new team), lent := true, lentFrames := min 4 (fsp t) }
      s.setThr e.2 (match t1.status with
        | .ready _ => { t1 with status := .ready s.cycle }
        | _ => t1)
    | none => s) s6
  let s8 := places.foldl (fun s e =>
    match s.thr e.2 with
    | some t => if restoreFits s e.2 t then restoreThread s e.2 t else s
    | none => s) s7
  renameWaiters (regroup (markIn s8 team places) team) new
/-- Whether a saved thread can run again: woken, or asleep until a time that has come. DEDUCED (log 79). -/
def anyWoken (s : State) (sv : Saved) : Bool := sv.threads.any fun e =>
  match e.2.status with
  | .parked (.sleep _ _ _ u) => decide (u.toNat ≤ s.chron)
  | .parked _ => false
  | _ => true
/-- TEAM_RESUME: a swapped team with a woken thread is put on the first rectangle that takes it (16 R375), when its
context's budget admits the reading of its record. -/
def execTeamResume (team : Nat) (s : State) : Out :=
  match s.team team with
  | none => .next s
  | some tm =>
    match tm.saved with
    | none => .next s
    | some sv =>
      if !placing s tm.ctx || !anyWoken s sv || (reserved s).isSome || !allFit s tm.ctx (swapPlaces s tm) then .next s
      else
        match resumeRect s tm sv with
        | some (new, l, land) => .next (resumeOn (chargeAll s tm.ctx (swapPlaces s tm)) team new sv l land)
        | none => .next s

end Sys2Proof.Machine
end

