-- ==== Sys2Proof/Machine/Recovery.lean ====
section
/-! DEFINITION. Recovery: the writing of records, resumption, pre-emption and the forced reset
(19_faults_traps_preemption.md R396 to R415). -/

namespace Sys2Proof.Machine

/-! Interrupts (22_host_fabric_bringup.md R425). -/

/-- An interrupt vector of a function signalled; the PF's vectors 3 to 7 never are. -/
def signal (s : State) (fn vec : Nat) : State :=
  if fn == 0 && 3 ≤ vec && vec ≤ 7 then s else { s with msi := s.msi ++ [(fn, vec)] }
/-- The interrupt-map entry of a context. -/
def intEntry (s : State) (c : Nat) : Word := (mget s.intMap c).getD (BitVec.ofNat 32 (8 + c % 2040))
/-- The vector of a context's queues signalled, unless masked. -/
def signalCtx (s : State) (c : Nat) : State :=
  let e := intEntry s c
  if e.getLsbD 31 then s else signal s (field e 11 6) (field e 0 11)

/-! Records (19 R399, R400). -/

/-- A place of a fault-record queue or a system-call ring: its location, or none on a fault. DEDUCED (log 83). -/
def recordLoc (s : State) (c ea n : Nat) (host : Bool) (a : Access) : Option Nat :=
  if host then some (hostLoc (ctxPasid s c) ea)
  else
    match translate s 0 c (BitVec.ofNat 64 ea) a false 1 with
    | .ok pl => if n = 0 then none else some pl.loc
    | _ => none
/-- Whether a record goes to the system-call ring. -/
def toRing (s : State) (r : HeldRecord) : Bool := r.kind == 4 && cfield s r.ctx 832 57 != 0
/-- The base, size and kind of memory of the queue a record goes to. DEDUCED (log 83). -/
def recordQueue (s : State) (r : HeldRecord) : Nat × Nat × Bool :=
  if toRing s r then (cfield s r.ctx 832 57, 2 ^ cfield s r.ctx 889 5, cfield s r.ctx 894 1 == 1)
  else (cfield s r.ctx 768 57, 2 ^ cfield s r.ctx 825 5, false)
/-- What an attempt to write a record gives. -/
inductive Written where
  | done (s : State)
  | full
  | fault
  deriving DecidableEq, Repr
/-- The cause a record names (19 R401, Table 4). -/
def HeldRecord.cause (r : HeldRecord) : Nat := leNat (r.bytes.take 2) / 16 % 64
/-- A record's slot written; on an unreachable module the write is dropped with a record of its own, but for that record
itself (22 R430). DEDUCED (log 83). -/
def putRecord (s : State) (r : HeldRecord) (l : Nat) : State :=
  if !isLost s l then s.write l r.bytes
  else if r.kind == 2 && r.cause == 24 then s else lostRecord s r.ctx l
/-- The device's counts of the queue a record goes to (19 R399, Table 3). DEDUCED (log 83). -/
def recordCount (s : State) (r : HeldRecord) : QCount := if toRing s r then (s.ctx r.ctx).scr else (s.ctx r.ctx).frq
/-- The next record counted there. DEDUCED (log 83). -/
def countRecord (s : State) (r : HeldRecord) : State :=
  let x := s.ctx r.ctx
  s.setCtx r.ctx (if toRing s r then { x with scr := { x.scr with write := x.scr.write + 1#32 } }
    else { x with frq := { x.frq with write := x.frq.write + 1#32 } })
/-- What the writing of a record costs: in the queue's header and in its slot, with their walks (14_scheduling.md R348).
DEDUCED (log 91). -/
def recordCost (s : State) (r : HeldRecord) (h l : Nat) : List (Nat × Nat) :=
  let (base, n, host) := recordQueue s r
  let walks (ea : Nat) : List (Nat × Nat) := if host then [] else walkCost s 0 r.ctx (BitVec.ofNat 64 ea)
  walks base ++ [(h, 8)] ++ walks (base + 64 + 64 * ((recordCount s r).write.toNat % n)) ++ [(l, 64)]
/-- A record written to its slot, then counted by the device, which writes its count to the header, and the vector signalled
(19 R399; 00_scope.md R9); one that its context's budget does not admit waits (14_scheduling.md R348). A header on an
unreachable module, which cannot be read, is a fault of the write. DEDUCED (log 83). -/
def writeRecord (s : State) (r : HeldRecord) : Written :=
  let (base, n, host) := recordQueue s r
  match recordLoc s r.ctx base 8 host Access.both with
  | none => .fault
  | some h =>
    if isLost s h then .fault
    else
    let w := (recordCount s r).write.toNat
    let rd := leNat (s.read (h + 4) 4)
    if (w + 2 ^ 32 - rd) % 2 ^ 32 == n then .full
    else
      match recordLoc s r.ctx (base + 64 + 64 * (w % n)) 64 host Access.store with
      | none => .fault
      | some l =>
        let cost := recordCost s r h l
        let s1 := (countRecord (putRecord (chargeAll s r.ctx cost) r l) r).write h (toBytes 4 ((w + 1) % 2 ^ 32))
        let s2 := if r.unit == unitHoltlink || r.unit == unitEthernet then signal s1 0 2 else s1
        if allFit s r.ctx cost then .done (signalCtx s2 r.ctx) else .full
/-- Whether the queue of a record takes it: its context is not idle, or the record is a report; and no write to the queue
has faulted since the context was enabled (19 R400). DEDUCED (log 82). -/
def queueTakes (s : State) (r : HeldRecord) : Bool :=
  (cfield s r.ctx 30 2 != 0 || r.kind == 3) && !(s.ctx r.ctx).stopped.contains (toRing s r)
/-- Whether a record is the first its unit holds: every earlier one comes before it, but one whose queue takes none, and, of
a device unit, one of another context that waits for its full queue (19 R400). DEDUCED (log 82). -/
def firstOfUnit (s : State) (r : HeldRecord) : Bool :=
  (s.records.takeWhile fun x => x.id != r.id).all fun x =>
    x.unit != r.unit || !queueTakes s x || (decide (144 ≤ x.unit) && x.ctx != r.ctx && writeRecord s x == .full)
/-- Whether nothing a thread has issued is still under way (02_encoding.md R75; 19 R396). -/
def settled (s : State) (p : Nat) (team : Option Nat) (t : Thread) : Bool :=
  t.board.isEmpty && (team.isSome || (!writesPending s p && s.unacked.all (·.place != p)))
/-- A thread whose record is written. -/
def markWritten (s : State) (p : Nat) (team : Option Nat) : State :=
  match whoGet s p team with
  | some t =>
    match t.status with
    | .parked (.trap tr _) => whoSet s p team { t with status := .parked (.trap tr true) }
    | _ => s
  | none => s
/-- Whether a record may be written now: its queue takes it, its unit holds none before it, its thread's work is settled. -/
def recordRipe (s : State) (r : HeldRecord) : Bool :=
  queueTakes s r && firstOfUnit s r &&
    match r.place with
    | none => true
    | some p => match whoGet s p r.team with
      | some t => settled s p r.team t
      | none => true
/-- FAULT_RECORD_WRITE: a held record is written; a write that faults fails the context (19 R399, R400).
DEDUCED (log 82). -/
def execFaultRecordWrite (k : Nat) (s : State) : Out :=
  match s.records.find? fun r => r.id == k && recordRipe s r with
  | none => .next s
  | some r =>
    match writeRecord s r with
    | .full => .next s
    | .fault =>
      let s1 := setCfield s r.ctx 30 2 2
      .next (signalCtx (s1.setCtx r.ctx { s1.ctx r.ctx with stopped := toRing s r :: (s1.ctx r.ctx).stopped }) r.ctx)
    | .done s1 =>
      let s2 := { s1 with records := s1.records.filter (·.id != k) }
      .next (match r.place with
        | some p => markWritten s2 p r.team
        | none => s2)

/-! Resumption (19 R404, R405). -/

/-- A thread that goes on at an address, its replayable mark cleared (19 R404). -/
def resumeWho (s : State) (p : Nat) (team : Option Nat) (t : Thread) (pc : DWord) : State :=
  match team with
  | none => resumeAt s p t pc
  | some _ => whoSet s p team { t with status := .ready s.cycle, replay := false, pc := pc, pri := 0 }
/-- Mode REPLAY (19 R404). -/
def replayThread (s : State) (p : Nat) (team : Option Nat) (t : Thread) : State :=
  let t1 := { t with replays := t.replays + 1, ending := false }
  let entry : DWord := t.region.setWidth 64
  match checkTarget s 144 (ctxOf s t) 1 entry with
  | .ok _ => resumeWho s p team t1 entry
  | .trap tr => trapWho s p team t1 { tr with at_ := some entry }
  | .stall _ => s
/-- The address after the instruction a thread stands at; its own address when its line cannot be fetched.
DEDUCED (log 81). -/
def afterPc (s : State) (p : Nat) (t : Thread) : DWord :=
  match peek s p t with
  | some (p0, _, _) => nextPc t.pc (Decode.parcelCount p0)
  | none => t.pc
/-- A barrier's bytes at a location as a thread's record keeps it: memory, or the window of its swapped-out team. -/
def barKept (s : State) (team : Option Nat) (loc : Nat) : BitVec 128 :=
  match team.bind fun k => ((s.team k).bind (·.saved)).map (k, ·) with
  | some (k, v) =>
    if outLoc k 0 ≤ loc then BitVec.ofNat 128 (leNat (memRead v.window (loc - outLoc k 0) 16)) else barRead s loc
  | none => barRead s loc
/-- Mode CONTINUE of a promise-miss: it waits as TBWAIT first, on the record's barrier and phase (19 R405). None while the
unit has no room. DEDUCED (log 81). -/
def continueMiss (s : State) (p : Nat) (team : Option Nat) (t : Thread) (tr : Trap) : Option State :=
  let npc := afterPc s p t
  let ph : BitVec 4 := tr.info0.extractLsb' 0 4
  match tr.bar with
  | none => some (resumeWho s p team t npc)
  | some loc =>
    if barPhase (barKept s team loc) != ph then some (resumeWho s p team t npc)
    else if isSlice loc && !barRoom s loc then none
    else
      some (whoSet { s with barWaiters := s.barWaiters ++ [⟨loc, ph, p, team⟩] } p team
        { t with status := .parked (.barrier loc ph), replay := false, npc := npc })
/-- The default mode of a cause (19 R395, Table 1): 0 REPLAY, 1 RETRY, 2 CONTINUE. -/
def defaultMode (tr : Trap) : Nat :=
  match tr.cause with
  | .retiredOpcode | .promiseMiss | .systemCall => 2
  | .breakpoint => 1
  | _ => 0
/-- The trap a thread is parked by, once its record is written. -/
def trapOf (t : Thread) : Option Trap :=
  match t.status with
  | .parked (.trap tr true) => some tr
  | _ => none
/-- A parked thread resumed in a mode (19 R404, R405); none while it must wait for room. DEDUCED (log 81). -/
def resumeThread (s : State) (p : Nat) (team : Option Nat) (t : Thread) (tr : Trap) (mode : Nat) (v : Option DWord) :
    Option State :=
  let t1 := match v with
    | some x => t.setV64 0#7 x
    | none => t
  if mode == 0 then some (replayThread s p team t1)
  else if mode == 1 then some (resumeWho s p team t1 t1.pc)
  else if tr.cause == .promiseMiss then continueMiss s p team t1 tr
  else some (resumeWho s p team { t1 with ending := false } (afterPc s p t1))
/-- Every thread of a context with a written record: place or %tid, team, thread, trap. -/
def trapped (s : State) (c : Nat) : List (Nat × Option Nat × Thread × Trap) :=
  (s.threads.filterMap fun e => if ctxOf s e.2 == c then (trapOf e.2).map fun tr => (e.1, none, e.2, tr) else none) ++
  s.teams.flatMap fun k => if k.2.ctx == c then
    ((k.2.saved.map (·.threads)).getD []).filterMap fun e => (trapOf e.2).map fun tr => (e.1, some k.1, e.2, tr)
  else []

/-! The recovery command block (19 R412). -/

/-- The recovery command ended with a status. -/
def recDone (s : State) (st : BitVec 2) : State := { s with rec_ := { s.rec_ with busy := false, status := st } }
/-- Whether the block runs this command. -/
def recRuns (s : State) (op : BitVec 4) : Bool := s.rec_.busy && s.rec_.op == op
/-- The context of the command. -/
def recCtx (s : State) : Nat := s.rec_.ctx.toNat
/-- The thread RESUME names: its team's serial and its %tid. -/
def namedThread (s : State) : Option (Nat × Option Nat × Thread × Trap) :=
  (trapped s (recCtx s)).find? fun e =>
    ((s.team e.2.2.1.team).map (·.serial)) == some (lo32 s.rec_.a) && e.2.2.1.tid == hi32 s.rec_.a
/-- RESUME. -/
def execResume (s : State) : Out :=
  if !recRuns s 1#4 then .next s
  else if s.rec_.mode == 3#2 then .next (recDone s 1#2)
  else
    match namedThread s with
    | none => .next (recDone s 1#2)
    | some (p, team, t, tr) =>
      match resumeThread s p team t tr s.rec_.mode.toNat (if s.rec_.setv then some s.rec_.b else none) with
      | some s1 => .next (recDone s1 0#2)
      | none => .next s
/-- RESUMEALL: every such thread in its default mode; the command ends once none waits for room at a barrier unit. -/
def execResumeall (s : State) : Out :=
  if !recRuns s 2#4 then .next s
  else
    let r := (trapped s (recCtx s)).foldl (fun (a : State × Bool) e =>
      match whoGet a.1 e.1 e.2.1 with
      | some t =>
        match resumeThread a.1 e.1 e.2.1 t e.2.2.2 (defaultMode e.2.2.2) none with
        | some s1 => (s1, a.2)
        | none => (a.1, false)
      | none => a) (s, true)
    .next (if r.2 then recDone r.1 0#2 else r.1)
/-- Whether a team or a packet of a context is over and has not been retired yet. -/
def retiring (s : State) (c : Nat) : Bool :=
  (s.teams.any fun e => e.2.ctx == c && teamOver s e.1 e.2) || s.packets.any fun e => e.2.ctx == c && packetOver s e.1 e.2
/-- PREEMPT (19 R413): the retirement of a packet's last team comes first (19 R415, Table 8). -/
def execPreempt (s : State) : Out :=
  if !recRuns s 3#4 || retiring s (recCtx s) then .next s
  else
    let c := recCtx s
    if pstate s c == 1 then .next (recDone s 1#2)
    else
      let us := cfield s c 896 24
      let s1 := setCfield s c 921 2 1
      .next (recDone (s1.setCtx c { s1.ctx c with
        deadline := some (s.chron + (if us == 0 then 2000 else us) * 1000) }) 0#2)
/-- RESTART (19 R412). -/
def execRestart (s : State) : Out :=
  if !recRuns s 4#4 then .next s
  else
    let c := recCtx s
    let s1 := setCfield s c 921 2 0
    .next (recDone (s1.setCtx c { s1.ctx c with deadline := none }) 0#2)
/-- A report's bytes (19 R401, Table 5). -/
def reportBytes (c cause i0 i1 : Nat) : List Byte :=
  toBytes 8 (3 + cause * 2 ^ 4 + c * 2 ^ 14) ++ toBytes 8 0 ++ toBytes 8 0 ++ toBytes 8 0 ++ toBytes 8 0 ++ toBytes 8 i0
    ++ toBytes 8 i1 ++ toBytes 8 0
/-- A report produced by firmware. -/
def report (s : State) (c cause i0 i1 : Nat) : State :=
  { s with
    records := s.records ++ [⟨s.serial, unitFirmware, c, 3, none, none, reportBytes c cause i0 i1⟩]
    serial := s.serial + 1 }
/-- The resident teams of a context. -/
def residents (s : State) (c : Nat) : List (Nat × Team) := s.teams.filter fun e => e.2.ctx == c && e.2.saved.isNone
/-- PREEMPT_DRAINED: no team of the context is resident (19 R413). -/
def execPreemptDrained (c : Nat) (s : State) : Out :=
  if pstate s c == 1 && (residents s c).isEmpty then
    let s1 := setCfield s c 921 2 2
    let s2 := s1.setCtx c { s1.ctx c with deadline := none }
    .next (report s2 c 22 (s.teams.filter fun e => e.2.ctx == c).length 0)
  else .next s

/-! The forced reset (19 R414). -/

/-- The places of a context's threads. -/
def ctxPlaces (s : State) (c : Nat) : List Nat := s.threads.filterMap fun e => if ctxOf s e.2 == c then some e.1 else none
/-- The teams of a context. -/
def ctxTeams (s : State) (c : Nat) : List Nat := s.teams.filterMap fun e => if e.2.ctx == c then some e.1 else none
/-- Step 1: the writes of the context's threads that are on the mesh are performed. -/
def flushMesh (s : State) (c : Nat) (ps : List Nat) : State :=
  let s1 := (s.mesh.filter (·.ctx == c)).foldl (fun s w => store s c w.loc w.bytes w.poison) s
  { s1 with mesh := s1.mesh.filter (·.ctx != c), unacked := s1.unacked.filter fun u => !ps.contains u.place }
/-- The queues that name a context, touched or not (14 R320: 8,192 of them, whose reset value names context 0). -/
def queuesOf (s : State) (c : Nat) : List Nat :=
  (if c == 0 then List.range 8192 else s.queues.map (·.1)).filter fun q => qfield s q 96 12 == c
/-- Step 1: a queue of the context fails, its record held like any device record (14 R324). DEDUCED (log 80). -/
def resetQueue (s : State) (q : Nat) : State :=
  let s1 := setQfield (setQfield s q 192 2 2) q 58 1 0
  let s2 := s1.setQueue q { s1.queue q with calls := [], stop := none, stalled := none }
  queueRecord s2 (qfield s q 96 12) q 3 (qfield s q 160 32)
/-- A packet of a context that is reset ends: with status 4, or with 7 where it failed with its queue before (19 R414; 14
R324). -/
def resetPacket (s : State) (k : Nat) : State :=
  match s.packet k with
  | some p => endFailure (completePacket s k (if p.stage == .failed then 7 else 4)) p.ctx p.queue
  | none => s
/-- The units of an operation stopped by a reset that are written after all: any subset (08 R251; 09 R268).
DEDUCED (log 80). -/
def keptUnits {α : Type} (s : State) (l : List α) : List α :=
  ((l.zipIdx s.free).filter fun e => Config.resetKeeps e.2).map (·.1)
/-- A stopped copy's element that was on its way: its units on the mesh are performed with step 1; else it is performed or
not (19 R414). -/
def stopElem (s : State) (ctx : Nat) (kept : Bool) (x : CopyElem) : State :=
  if x.sent then countLanding s ctx x
  else if !kept then s
  else if x.late then
    match rankAll [translate s 0 ctx (BitVec.ofNat 64 x.dst) Access.store false 1,
                   translate s 0 ctx (BitVec.ofNat 64 x.src) Access.load false 1] with
    | .ok [d, c] => landElem s ctx { x with dst := d.loc, src := c.loc }
    | _ => s
  else landElem s ctx x
/-- What a started operation of a core still writes as it stops. DEDUCED (log 80). -/
def stopOp (s : State) (core : Nat) (e : QEntry) : State :=
  if !e.started then s
  else
    match e.kind with
    | .marker _ => s
    | .copy left _ =>
      let l := left.filter fun x => x.2.going
      let kept := (keptUnits s l).map (·.1)
      l.foldl (fun s x => stopElem s e.ctx (kept.contains x.1) x.2) { s with free := s.free + l.length }
    | .eng op =>
      let l := match op.instr with
        | .mst _ o => mstUnits s core o op
        | .sigb _ o => mapUnits op (buildMap o.rule (planOf op))
        | _ => []
      writeUnits { s with free := s.free + l.length } core e.ctx (keptUnits s l)
/-- Whether a context uses the arrays of a core: the core is in its partition, or holds operations or engine state of its
teams. DEDUCED (log 80). -/
def usesArrays (s : State) (c : Nat) (ks : List Nat) (core : Nat) : Bool :=
  inPartition s c core || ((s.core core).binds.any fun b => ks.contains b.team)
    || [4, 5].any fun q => (queueAt s core q).any (·.ctx == c)
/-- Step 2: the operations of a context on a core stop and leave its queues; the arrays it uses are held, and the one
whose operation was the context's is QUIET with its end (08 R249, R251). DEDUCED (log 80). -/
def dropOps (s : State) (c : Nat) (ks : List Nat) (core : Nat) : State :=
  let mine := (List.range 8).flatMap fun q => ((queueAt s core q).filter (·.ctx == c)).map (q, ·)
  let running (q : Nat) : Bool := mine.any fun e => e.1 == q && e.2.started &&
    (match e.2.kind with | .eng op => !isTransfer op | _ => false)
  let s1 := mine.foldl (fun s e => stopOp s core e.2) s
  let s2 := if usesArrays s c ks core then
      [4, 5].foldl (fun s q => if running q then setArray s core q .quiet else holdArray s core q) s1
    else s1
  settleQueues ((List.range 8).foldl (fun s q => setQueueAt s core q ((queueAt s core q).filter fun e => e.ctx != c)) s2) core
/-- Step 3: slots, tiles, buffers and work-list entries of teams on a core zeroed and freed. -/
def scrubCore (s : State) (ks : List Nat) (core : Nat) : State :=
  let s1 := ((s.core core).binds.filter fun b => ks.contains b.team).foldl (fun s b => zeroSlot s core b.phys) s
  let y := s1.core core
  let mine := y.shares.filter fun h => ks.contains h.team
  s1.setCore core { y with
    binds := y.binds.filter fun b => !ks.contains b.team
    tiles := mine.foldl (fun m h => memZero m (4096 * h.base) (4096 * h.n)) y.tiles
    tileP := y.tileP.filter fun m => !(mine.any fun h => h.base ≤ m / 32 && m / 32 < h.base + h.n)
    shares := y.shares.filter fun h => !ks.contains h.team
    bufs := y.bufs.filter fun b => !ks.contains b.team
    wl := y.wl.filter fun e => !ks.contains e.team }
/-- Step 3: the records that name the context's threads discarded, the wsum of their cells lowered (05 R143). -/
def dropWaiters (s : State) (ps ks : List Nat) : State :=
  let named (p : Nat) (w : Option Nat) : Bool := match w with
    | none => ps.contains p
    | some k => ks.contains k
  let mine (w : CellWaiter) : Bool := w.module.isNone && named w.place w.team
  let gone := s.cellWaiters.filter mine
  let s0 := { s with cellWaiters := s.cellWaiters.filter fun w => !mine w }
  let s1 := ((gone.map (·.loc)).eraseDups).foldl (fun s l => if isLost s l then s else putWsum s l) s0
  { s1 with
    barWaiters := s1.barWaiters.filter fun w => !named w.place w.team
    forwards := (s1.forwards.map fun f => (f.1, { f.2 with
      who := f.2.who.filter fun w => f.2.module.isSome || !named w.1 w.2 })).filter fun f =>
      !f.2.who.isEmpty
    msgs := s1.msgs.filter fun m => !ps.contains m.2.place }
/-- A forced reset of a context (19 R414). DEDUCED (log 80). -/
def forcedReset (s : State) (c : Nat) : State :=
  let ps := ctxPlaces s c
  let ks := ctxTeams s c
  let n := (ctxThreads s c).length
  let pk := (s.packets.filter fun e => e.2.ctx == c).map (·.1)
  let qs := queuesOf s c
  let s1 := flushMesh s c ps
  let s2 := qs.foldl resetQueue s1
  let s3 := pk.foldl resetPacket s2
  let s4 := (List.range 144).foldl (fun s core => scrubCore (dropOps s c ks core) ks core) s3
  let s5 := dropWaiters s4 ps ks
  let s6 := { s5 with
    threads := s5.threads.filter fun e => !ps.contains e.1
    groups := s5.groups.filter fun e => !ks.contains e.2.team
    ordered := (ps.foldl forgetAdds s5).ordered.filter (·.ctx != c)
    records := s5.records.filter fun r => r.ctx != c || r.kind == 3
    issue := s5.issue.filter fun p => !ps.contains p }
  let cores := (s6.teams.filter fun e => e.2.ctx == c && e.2.saved.isNone).flatMap fun e => teamCores e.2
  let s7 := { s6 with teams := s6.teams.filter fun e => e.2.ctx != c }
  let s8 := cores.foldl (fun s core => leavePartition s c core) s7
  let s9 := report s8 c 23 n pk.length
  let s10 := setCfield (setCfield (setCfield s9 c 921 2 3) c 30 2 2) c 0 1 0
  wakeTokens (s10.setCtx c { s10.ctx c with deadline := none, bad := [] })
/-- FORCED_RESET of a context. -/
def execForcedReset (c : Nat) (s : State) : Out := .next (forcedReset s c)
/-- RESET: a forced reset at once (19 R412). -/
def execReset (s : State) : Out :=
  if recRuns s 5#4 then .next (recDone (forcedReset s (recCtx s)) 0#2) else .next s
/-- PREEMPT_DEADLINE: the deadline passes with a team still resident (19 R413); a last team that is over ends first
(19 R415, Table 8). -/
def execPreemptDeadline (c : Nat) (s : State) : Out :=
  match (s.ctx c).deadline with
  | some d =>
    if d ≤ s.chron && pstate s c == 1 && (residents s c).any (fun e => !teamOver s e.1 e.2) then .next (forcedReset s c)
    else .next s
  | none => .next s

end Sys2Proof.Machine
end

