-- ==== Sys2Proof/Machine/Beat.lean ====
section
/-! DEFINITION. The beat: budgets and energy, dispatch, promotion, and the lending of lanes (12_execution_model.md R286 to
R295; 14_scheduling.md R344, R347 to R349; 13_thread_instructions.md R313, R318; 22_host_fabric_bringup.md R435, R436). -/

namespace Sys2Proof.Machine

/-! Energy and budgets (14 R347 to R349). -/

/-- The Bellows period in nanoseconds; at stage 1 it is 4,096 (22 R433). -/
def periodNs (s : State) : Nat := if s.stage == 1#2 then 4096 else 64 * s.period.toNat
/-- allowance_mW of a core. -/
def allowance (s : State) (core : Nat) : Nat := ((mget s.allow core).getD 8000#16).toNat
/-- A core's replenishment, halved while firmware reduces the allowance (22 R436). DEDUCED (log 84). -/
def replenishment (s : State) (core : Nat) : Nat :=
  let r := allowance s core * periodNs s / 1000
  max 128 (if s.overTemp || s.overPower then r / 2 else r)
/-- Step 1: every budget whole, every account replenished up to its cap. -/
def refreshCores (s : State) : State :=
  (List.range 144).foldl (fun s core =>
    let r := replenishment s core
    let c := s.core core
    s.setCore core { c with copyUsed := [], egrUsed := [], energy := min (c.energy + r) (2 * r) })
    { s with ctxs := s.ctxs.map fun e => (e.1, { e.2 with used := [] }) }

/-! Promotion (12 R290 to R294). -/

/-- The mesh distance of two cores. -/
def meshDistance (a b : Nat) : Nat :=
  (a % 12 - b % 12) + (b % 12 - a % 12) + (a / 12 - b / 12) + (b / 12 - a / 12)
/-- A core put in its place by distance, ties by number. -/
def byDistance (from_ k : Nat) : List Nat → List Nat
  | [] => [k]
  | j :: r => if meshDistance from_ j ≤ meshDistance from_ k then j :: byDistance from_ k r else k :: j :: r
/-- Cores nearest first. -/
def nearest (from_ : Nat) (l : List Nat) : List Nat := l.foldl (fun a k => byDistance from_ k a) []
/-- The cores a promotion from a core tries, in order (12 R291). -/
def searchCores (s : State) (tm : Team) (core : Nat) : List Nat :=
  let rect := (teamCores tm).filter (· != core)
  let rest := (List.range 144).filter fun k => inPartition s tm.ctx k && k != core && !rect.contains k
  core :: nearest core rect ++ nearest core rest
/-- Whether promotion may choose lanes of a core: not one without a team while a team is reserved, nor one without a team
of the context while it drains (14 R344; 19 R413). -/
def coreChosen (s : State) (c core : Nat) : Bool :=
  coreOpen s c core &&
    match residentOn s core with
    | some e => pstate s c != 1 || e.2.ctx == c
    | none => pstate s c != 1 && (reserved s).isNone
/-- An operation whose team has given up the buffers it would write. -/
def QEntry.forgetBufs (e : QEntry) : QEntry :=
  match e.kind with
  | .eng op => { e with kind := .eng { op with bufsW := [], bufsR := [] } }
  | _ => e
/-- A core outside a team's rectangle on which its first thread starts: its names there are all free, and its buffers new;
operations of an earlier thread that still stand there keep their physical slots and write no buffer (08 R231).
DEDUCED (log 107). -/
def openCore (s : State) (core k : Nat) (tm : Team) : State :=
  if inRect tm core || s.threads.any fun e => coreOf e.1 == core && e.2.team == k then s
  else
    let c := s.core core
    s.setCore core { c with
      binds := c.binds.filter (·.team != k)
      bufs := c.bufs.filter (·.team != k)
      queues := c.queues.map fun l => l.map fun e => if e.team == k then e.forgetBufs else e }
/-- The first block of `w` lanes, aligned, each of which takes a new thread. -/
def findBlock (s : State) (tm : Team) (core w : Nat) : Option (Nat × Nat) :=
  ((searchCores s tm core).filterMap fun k =>
    if coreChosen s tm.ctx k then
      (((List.range (128 / w)).map (· * w)).find? fun b => (List.range w).all fun j => 0 < laneCap s k (b + j)).map (k, ·)
    else none).head?
/-- The least %tid at or above a count that no live thread of a team holds (12 R275): one more number than there are
threads is searched. -/
def freeTid (s : State) (team : Nat) : Nat → Nat → Nat
  | 0, n => n
  | k + 1, n => if s.threads.any fun e => e.2.team == team && e.2.tid.toNat == n then freeTid s team k (n + 1) else n
/-- ceil((hi − lo) / (2 × g)) × g above lo (12 R292). -/
def splitPoint (f : Frame) : Word :=
  let n := (f.hi.toInt - f.lo.toInt).toNat
  let g := f.grain.toInt.toNat
  f.lo + BitVec.ofNat 32 (g * ((n + 2 * g - 1) / (2 * g)))
/-- The frame of the new thread of a split, at position `j` of its group (12 R292, R294). -/
def pieceFrame (f : Frame) (j : Nat) : Frame :=
  { f with lo := splitPoint f, promoted := false, bpos := if f.bound then BitVec.ofNat 5 j else f.bpos }
/-- The frame as it stays with the parent. -/
def keptFrame (f : Frame) : Frame := if f.range then { f with hi := splitPoint f, promoted := true } else { f with promoted := true }
/-- The record of a split whose count failed (12 R292); where no root was reached its unit is the command processor's and
its info words are 0, 0 and 1. DEDUCED (log 89). -/
def splitRecord (s : State) (c cell : Nat) (t : Trap) : State :=
  match lostOnWalk s c 1025 cell with
  | some l => lostRecord s c l
  | none => if t.cause == .conflictingFill then conflictRecord s c cell t
            else deviceRecord s unitCommand c 2 19 0 cell 0 0 1
/-- A thread with a counter raised. -/
def bumpDefer (s : State) (p : Nat) : State :=
  match s.thr p with
  | some t => s.setThr p { t with pdefer := t.pdefer + 1#64 }
  | none => s
/-- %pskip raised. -/
def bumpSkip (s : State) (p : Nat) : State :=
  match s.thr p with
  | some t => s.setThr p { t with pskip := t.pskip + 1#64 }
  | none => s
/-- %pnone raised. -/
def bumpNone (s : State) (p : Nat) : State :=
  match s.thr p with
  | some t => s.setThr p { t with pnone := t.pnone + 1#64 }
  | none => s
/-- A thread that starts, its block zeroed: a promoted one is ready, and with the last block of a team its first threads have
their time (14 R346; 16_contexts_translation.md R373). -/
def readyZeroed (s : State) (p : Nat) (t : Thread) : State :=
  let s1 := s.setThr p { t with zero := false, status := if t.gang.isNone then .ready s.cycle else t.status }
  if t.gang.isNone || zeroing s1 t.team then s1
  else
    { s1 with threads := s1.threads.map fun e =>
        if e.2.team == t.team && e.2.gang.isSome then
          match e.2.status with
          | .waiting n => (e.1, { e.2 with status := .waiting (s.chron + n) })
          | _ => e
        else e }
/-- A thread whose block is zeroed gets the range frame it is promoted with (12 R292), once its context's budget admits the
write of one that finds no room on chip, and starts. DEDUCED (log 74). -/
def startZeroed (s : State) (p : Nat) (t : Thread) : State :=
  match t.piece with
  | some f =>
    if allFit s (ctxOf s t) (pushPlaces s p t) then
      let r := pushFrame s p { t with piece := none } f
      readyZeroed r.1 p r.2
    else s.setThr p { t with zero := false }
  | none => readyZeroed s p t
/-- A new thread promoted from a frame of a thread, put in a lane (12 R274, R292; 06_numbers.md R180); it waits where its
block `b` is still to be zeroed (16_contexts_translation.md R373), and its frame then with it. -/
def startPromoted (s : State) (t : Thread) (f : Frame) (core lane tid : Nat) (b : Block × Bool) (group : Option Nat)
    (j : Nat) : State :=
  let q := placeOf core lane (freeSlot s core lane)
  let n0 := freshThread t.team tid none t.home f.entry.toNat b.1 f.dv 0
  let n1 := { n0 with group := group, key := some (drawKey s t), ctr := t.ctr, recv := f.range
                      pos := some (lanePos s t lane), zero := b.2, piece := if f.range then some (pieceFrame f j) else none }
  let n2 := loadArgs n1 f.args
  let s1 := (match teamOf s t with
    | some tm => openCore s core t.team tm
    | none => s).setThr q n2
  if b.2 then s1 else startZeroed s1 q n2
/-- A frame of `p` changed in place. -/
def keepFrame (s : State) (p i : Nat) (f : Frame) : State :=
  match s.thr p with
  | some t =>
    let r := setFrameAt s t i f
    r.1.setThr p r.2
  | none => s

/-- What the promotion of a frame of a thread moves to and from DRAM: the frame, where it stands in memory, and the cells of
its count (14 R348). -/
def promoteCost (s : State) (c : Nat) (t : Thread) (i : Nat) (f : Frame) : List (Nat × Nat) :=
  (if i < t.spilled.length then framePlaces s t i 1 else []) ++
    if f.range then devCells s c f.join.toNat Access.load 1025 f.join.toNat else []
/-- The COUNT +1 of a split; of a task frame nothing. False when it fails, with its record (12 R292). -/
def splitCount (s : State) (c : Nat) (f : Frame) : State × Bool :=
  if !f.range then (s, true)
  else
    match devCount s c f.join.toNat 1#64 with
    | .ok s1 _ => (s1, true)
    | .trap s1 tr => (splitRecord s1 c f.join.toNat tr, false)
/-- An unbound thread's candidate promoted alone, or deferred (12 R291, R292): for want of a lane or a block, or of a budget
that covers its count and its frame. DEDUCED (log 91). -/
def promoteAlone (s : State) (p : Nat) (t : Thread) (i : Nat) (f : Frame) : State :=
  match teamOf s t with
  | none => s
  | some tm =>
    match findBlock s tm (coreOf p) 1, lowestBlock s tm.ctx (takenBlocks s tm.ctx) t.block.kib with
    | some (core, lane), some b =>
      if (blockLocs s tm.ctx b).isNone then bumpDefer (spoilBlock s tm.ctx b) p
      else if !allFit s tm.ctx (promoteCost s tm.ctx t i f) then bumpDefer s p
      else
        let r := splitCount s tm.ctx f
        if !r.2 then bumpDefer r.1 p
        else
          let z := zeroAll r.1 tm.ctx [(core, b)]
          startPromoted (keepFrame z.1 p i (keptFrame f)) t f core lane
            (freeTid s t.team (s.threads.length + 1) tm.count) (b, z.2.contains true) none 0
    | _, _ => bumpDefer s p

/-- The candidates of a bound group's members, by position. -/
def groupCandidates (s : State) (ps : List Nat) : List (Option (Nat × Frame)) :=
  ps.map fun p => (s.thr p).bind (candidate s)
/-- Whether candidates are congruent: all bound, of one depth, one site and one kind (12 R294). -/
def congruent (l : List (Option (Nat × Frame))) : Bool :=
  match l with
  | some (i, f) :: r => f.bound && r.all fun x =>
      match x with
      | some (j, g) => g.bound && j == i && g.site == f.site && g.range == f.range
      | none => false
  | _ => false
/-- The COUNT +1 of each member, until one fails: the state, the cells counted, and the failure.
DEDUCED (log 89). -/
def countAll (s : State) (c : Nat) : List Nat → List Nat → State × List Nat × Bool
  | [], acc => (s, acc, true)
  | cell :: r, acc =>
    match devCount s c cell 1#64 with
    | .ok s1 _ => countAll s1 c r (acc ++ [cell])
    | .trap s1 t => (splitRecord s1 c cell t, acc, false)
/-- Counts taken back (12 R292). DEDUCED (log 89). -/
def uncount (s : State) (c : Nat) (cells : List Nat) : State :=
  cells.foldl (fun s cell => match devCount s c cell (-1#64) with
    | .ok s1 _ => s1
    | .trap s1 _ => s1) s
/-- The new members of a promoted group, in order of position. -/
def startMembers (s : State) (core lane count : Nat) (ps : List Nat) (fs : List (Nat × Frame)) (bs : List (Block × Bool)) :
    State :=
  let k := s.serial
  let s1 := State.bump s
  let r := (ps.zip fs).zipIdx.foldl (fun (a : State × List Nat) e =>
    let j := e.2
    match a.1.thr e.1.1 with
    | some t =>
      let tid := freeTid a.1 t.team (a.1.threads.length + 1) count
      let q := placeOf core (lane + j) (freeSlot a.1 core (lane + j))
      (startPromoted (keepFrame a.1 e.1.1 e.1.2.1 (keptFrame e.1.2.2)) t e.1.2.2 core (lane + j) tid
        ((bs[j]?).getD (⟨0, 0, 0⟩, false)) (some k) j, a.2 ++ [q])
    | none => a) (s1, [])
  let team := ((ps.head?.bind s.thr).map (·.team)).getD 0
  r.1.setGroup k ⟨team, r.2, [], true⟩
/-- What the promotion of a group's frames moves to and from DRAM (14 R348). -/
def groupCost (s : State) (c : Nat) (ps : List Nat) (fs : List (Nat × Frame)) : List (Nat × Nat) :=
  (ps.zip fs).flatMap fun e =>
    match s.thr e.1 with
    | some t => promoteCost s c t e.2.1 e.2.2
    | none => []
/-- A congruent group promoted on a block of lanes, or deferred (12 R294). -/
def promoteGroup (s : State) (tm : Team) (ps : List Nat) (fs : List (Nat × Frame)) : State :=
  let defer (s : State) : State := ps.foldl bumpDefer s
  match ps with
  | [] => s
  | p :: _ =>
    match findBlock s tm (coreOf p) ps.length,
          takeBlocks s tm.ctx (((s.thr p).map (·.block.kib)).getD 1) ps.length (takenBlocks s tm.ctx) with
    | some (core, lane), some bs =>
      match bs.find? fun b => (blockLocs s tm.ctx b).isNone with
      | some b => defer (spoilBlock s tm.ctx b)
      | none =>
        if !allFit s tm.ctx (groupCost s tm.ctx ps fs) then defer s
        else
          match countAll s tm.ctx ((fs.filter (·.2.range)).map fun e => e.2.join.toNat) [] with
          | (s1, _, true) =>
            let z := zeroAll s1 tm.ctx (bs.map (core, ·))
            startMembers z.1 core lane tm.count ps fs (bs.zip z.2)
          | (s1, done, false) => defer (uncount s1 tm.ctx done)
    | _, _ => defer s
/-- Whether a beat examines a thread: it runs, and its lane is not lent (12 R291). -/
def examined (t : Thread) : Bool := running t && !t.lent
/-- Whether a place's thread is examined. -/
def runsAt (s : State) (p : Nat) : Bool := ((s.thr p).map examined).getD false
/-- A bound group handled at its first running member: the state, and whether its members are examined alone. -/
def examineGroup (s : State) (t : Thread) (ps : List Nat) : State × Bool :=
  if !ps.all (runsAt s) then ((ps.filter (runsAt s)).foldl bumpSkip s, false)
  else
    let l := groupCandidates s ps
    if !(l.any fun x => (x.map (·.2.bound)).getD false) then (s, true)
    else if !congruent l then (ps.foldl bumpSkip s, false)
    else
      match teamOf s t with
      | some tm => (promoteGroup s tm ps (l.filterMap id), false)
      | none => (s, false)
/-- A thread examined alone (12 R291). -/
def examineAlone (s : State) (p : Nat) (t : Thread) : State :=
  match candidate s t with
  | none => bumpNone s p
  | some (i, f) => if f.bound then bumpSkip s p else promoteAlone s p t i f
/-- What a beat's examination has decided: members handled with their group, and groups whose members go alone. -/
structure Exam where
  s     : State
  done  : List Nat
  alone : List Nat
  deriving DecidableEq, Repr
/-- One thread examined. -/
def examine (x : Exam) (p : Nat) : Exam :=
  match x.s.thr p with
  | none => x
  | some t =>
    if !examined t || x.done.contains p then x
    else
      match t.group, groupMembers x.s t with
      | some g, some ps =>
        if x.alone.contains g then { x with s := examineAlone x.s p t }
        else
          let r := examineGroup x.s t ps
          if r.2 then { x with s := examineAlone r.1 p t, alone := g :: x.alone }
          else { x with s := r.1, done := ps ++ x.done }
      | _, _ => { x with s := examineAlone x.s p t }
/-- The promotions of a beat, in order of core, lane and slot (12 R291). -/
def promotions (s : State) : State :=
  ((s.threads.map (·.1)).foldl examine ⟨s, [], []⟩).s

/-! The beat (14 R349). -/

/-- A block given to a thread that has not started: its stack with it. -/
def Thread.reblock (t : Thread) (b : Block) : Thread :=
  { t with
    block := b
    sp := BitVec.ofNat 64 (b.base + b.size)
    stklim := BitVec.ofNat 64 (b.base + b.size - b.kib * 1024) }
/-- A block that waited for a budget zeroed, once the budget covers it; one whose zeroing now faults is left with its record
for another (16 R373). A frame that waits for a budget is tried again. DEDUCED (log 74). -/
def retryZero (s : State) (p : Nat) : State :=
  match s.thr p with
  | none => s
  | some t =>
    if !t.zero then (if t.piece.isSome then startZeroed s p t else s)
    else
      let c := ctxOf s t
      match zeroBlock s (coreOf p) c t.block with
      | .done s1 => startZeroed s1 p t
      | .waits => s
      | .failed s1 =>
        let s2 := if (s.ctx c).bad.contains t.block then s else s1
        match lowestBlock s2 c (takenBlocks s2 c) t.block.kib with
        | some b => s2.setThr p (t.reblock b)
        | none => s2
/-- The blocks that wait zeroed as far as the budgets go, in order of core, lane and slot. -/
def zeroPending (s : State) : State := (s.threads.map (·.1)).foldl retryZero s
/-- The threads parked until a beat go on, those of swapped-out teams included (13 R313). -/
def wakeBeat (s : State) : State :=
  let go (t : Thread) : Thread := match t.status with
    | .parked .beat => t.wake s
    | _ => t
  { s with
    threads := s.threads.map fun e => (e.1, go e.2)
    teams := s.teams.map fun e => (e.1, { e.2 with saved := e.2.saved.map fun v =>
      { v with threads := v.threads.map fun x => (x.1, go x.2) } }) }
/-- The firmware's failure at a beat (22 R435). -/
def firmwareFailure (s : State) : State :=
  let s1 := (s.ctxs.filter fun e => ctxEnabled s e.1).foldl (fun s e => forcedReset s e.1) { s with fwFail := true }
  signal { s1 with stage := 0#2 } 0 0
/-- U of the Crumhorn (14 R337). -/
def crumhornStep (s : State) : Word := if s.step == 0#6 then 64#32 else s.step.setWidth 32
/-- Beats that a packet's next team has stood unplaced (14 R344). -/
def countUnplaced (s : State) : State :=
  { s with packets := s.packets.map fun e =>
      if e.2.stage == .distributed && e.2.typ != 8 then (e.1, { e.2 with next := e.2.next + 1 }) else e }
/-- The outcomes the device takes until the next beat, drawn anew. DESIGN CHOICE (log 10). -/
def chooseAnew (s : State) : State :=
  let n := s.beat.toNat
  { s with choices := ⟨Config.choose 0 n, Config.choose 1 n, Config.choose 2 n, Config.choose 3 n, Config.choose 4 n⟩ }
/-- BEAT: fires once its time has come (12 R288; 14 R349; 22 R435). DESIGN CHOICE (log 10). -/
def execBeat (s : State) : Out :=
  if s.chron < s.nextBeat then .next s
  else
    let s1 := zeroPending (refreshCores { s with beat := s.beat + 1#64, nextBeat := s.nextBeat + periodNs s })
    let s2 := dispatchAll (countUnplaced { s1 with gvt := s1.gvt + crumhornStep s1 })
    let s3 := promotions s2
    let s4 := wakeBeat ((List.range 144).foldl starveSpill s3)
    .next (if s4.choices.silent && s4.stage != 0#2 then firmwareFailure s4 else chooseAnew s4)

/-- LANE_LEND: a parked thread's registers above v15 leave the pool, and its frames go to their area (12 R286).
DEDUCED (log 96). -/
def execLaneLend (p : Nat) (s : State) : Out :=
  match s.thr p with
  | some t =>
    if isParked t && !t.lent && allFit s (ctxOf s t) (framePlaces s t t.spilled.length t.chip.length) then
      let r := spillAll 4 s t
      .next (r.1.setThr p { r.2 with lent := true, lentFrames := t.chip.length })
    else .next s
  | none => .next s

end Sys2Proof.Machine
end

