-- ==== Sys2Proof/Machine/Transcendental.lean ====
section
/-! DEFINITION. FEXP2, FLOG2, FSIN, FCOS and FTANH, correctly rounded (06_numbers.md R169). Each result is bounded
below and above in fixed point with more and more bits, until both bounds round to the same bits and flags. A result
that no precision decides is a free value (log 13). -/

namespace Sys2Proof.Numbers

/-- Σ z^k / k for the series of atanh or atan: `step` is z² (floored at 2^P), the term halves by it; `alt` alternates. -/
def atanGo (P z2 : Nat) (alt : Bool) : Nat → Nat → Nat → Bool → Int → Int
  | 0, _, _, _, acc => acc
  | n + 1, k, term, minus, acc =>
    let t : Int := (term / k : Nat)
    atanGo P z2 alt n (k + 2) (term * z2 / 2 ^ P) (if alt then !minus else false) (if minus then acc - t else acc + t)

/-- ln 2 × 2^P, within 2 P units below: 2 atanh(1/3). -/
def ln2 (P : Nat) : Nat :=
  let z := 2 ^ P / 3
  (2 * atanGo P (2 ^ P / 9) false (P / 3 + 8) 1 z false 0).toNat

/-- π × 2^P, within 32 P units: Machin's formula. -/
def piFixed (P : Nat) : Nat :=
  let a := atanGo P (2 ^ P / 25) true (P / 4 + 8) 1 (2 ^ P / 5) false 0
  let b := atanGo P (2 ^ P / 57121) true (P / 15 + 8) 1 (2 ^ P / 239) false 0
  (16 * a - 4 * b).toNat

/-- Σ x^k / k! at 2^P, term by term. -/
def expGo (P x : Nat) : Nat → Nat → Nat → Nat → Nat
  | 0, _, _, acc => acc
  | n + 1, k, term, acc => expGo P x n (k + 1) (term * x / (k * 2 ^ P)) (acc + term)
/-- e^x × 2^P for 0 ≤ x < 1 at 2^P. -/
def expFixed (P x : Nat) : Nat := expGo P x (P / 2 + 16) 1 (2 ^ P) 0

/-- Σ ± x^k / k! over k of one parity: sine from k = 1, cosine from k = 0; `term` is the first term. -/
def trigGo (P x2 : Nat) : Nat → Nat → Nat → Bool → Int → Int
  | 0, _, _, _, acc => acc
  | n + 1, k, term, minus, acc =>
    trigGo P x2 n (k + 2) (term * x2 / ((k + 1) * (k + 2) * 2 ^ P)) (!minus)
      (if minus then acc - (term : Int) else acc + (term : Int))
/-- sin x at 2^P, for 0 ≤ x < 2. -/
def sinFixed (P x : Nat) : Int := trigGo P (x * x / 2 ^ P) (P / 4 + 16) 1 x false 0
/-- cos x at 2^P, for 0 ≤ x < 2. -/
def cosFixed (P x : Nat) : Int := trigGo P (x * x / 2 ^ P) (P / 4 + 16) 0 (2 ^ P) false 0

/-- A bounded real: (−1)^s × [lo, hi] × 2^e, the true value lying strictly inside. -/
structure Bound where
  s  : Bool
  lo : Int
  hi : Int
  e  : Int
  deriving DecidableEq, Repr

/-- The bits and flags both ends round to, if they agree (06 R164). -/
def decided (f : FFmt) (m : Rnd) (b : Bound) : Option (Nat × Flags) :=
  if b.lo ≤ 0 then none
  else
    let x := roundPos f m 0 b.s (2 * b.lo.toNat + 1) 1 (b.e - 1)
    let y := roundPos f m 0 b.s (2 * b.hi.toNat - 1) 1 (b.e - 1)
    if x = y then some x else none

/-- The first precision that decides. DESIGN CHOICE (log 13). -/
def firstDecided (f : FFmt) (m : Rnd) (g : Nat → Bound) : List Nat → Option (Nat × Flags)
  | [] => none
  | P :: r =>
    match decided f m (g P) with
    | some x => some x
    | none => firstDecided f m g r

/-- The precisions tried, in bits. DESIGN CHOICE (log 13). -/
def precisions : List Nat := [128, 192, 320]

/-- The operations of this file. -/
inductive TOp where
  | exp2 | log2 | sin | cos | tanh
  deriving DecidableEq, Repr

/-- The number of an operation. -/
def TOp.code : TOp → Nat
  | .exp2 => 0
  | .log2 => 1
  | .sin => 2
  | .cos => 3
  | .tanh => 4

/-- 2^(±m × 2^e), not an integer exponent, of moderate size. -/
def exp2Bound (s : Bool) (m : Nat) (e : Int) (P : Nat) : Bound :=
  let x : Int := if 0 ≤ e then ((m <<< (e.toNat + P) : Nat) : Int) else (m * 2 ^ P : Nat) / (2 ^ (-e).toNat : Nat)
  let x := if s then -x else x
  let n := x.fdiv (2 ^ P : Nat)
  let r := (x - n * (2 ^ P : Nat)).toNat
  let v : Int := expFixed P (r * ln2 P / 2 ^ P)
  ⟨false, v - 8192, v + 8192, n - P⟩

/-- log2 (m × 2^e), not a power of two. -/
def log2Bound (m : Nat) (e : Int) (P : Nat) : Bound :=
  let l := m.log2
  let n : Int := e + l
  let z := (m - 2 ^ l) * 2 ^ P / (m + 2 ^ l)
  let lnf := 2 * atanGo P (z * z / 2 ^ P) false (P / 3 + 8) 1 z false 0
  let y : Int := n * (2 ^ P : Nat) + lnf * (2 ^ P : Nat) / (ln2 P : Int)
  if 0 ≤ y then ⟨false, y - 8192, y + 8192, -(P : Int)⟩ else ⟨true, -y - 8192, -y + 8192, -(P : Int)⟩

/-- sin or cos of ±m × 2^e; the working scale Q holds every bit of the argument. -/
def trigBound (cosine s : Bool) (m : Nat) (e : Int) (P : Nat) : Bound :=
  let Q := P + 160
  let x := if 0 ≤ e then m <<< (e.toNat + Q) else m <<< (Q - (-e).toNat)
  let h := piFixed (Q + 16) / 2 ^ 17
  let n := x / h
  let r := x - n * h
  let k := if cosine then n + 1 else n
  let v := if k % 2 = 0 then sinFixed Q r else cosFixed Q r
  let neg := (k % 4 ≥ 2) ^^ (s && !cosine)
  let err : Int := n + 65536
  ⟨neg, v - err, v + err, -(Q : Int)⟩

/-- tanh of ±m × 2^e: (1 − E) / (1 + E) with E = e^(−2x). -/
def tanhBound (s : Bool) (m : Nat) (e : Int) (P : Nat) : Bound :=
  let e := e + 1
  let y := if 0 ≤ e then m <<< (e.toNat + P) else m * 2 ^ P / 2 ^ (-e).toNat
  let c := ln2 P
  let n := y / c
  let r := y - n * c
  let E := 2 ^ (2 * P) / (expFixed P r * 2 ^ n)
  let v : Int := ((2 ^ P - E) * 2 ^ P / (2 ^ P + E) : Nat)
  ⟨s, v - 2 ^ 22, v + 2 ^ 22, -(P : Int)⟩

/-- A value just above (or below) (−1)^s × m × 2^e: it rounds as every real that lies as close on that side. -/
def nearby (s up : Bool) (m : Nat) (e : Int) : Val :=
  .fin s (if up then m * 2 ^ 80 + 1 else m * 2 ^ 80 - 1) (e - 80)

/-- floor(log2 |a|) of a finite operand. -/
def magLog (m : Nat) (e : Int) : Int := (m.log2 : Int) + e

/-- The result of an operation on a finite nonzero operand (06 R169, Table 3), `x` its bits.
DESIGN CHOICE (log 13). -/
def transFin (op : TOp) (f : FFmt) (m : Rnd) (x : Nat) (s : Bool) (n : Nat) (e : Int) : Nat × Flags :=
  let big := magLog n e
  let free := (Config.transcendental op.code (Legal.fwidth f) (Decode.rndCode m).toNat x)
  let run (g : Nat → Bound) := (firstDecided f m g precisions).getD free
  match op with
  | .exp2 =>
    let whole := decide (0 ≤ e) || n % 2 ^ (-e).toNat == 0
    if 12 ≤ big then round f m 0 (nearby false true 1 (if s then -4096 else 4096))
    else if whole then
      let k : Int := if 0 ≤ e then (n <<< e.toNat : Nat) else (n / 2 ^ (-e).toNat : Nat)
      round f m 0 (.fin false 1 (if s then -k else k))
    else if big < -70 then round f m 0 (nearby false (!s) 1 0)
    else run (exp2Bound s n e)
  | .log2 =>
    if s then (nanBits f, fInvalid)
    else if n = 2 ^ n.log2 then round f m 0 (ofInt (magLog n e))
    else run (log2Bound n e)
  | .sin => if big < -50 then round f m 0 (nearby s false n e) else run (trigBound false s n e)
  | .cos => if big < -50 then round f m 0 (nearby false false 1 0) else run (trigBound true s n e)
  | .tanh =>
    if big < -50 then round f m 0 (nearby s false n e)
    else if 5 ≤ big then round f m 0 (nearby s false 1 0)
    else run (tanhBound s n e)

/-- An operation of this file (06 R169, Table 3) on bits of a format. -/
def transcend (op : TOp) (f : FFmt) (m : Rnd) (x : Nat) : Nat × Flags :=
  match decode f x with
  | .snan => (nanBits f, fInvalid)
  | .qnan => (nanBits f, noFlags)
  | .fin s n e => transFin op f m x s n e
  | .inf s =>
    match op with
    | .exp2 => if s then (0, noFlags) else (infBits f, noFlags)
    | .log2 => if s then (nanBits f, fInvalid) else (infBits f, noFlags)
    | .sin | .cos => (nanBits f, fInvalid)
    | .tanh => round f m 0 (.fin s 1 0)
  | .zero s =>
    match op with
    | .exp2 | .cos => round f m 0 (.fin false 1 0)
    | .log2 => (signBit f + infBits f, fDiv)
    | .sin | .tanh => (if s then signBit f else 0, noFlags)
  | _ => (0, noFlags)

end Sys2Proof.Numbers
end

