-- ==== Sys2Proof/Machine/Float.lean ====
section
/-! DEFINITION. Floating point and the block formats (07_compute_instructions.md R205 to R216; 06_numbers.md). -/

namespace Sys2Proof.Machine

open Sys2Proof.Legal (iwidth fwidth ipair)
open Sys2Proof.Numbers (Flags noFlags round Val exactSum)

/-! Results of one element: bits and flags. -/

/-- FADD (07 R205). -/
def faddVal (f : FFmt) (m : Rnd) (a b : Nat) : Nat × Flags := round f m 0 (exactSum [Numbers.decode f a, Numbers.decode f b])
/-- FSUB (07 R205). -/
def fsubVal (f : FFmt) (m : Rnd) (a b : Nat) : Nat × Flags :=
  round f m 0 (exactSum [Numbers.decode f a, Numbers.neg (Numbers.decode f b)])
/-- FMUL (07 R205). -/
def fmulVal (f : FFmt) (m : Rnd) (a b : Nat) : Nat × Flags := round f m 0 (Numbers.mul (Numbers.decode f a) (Numbers.decode f b))
/-- FFMA (07 R205). -/
def ffmaVal (f : FFmt) (m : Rnd) (a b c : Nat) : Nat × Flags :=
  round f m 0 (exactSum [Numbers.mul (Numbers.decode f a) (Numbers.decode f b), Numbers.decode f c])
/-- A result whose operation forces flags beside those of its rounding (06 R169). -/
def roundWith (f : FFmt) (m : Rnd) (x : Val × Flags) : Nat × Flags :=
  let r := round f m 0 x.1
  (r.1, r.2 ||| x.2)
/-- FDIV (06 R169, Table 3). -/
def fdivVal (f : FFmt) (m : Rnd) (a b : Nat) : Nat × Flags :=
  roundWith f m (Numbers.divide (Numbers.decode f a) (Numbers.decode f b))
/-- FRCP: 1 / a (06 R169, Table 3). -/
def frcpVal (f : FFmt) (m : Rnd) (a : Nat) : Nat × Flags := roundWith f m (Numbers.divide (.fin false 1 0) (Numbers.decode f a))
/-- FSQRT (06 R169, Table 3). -/
def fsqrtVal (f : FFmt) (m : Rnd) (a : Nat) : Nat × Flags := round f m 0 (Numbers.sqrtVal (Numbers.decode f a))
/-- FRSQ (06 R169, Table 3). -/
def frsqVal (f : FFmt) (m : Rnd) (a : Nat) : Nat × Flags := roundWith f m (Numbers.rsqrtVal (Numbers.decode f a))

/-! Shapes. -/

/-- A thread with a floating result written and its flags set (06 R170). -/
def putF (t : Thread) (f : FFmt) (d : VReg) (r : Nat × Flags) : Thread := (t.setF f d r.1).addFlags r.2

/-- Two packed elements (06 R158; 07 R206): the flags are the union. -/
def packed (f : Nat → Nat → Nat × Flags) (a b : Nat) : Nat × Flags :=
  let lo := f (a % 65536) (b % 65536)
  let hi := f (a / 65536 % 65536) (b / 65536 % 65536)
  (hi.1 * 65536 + lo.1, unionFlags [lo.2, hi.2])

/-- Two floating operands. -/
def flt3 (g : Guard) (i : Instr) (o : Flt3) (f : FFmt → Rnd → Nat → Nat → Nat × Flags) (s : State) : Out :=
  runReg g i s fun t =>
    let b := fopbNat s t o.fmt o.x2 o.b
    if o.x2 then
      let r := packed (f o.fmt o.rnd) (srcWord s t o.a).toNat b
      (t.setV o.d (BitVec.ofNat 32 r.1)).addFlags r.2
    else putF t o.fmt o.d (f o.fmt o.rnd (srcNat s t (fwidth o.fmt) o.a) b)

/-- One floating operand. -/
def flt2 (g : Guard) (i : Instr) (o : Flt2) (f : FFmt → Rnd → Nat → Nat × Flags) (s : State) : Out :=
  runReg g i s fun t => putF t o.fmt o.d (f o.fmt o.rnd (srcNat s t (fwidth o.fmt) o.a))

/-- The operands of a short floating form: .f32 under RN (02_encoding.md R57, Table 8). -/
def rrrFlt (o : Rrr) : Flt3 := ⟨.f32, false, .rn, o.d, .v o.a, .reg (.v o.b)⟩

/-! Meanings. -/

/-- FADD, short form (02 R57; 07 R205). -/
def execFaddShort (g : Guard) (o : Rrr) (s : State) : Out := flt3 g (.faddShort g o) (rrrFlt o) faddVal s
/-- FSUB, short form (02 R57; 07 R205). -/
def execFsubShort (g : Guard) (o : Rrr) (s : State) : Out := flt3 g (.fsubShort g o) (rrrFlt o) fsubVal s
/-- FMUL, short form (02 R57; 07 R205). -/
def execFmulShort (g : Guard) (o : Rrr) (s : State) : Out := flt3 g (.fmulShort g o) (rrrFlt o) fmulVal s
/-- FFMA, short form: source C is the destination register (02 R57). -/
def execFfmaShort (g : Guard) (o : Rrr) (s : State) : Out :=
  runReg g (.ffmaShort g o) s fun t =>
    putF t .f32 o.d (ffmaVal .f32 .rn (t.rv o.a).toNat (t.rv o.b).toNat (t.rv o.d).toNat)
/-- FMIN, short form (02 R57; 07 R207). -/
def execFminShort (g : Guard) (o : Rrr) (s : State) : Out :=
  flt3 g (.fminShort g o) (rrrFlt o) (fun f _ a b => Numbers.minmax f false a b) s
/-- FMAX, short form (02 R57; 07 R207). -/
def execFmaxShort (g : Guard) (o : Rrr) (s : State) : Out :=
  flt3 g (.fmaxShort g o) (rrrFlt o) (fun f _ a b => Numbers.minmax f true a b) s
/-- FADD (07 R205). -/
def execFadd (g : Guard) (o : Flt3) (s : State) : Out := flt3 g (.fadd g o) o faddVal s
/-- FSUB (07 R205). -/
def execFsub (g : Guard) (o : Flt3) (s : State) : Out := flt3 g (.fsub g o) o fsubVal s
/-- FMUL (07 R205). -/
def execFmul (g : Guard) (o : Flt3) (s : State) : Out := flt3 g (.fmul g o) o fmulVal s
/-- FFMA (07 R205, R206). -/
def execFfma (g : Guard) (o : Flt4) (s : State) : Out :=
  runReg g (.ffma g o) s fun t =>
    let b := fopbNat s t o.fmt o.x2 o.b
    if o.x2 then
      let a := (srcWord s t o.a).toNat
      let c := (srcWord s t o.c).toNat
      let lo := ffmaVal o.fmt o.rnd (a % 65536) (b % 65536) (c % 65536)
      let hi := ffmaVal o.fmt o.rnd (a / 65536) (b / 65536) (c / 65536)
      (t.setV o.d (BitVec.ofNat 32 (hi.1 * 65536 + lo.1))).addFlags (unionFlags [lo.2, hi.2])
    else
      let w := fwidth o.fmt
      putF t o.fmt o.d (ffmaVal o.fmt o.rnd (srcNat s t w o.a) b (srcNat s t w o.c))
/-- FMIN (07 R207). -/
def execFmin (g : Guard) (o : Flt3) (s : State) : Out :=
  flt3 g (.fmin g o) o (fun f _ a b => Numbers.minmax f false a b) s
/-- FMAX (07 R207). -/
def execFmax (g : Guard) (o : Flt3) (s : State) : Out :=
  flt3 g (.fmax g o) o (fun f _ a b => Numbers.minmax f true a b) s
/-- FSET (07 R208). -/
def execFset (g : Guard) (o : FsetOps) (s : State) : Out :=
  runReg g (.fset g o) s fun t =>
    let r := Numbers.fcompare o.fmt o.cmp (srcNat s t (fwidth o.fmt) o.a) (fopbNat s t o.fmt false o.b)
    (t.setPred o.d (combine t o.comb r.1)).addFlags r.2
/-- FCLASS (07 R209). -/
def execFclass (g : Guard) (o : Flt2) (s : State) : Out :=
  runReg g (.fclass g o) s fun t =>
    t.setV o.d (BitVec.ofNat 32 (Numbers.classMask o.fmt (srcNat s t (fwidth o.fmt) o.a)))
/-- FCVT (07 R210): under RS the draw is element 0's (06 R168). -/
def execFcvt (g : Guard) (o : FcvtOps) (s : State) : Out :=
  runReg g (.fcvt g o) s fun t =>
    let draw := if o.rnd == .rs then (threadRand s s.cur t 0).toNat / 2 ^ 32 else 0
    putF t o.fmt o.d (round o.fmt o.rnd draw (Numbers.decode o.src (srcNat s t (fwidth o.src) o.a)))
/-- FTOI (07 R211; 06 R165). -/
def execFtoi (g : Guard) (o : FiOps) (s : State) : Out :=
  runReg g (.ftoi g o) s fun t =>
    let r := Numbers.roundInt o.int o.rnd (Numbers.decode o.fmt (srcNat s t (fwidth o.fmt) o.a))
    (t.setI o.int o.d (wrap o.int r.1)).addFlags r.2
/-- ITOF (07 R211). -/
def execItof (g : Guard) (o : FiOps) (s : State) : Out :=
  runReg g (.itof g o) s fun t =>
    putF t o.fmt o.d (round o.fmt o.rnd 0 (Numbers.ofInt (toI o.int (srcNat s t (iwidth o.int) o.a))))
/-- FRND (07 R212). -/
def execFrnd (g : Guard) (o : Flt2) (s : State) : Out := flt2 g (.frnd g o) o Numbers.roundIntegral s
/-- FDIV (07 R213). -/
def execFdiv (g : Guard) (la : BitVec 4) (o : Flt3) (s : State) : Out := flt3 g (.fdiv g la o) o fdivVal s
/-- FSQRT (07 R213). -/
def execFsqrt (g : Guard) (la : BitVec 4) (o : Flt2) (s : State) : Out := flt2 g (.fsqrt g la o) o fsqrtVal s
/-- FRCP (07 R213). -/
def execFrcp (g : Guard) (la : BitVec 4) (o : Flt2) (s : State) : Out := flt2 g (.frcp g la o) o frcpVal s
/-- FRSQ (07 R213). -/
def execFrsq (g : Guard) (la : BitVec 4) (o : Flt2) (s : State) : Out := flt2 g (.frsq g la o) o frsqVal s
/-- FEXP2 (07 R213). -/
def execFexp2 (g : Guard) (la : BitVec 4) (o : Flt2) (s : State) : Out :=
  flt2 g (.fexp2 g la o) o (Numbers.transcend .exp2) s
/-- FLOG2 (07 R213). -/
def execFlog2 (g : Guard) (la : BitVec 4) (o : Flt2) (s : State) : Out :=
  flt2 g (.flog2 g la o) o (Numbers.transcend .log2) s
/-- FSIN (07 R213). -/
def execFsin (g : Guard) (la : BitVec 4) (o : Flt2) (s : State) : Out := flt2 g (.fsin g la o) o (Numbers.transcend .sin) s
/-- FCOS (07 R213). -/
def execFcos (g : Guard) (la : BitVec 4) (o : Flt2) (s : State) : Out := flt2 g (.fcos g la o) o (Numbers.transcend .cos) s
/-- FTANH (07 R213). -/
def execFtanh (g : Guard) (la : BitVec 4) (o : Flt2) (s : State) : Out :=
  flt2 g (.ftanh g la o) o (Numbers.transcend .tanh) s

/-! Block formats (07 R214 to R216; 06 R173 to R176). -/

/-- A word with its half `hi` replaced. -/
def setHalf (hi : Bool) (w : Word) (x : BitVec 16) : Word :=
  if hi then x ++ w.extractLsb' 0 16 else w.extractLsb' 16 16 ++ x
/-- A half of a word. -/
def getHalf (hi : Bool) (w : Word) : BitVec 16 := if hi then w.extractLsb' 16 16 else w.extractLsb' 0 16

/-- The quantiser across the members (07 R214): member k supplies x_k and receives its element, the pair and its
flags. With vd and ve one register, ve is written last. DESIGN CHOICE (log 104). -/
def quantiseGroup (o : BxOps) (s : State) (ps : List Nat) : GroupRes :=
  let xs := ps.map fun p => ((s.thr p).map fun t => (t.rv o.a).toNat).getD 0
  let (ehi, elo, es) := Numbers.quantise o.bx4 xs
  .done ((ps.zip es).foldl (fun s e =>
    match s.thr e.1 with
    | some t =>
      let w := setHalf o.hi (t.rv o.e) (BitVec.ofNat 16 (elo * 256 + ehi))
      s.setThr e.1 (((t.setV o.d (BitVec.ofNat 32 e.2.1)).setV o.e w).addFlags e.2.2)
    | none => s) s)
/-- BXQ (07 R214). -/
def execBxq (g : Guard) (la : BitVec 4) (o : BxOps) (s : State) : Out :=
  runGroup false true g (.bxq g la o) s (quantiseGroup o)
/-- BXD (07 R215): no flag. -/
def execBxd (g : Guard) (o : BxOps) (s : State) : Out :=
  runReg g (.bxd g o) s fun t =>
    let e := getHalf o.hi (t.rv o.e)
    t.setV o.d (BitVec.ofNat 32
      (round .f32 .rn 0 (Numbers.bxDecode o.bx4 (t.rv o.a).toNat (e.toNat % 256) (e.toNat / 256))).1)
/-- BXEX (07 R216). -/
def execBxex (g : Guard) (o : BxexOps) (s : State) : Out :=
  runReg g (.bxex g o) s fun t =>
    let r := o.base + (if o.bs then 4#7 else 0#7) + (o.j >>> 1).setWidth 7
    t.setV r (setHalf (o.j.getLsbD 0) (t.rv r) ((t.rv o.a).extractLsb' 0 16))

end Sys2Proof.Machine
end

