-- ==== Sys2Proof/Machine/Cross.lean ====
section
/-! DEFINITION. Cross-lane operations of a bound group (07_compute_instructions.md R217 to R221). -/

namespace Sys2Proof.Machine

open Sys2Proof.Legal (iwidth ipair)
open Sys2Proof.Numbers (Flags noFlags)

/-- What each active member reads, by position; an inactive member is absent (07 R217). -/
def present {α : Type} (g : Guard) (s : State) (ps : List Nat) (f : Thread → α) : List (Option α) :=
  ps.map fun p => (s.thr p).bind fun t => if active g t then some (f t) else none

/-- Each active member's thread changed by its position. -/
def deliver (g : Guard) (s : State) (ps : List Nat) (f : Nat → Thread → Thread) : State :=
  (ps.zipIdx).foldl (fun s e =>
    match s.thr e.1 with
    | some t => if active g t then s.setThr e.1 (f e.2 t) else s
    | none => s) s

/-- The value of the member at a position, or none when it is absent. -/
def valueAt {α : Type} (l : List (Option α)) (k : Nat) : Option α := (l[k]?).bind id

/-- A register or a pair read as a number. -/
def readW (w64 : Bool) (t : Thread) (n : VReg) : Nat := if w64 then (t.rv64 n).toNat else (t.rv n).toNat
/-- A register or a pair written from a number. -/
def putW (w64 : Bool) (t : Thread) (n : VReg) (x : Nat) : Thread :=
  if w64 then t.setV64 n (BitVec.ofNat 64 x) else t.setV n (BitVec.ofNat 32 x)

/-- The source position of SHFL, modulo W (07 R218). -/
def shflPos (m : ShflMode) (w i d : Nat) : Nat :=
  match m with
  | .idx => d % w
  | .up => (((i : Int) - d) % w).toNat
  | .dn => (i + d) % w
  | .xor => (i ^^^ d) % w

/-- SHFL across the members. -/
def shuffle (g : Guard) (o : ShflOps) (s : State) (ps : List Nat) : GroupRes :=
  let vals := present g s ps fun t => readW (ipair o.fmt) t o.a
  .done (deliver g s ps fun i t =>
    let src := valueAt vals (shflPos o.mode ps.length i (opbNat s t 32 o.b))
    putW (ipair o.fmt) t o.d (src.getD (readW (ipair o.fmt) t o.a)))
/-- SHFL (07 R218). -/
def execShfl (g : Guard) (la : BitVec 4) (o : ShflOps) (s : State) : Out :=
  runGroup false false g (.shfl g la o) s (shuffle g o)

/-- The active member of least position. -/
def leastActive {α : Type} (l : List (Option α)) : Nat := l.findIdx Option.isSome

/-- READL across the members: the position is that of the active member of least position. -/
def readLane (g : Guard) (o : ReadlOps) (s : State) (ps : List Nat) : GroupRes :=
  let vals := present g s ps fun t => (readW (ipair o.fmt) t o.a, opbNat s t 32 o.b)
  let k := ((valueAt vals (leastActive vals)).map (·.2)).getD 0 % ps.length
  .done (deliver g s ps fun _ t =>
    putW (ipair o.fmt) t o.d (((valueAt vals k).map (·.1)).getD (readW (ipair o.fmt) t o.a)))
/-- READL (07 R219). -/
def execReadl (g : Guard) (la : BitVec 4) (o : ReadlOps) (s : State) : Out :=
  runGroup false false g (.readl g la o) s (readLane g o)

/-- The result of VOTE over the values of the active members (07 R219). -/
def voteVal (m : VoteMode) (l : List Bool) : Bool :=
  match m with
  | .all => l.all id
  | .any => l.any id
  | .uni => l.all id || !(l.any id)
/-- VOTE (07 R219). -/
def execVote (g : Guard) (mode : VoteMode) (d a : PReg) (s : State) : Out :=
  runGroup false false g (.vote g mode d a) s fun s ps =>
    let v := voteVal mode ((present g s ps fun t => t.pred a).filterMap id)
    .done (deliver g s ps fun _ t => t.setPred d v)
/-- The mask of BALLOT: bit k is the value of the member at k, 0 when absent. -/
def ballotVal (l : List (Option Bool)) : Nat :=
  (l.zipIdx).foldl (fun a e => a + if e.1 == some true then 2 ^ e.2 else 0) 0
/-- BALLOT (07 R219). -/
def execBallot (g : Guard) (d : VReg) (a : PReg) (s : State) : Out :=
  runGroup false false g (.ballot g d a) s fun s ps =>
    let v := ballotVal (present g s ps fun t => t.pred a)
    .done (deliver g s ps fun _ t => t.setV d (BitVec.ofNat 32 v))
/-- ELECT (07 R219). -/
def execElect (g : Guard) (d : PReg) (s : State) : Out :=
  runGroup false false g (.elect g d) s fun s ps =>
    let k := leastActive (present g s ps fun _ => ())
    .done (deliver g s ps fun i t => t.setPred d (i == k))

/-! Reductions (07 R220, R221). -/

/-- One combining step. -/
def redStep (o : RedOps) (x y : Nat) : Nat × Flags :=
  match o.fmt with
  | .int f =>
    (match o.op with
      | .add => iaddVal false f x y
      | .min => iminVal f x y
      | .max => imaxVal f x y
      | .and => x &&& y
      | .or => x ||| y
      | .xor => x ^^^ y, noFlags)
  | .flt f =>
    match o.op with
    | .min => Numbers.minmax f false x y
    | .max => Numbers.minmax f true x y
    | _ => faddVal f o.rnd x y

/-- A level of the tree of Table 3: nodes 2k and 2k + 1 combined, an absent child passed over. -/
def redLevel (o : RedOps) : List (Option Nat) → List (Option Nat) × Flags
  | some x :: some y :: r =>
    let z := redStep o x y
    let q := redLevel o r
    (some z.1 :: q.1, z.2 ||| q.2)
  | some x :: none :: r => let q := redLevel o r; (some x :: q.1, q.2)
  | none :: y :: r => let q := redLevel o r; (y :: q.1, q.2)
  | l => (l, noFlags)

/-- The root of the tree and the union of the flags of its steps; five levels serve 32 members. -/
def redTree (o : RedOps) : Nat → List (Option Nat) → Option Nat × Flags
  | 0, l => ((l.head?).bind id, noFlags)
  | n + 1, l =>
    match l with
    | [x] => (x, noFlags)
    | _ =>
      let q := redLevel o l
      let r := redTree o n q.1
      (r.1, q.2 ||| r.2)

/-- What a reduction delivers: a NaN that one present member passes through the tree unchanged is delivered as the default
NaN, and raises invalid where it is signalling (06_numbers.md R161). DEDUCED (log 103). -/
def redOut (o : RedOps) (r : Option Nat × Flags) : Option Nat × Flags :=
  match o.fmt, r.1 with
  | .flt f, some x =>
    if Numbers.isNan f x then (some (Numbers.nanBits f), if Numbers.isSnan f x then r.2 ||| Numbers.fInvalid else r.2) else r
  | _, _ => r

/-- The identity of an operation (07 R221). -/
def redIdentity (o : RedOps) : Nat :=
  match o.fmt with
  | .int f =>
    match o.op with
    | .min => wrap f (Numbers.imax f)
    | .max => wrap f (Numbers.imin f)
    | .and => 2 ^ iwidth f - 1
    | _ => 0
  | .flt f =>
    match o.op with
    | .min => Numbers.infBits f
    | .max => Numbers.signBit f + Numbers.infBits f
    | _ => 0

/-- A member's value in the format. -/
def redRead (o : RedOps) (t : Thread) : Nat :=
  let w := match o.fmt with | .int f => iwidth f | .flt f => Legal.fwidth f
  if w == 64 then (t.rv64 o.a).toNat else (t.rv o.a).toNat % 2 ^ w

/-- A reduction's result written, with its flags. -/
def redPut (o : RedOps) (t : Thread) (r : Nat × Flags) : Thread :=
  let w64 := match o.fmt with | .int f => ipair f | .flt f => Legal.fpair f
  (putW w64 t o.d r.1).addFlags r.2

/-- LRED (07 R220). DEDUCED (log 103). -/
def execLred (g : Guard) (la : BitVec 4) (o : RedOps) (s : State) : Out :=
  runGroup false false g (.lred g la o) s fun s ps =>
    let r := redOut o (redTree o 5 (present g s ps (redRead o)))
    .done (deliver g s ps fun _ t => redPut o t (r.1.getD 0, r.2))

/-- The tree of member i in LSCAN: the members above it absent, and itself under .exc (07 R221). -/
def scanTree (o : RedOps) (l : List (Option Nat)) (i : Nat) : Option Nat × Flags :=
  redTree o 5 ((l.zipIdx).map fun e => if e.2 < i || (e.2 == i && !o.exc) then e.1 else none)

/-- LSCAN (07 R221). -/
def execLscan (g : Guard) (la : BitVec 4) (o : RedOps) (s : State) : Out :=
  runGroup false false g (.lscan g la o) s fun s ps =>
    let l := present g s ps (redRead o)
    .done (deliver g s ps fun i t =>
      let r := redOut o (scanTree o l i)
      redPut o t (r.1.getD (redIdentity o), r.2))

end Sys2Proof.Machine
end

