-- ==== Sys2Proof/Machine/Emulation.lean ====
section
/-! DEFINITION. Retired words, their emulation record, and the return from its handler (02_encoding.md R60;
17_code_objects.md R389, R390; 19_faults_traps_preemption.md R411). -/

namespace Sys2Proof.Machine

/-! Retired words and their emulation (02 R60; 17 R389, R390; 19 R411). -/

/-- An operand of a retired word: the pair, the register zero-extended, or zero (17 R389). -/
def emuOperand (t : Thread) (f : VReg) : DWord :=
  if f.getLsbD 0 == false && decide (f.toNat + 1 < t.allot) then t.rv64 f
  else if f.toNat < t.allot then (t.rv f).setWidth 64 else 0#64

/-- The fields srca, srcb and srcc of a retired word; a short word has no srcc (02 R48, R49; 17 R389). -/
def emuFields (len : Nat) (p0 p1 : Word) : VReg × VReg × Option VReg :=
  if len == 1 then (p0.extractLsb' 14 7, p0.extractLsb' 21 7, none)
  else (p0.extractLsb' 17 7, p0.extractLsb' 24 7, some (p1.extractLsb' 0 6 ++ p0.extractLsb' 31 1))

/-- The registers whose values a retired word's record holds (17 R389). -/
def emuReads (len : Nat) (p0 p1 : Word) : List Nat :=
  let (a, b, c) := emuFields len p0 p1
  ([a, b] ++ c.toList).flatMap fun f => if f.getLsbD 0 then [f.toNat] else [f.toNat, f.toNat + 1]

/-- The registers that a thread reads for a retired word's record (17 R389): those of its fields below the allotment.
DEDUCED (log 115). -/
def emuTaken (t : Thread) (len : Nat) (p0 p1 : Word) : List Nat := (emuReads len p0 p1).filter (· < t.allot)

/-- The emulation record of 17 Table 5. -/
def emuRecord (t : Thread) (word : DWord) (len : Nat) (p0 p1 : Word) : List Byte :=
  let (a, b, c) := emuFields len p0 p1
  toBytes 8 word.toNat ++ toBytes 8 t.pc.toNat ++ toBytes 8 t.ln.toNat ++ toBytes 8 (emuOperand t a).toNat ++
    toBytes 8 (emuOperand t b).toNat ++ toBytes 8 ((c.map (emuOperand t)).getD 0#64).toNat ++
    toBytes 8 0 ++ toBytes 8 0

/-- The threads of a thread's bound group, by %tid: a group is the set of its members (12 R281; 17 R390).
DEDUCED (log 32). -/
def groupTids (s : State) (t : Thread) : Option (List Word) :=
  (groupMembers s t).map fun ps => ps.filterMap fun p => (s.thr p).map (·.tid)
/-- The ordered-cell fault of a plain store to located pieces, their addresses beside them (03 R105). -/
def liveIn (s : State) : List (DWord × Nat) → List (Nat × Nat) → Option Trap
  | a :: as_, l :: ls =>
    match liveAt s l.1 l.2 with
    | some c => some (liveTrap (a.1 + BitVec.ofNat 64 (c.loc - l.1)) c)
    | none => liveIn s as_ ls
  | _, _ => none
/-- A thread's store to located pieces, each as ST performs it (04 R112; 22 R430). -/
def storePieces (s : State) (p : Nat) (t : Thread) : List (Nat × Nat) → List Byte → State
  | [], _ => s
  | l :: ls, bs =>
    storePieces (threadStore (chargeDram s (ctxOf s t) l.1 l.2) p t none l.1 (bs.take l.2) false) p t ls (bs.drop l.2)

/-- A retired word in an active thread: the trap, a fault of its record or of a poisoned register that the record would hold
(19 R398), the stack limit, or the handler (17 R389), in the order of their ranks (19 R395). DEDUCED (log 115). -/
def retire (g : Guard) (i : Instr) (len : Nat) (p0 p1 : Word) (s : State) : Out :=
  run g i s
    (fun t => if t.emu.isSome then .trap (mkTrap .illegalInstruction 4 0#64 (wordInfo i)) else .ok ())
    (fun t =>
      let entry := cfield s (ctxOf s t) 704 57
      let sp' := t.sp - 64#64
      let low := decide (t.sp.toNat < t.stklim.toNat + 64)
      if entry == 0 then .trap (mkTrap .retiredOpcode 0 0#64 (wordInfo i))
      else (if low then .ok [] else locateRange s s.cur t false sp' 64 Access.store).bind fun l =>
        (Chk.ofTrap (poisonTrapOf t (emuTaken t len p0 p1))).bind fun _ =>
          if low then .trap (mkTrap .stackLimit 0 sp' t.stklim) else .ok l)
    fun t l =>
      match liveIn s (pagePieces (t.sp - 64#64) 64) l with
      | some tr => takeTrap s s.cur t tr
      | none =>
        let s' := storePieces s s.cur t l (emuRecord t (wordInfo i) len p0 p1)
        s'.setThr s.cur (Thread.goTo { t with sp := t.sp - 64#64, emu := some (groupTids s t) } s
          (BitVec.ofNat 64 (cfield s (ctxOf s t) 704 57)))

/-- A retired short word (02 R60). -/
def execRetiredOpcodeShort (g : Guard) (w : Word) (s : State) : Out := retire g (.retiredOpcodeShort g w) 1 w 0#32 s
/-- A retired word of the 64-bit map (02 R60). -/
def execRetiredOpcode (g : Guard) (w : RawWord) (s : State) : Out :=
  retire g (.retiredOpcode g w) w.len.toNat w.p0 w.p1 s

/-- The length of the word in an emulation record (19 R411). -/
def emuLen (word : DWord) : Nat :=
  if !word.getLsbD 0 then 1 else if !word.getLsbD 1 then 2 else 3

/-- The address that a record returns to: after the retired word (19 R411). -/
def emuTarget (rec_ : List Byte) : DWord :=
  let q (k : Nat) : DWord := BitVec.ofNat 64 (leNat ((rec_.drop (8 * k)).take 8))
  nextPc (q 1) (emuLen (q 0))

/-- What EMURET does once its record is read: the checks of its fields in order, then the effect (19 R411).
DEDUCED (log 32). -/
def emuReturn (g : Guard) (s : State) (t : Thread) (rec_ : List Byte) : State :=
  let i : Instr := .emuret g
  let q (k : Nat) : DWord := BitVec.ofNat 64 (leNat ((rec_.drop (8 * k)).take 8))
  let mode := field (q 7) 0 2
  let target := emuTarget rec_
  let d : VReg := if emuLen (q 0) == 1 then (q 0).extractLsb' 7 7 else (q 0).extractLsb' 10 7
  if mode == 3 || field (q 7) 2 62 != 0 then takeTrap s s.cur t (mkTrap .illegalInstruction 4 0#64 (wordInfo i))
  else if t.emu != some (groupTids s t) then
    takeTrap s s.cur t (mkTrap .illegalConvergence 0 0#64 (wordInfo i) (boundMask s t))
  else
    match checkJump s s.cur t target with
    | .trap tr => takeTrap s s.cur t tr
    | .stall w => stall s s.cur t w
    | .ok _ =>
      if (mode == 2 && d.getLsbD 0) || decide (t.allot ≤ d.toNat) || (mode == 2 && decide (t.allot ≤ d.toNat + 1)) then
        takeTrap s s.cur t (mkTrap .illegalInstruction 1 0#64 (wordInfo i))
      else
        let t1 := if mode == 1 then t.setV d (lo32 (q 6)) else if mode == 2 then t.setV64 d (q 6) else t
        goOn i s s.cur { t1 with ln := q 2, sp := t.sp + 64#64, emu := none } target

/-- EMURET (19 R411): the record at sp is checked as LD.b64. DEDUCED (log 32). -/
def execEmuret (g : Guard) (s : State) : Out :=
  run g (.emuret g) s
    (fun t => if t.emu.isNone then .trap (mkTrap .illegalInstruction 4 0#64 (wordInfo (.emuret g))) else .ok ())
    (fun t =>
      ((alignCheck t.sp 8).bind fun _ => locateRange s s.cur t false t.sp 64 Access.load).bind fun l =>
        if piecesPoisoned s l then .trap (mkTrap .poison 0 t.sp) else .ok l)
    fun t l => emuReturn g s t (readPieces s l)

end Sys2Proof.Machine
end

