-- ==== Sys2Proof/Machine/Crypto.lean ====
section
/-! DEFINITION. The verification of certificates: SHA-384 (FIPS 180-4) and ECDSA over P-384 (FIPS 186-5), as
17_code_objects.md R382 names them; the encryption of DRAM: AES-256 (FIPS 197) in XTS mode (IEEE 1619), as
16_contexts_translation.md R366 names it. -/

namespace Sys2Proof.Machine

/-! SHA-384. -/

/-- The first 40 round constants of SHA-384 (FIPS 180-4). -/
def shaK1 : List DWord :=
  [0x428A2F98D728AE22#64, 0x7137449123EF65CD#64, 0xB5C0FBCFEC4D3B2F#64, 0xE9B5DBA58189DBBC#64, 0x3956C25BF348B538#64,
   0x59F111F1B605D019#64, 0x923F82A4AF194F9B#64, 0xAB1C5ED5DA6D8118#64, 0xD807AA98A3030242#64, 0x12835B0145706FBE#64,
   0x243185BE4EE4B28C#64, 0x550C7DC3D5FFB4E2#64, 0x72BE5D74F27B896F#64, 0x80DEB1FE3B1696B1#64, 0x9BDC06A725C71235#64,
   0xC19BF174CF692694#64, 0xE49B69C19EF14AD2#64, 0xEFBE4786384F25E3#64, 0x0FC19DC68B8CD5B5#64, 0x240CA1CC77AC9C65#64,
   0x2DE92C6F592B0275#64, 0x4A7484AA6EA6E483#64, 0x5CB0A9DCBD41FBD4#64, 0x76F988DA831153B5#64, 0x983E5152EE66DFAB#64,
   0xA831C66D2DB43210#64, 0xB00327C898FB213F#64, 0xBF597FC7BEEF0EE4#64, 0xC6E00BF33DA88FC2#64, 0xD5A79147930AA725#64,
   0x06CA6351E003826F#64, 0x142929670A0E6E70#64, 0x27B70A8546D22FFC#64, 0x2E1B21385C26C926#64, 0x4D2C6DFC5AC42AED#64,
   0x53380D139D95B3DF#64, 0x650A73548BAF63DE#64, 0x766A0ABB3C77B2A8#64, 0x81C2C92E47EDAEE6#64, 0x92722C851482353B#64]
/-- The last 40 round constants. -/
def shaK2 : List DWord :=
  [0xA2BFE8A14CF10364#64, 0xA81A664BBC423001#64, 0xC24B8B70D0F89791#64, 0xC76C51A30654BE30#64, 0xD192E819D6EF5218#64,
   0xD69906245565A910#64, 0xF40E35855771202A#64, 0x106AA07032BBD1B8#64, 0x19A4C116B8D2D0C8#64, 0x1E376C085141AB53#64,
   0x2748774CDF8EEB99#64, 0x34B0BCB5E19B48A8#64, 0x391C0CB3C5C95A63#64, 0x4ED8AA4AE3418ACB#64, 0x5B9CCA4F7763E373#64,
   0x682E6FF3D6B2B8A3#64, 0x748F82EE5DEFB2FC#64, 0x78A5636F43172F60#64, 0x84C87814A1F0AB72#64, 0x8CC702081A6439EC#64,
   0x90BEFFFA23631E28#64, 0xA4506CEBDE82BDE9#64, 0xBEF9A3F7B2C67915#64, 0xC67178F2E372532B#64, 0xCA273ECEEA26619C#64,
   0xD186B8C721C0C207#64, 0xEADA7DD6CDE0EB1E#64, 0xF57D4F7FEE6ED178#64, 0x06F067AA72176FBA#64, 0x0A637DC5A2C898A6#64,
   0x113F9804BEF90DAE#64, 0x1B710B35131C471B#64, 0x28DB77F523047D84#64, 0x32CAAB7B40C72493#64, 0x3C9EBE0A15C9BEBC#64,
   0x431D67C49C100D4C#64, 0x4CC5D4BECB3E42B6#64, 0x597F299CFC657E2A#64, 0x5FCB6FAB3AD6FAEC#64, 0x6C44198C4A475817#64]
/-- The initial hash value of SHA-384. -/
def shaInit : List DWord :=
  [0xCBBB9D5DC1059ED8#64, 0x629A292A367CD507#64, 0x9159015A3070DD17#64, 0x152FECD8F70E5939#64, 0x67332667FFC00B31#64,
   0x8EB44A8768581511#64, 0xDB0C2E0D64F98FA7#64, 0x47B5481DBEFA4FA4#64]

/-- A number from big-endian bytes. -/
def beNat (bs : List Byte) : Nat := bs.foldl (fun a b => a * 256 + b.toNat) 0
/-- The padding of a message of `n` bytes: to a multiple of 128 with its length in bits. -/
def shaPad (n : Nat) : List Byte :=
  0x80#8 :: List.replicate ((239 - n % 128) % 128) 0#8 ++ (toBytes 16 (8 * n)).reverse
/-- A rotation to the right. -/
def rotr (x : DWord) (n : Nat) : DWord := x.rotateRight n
/-- The message schedule: `n` further words, the latest first. -/
def shaSchedule : Nat → List DWord → List DWord
  | 0, w => w
  | n + 1, w =>
    let g (k : Nat) : DWord := (w[k]?).getD 0#64
    let s0 := rotr (g 14) 1 ^^^ rotr (g 14) 8 ^^^ (g 14 >>> 7)
    let s1 := rotr (g 1) 19 ^^^ rotr (g 1) 61 ^^^ (g 1 >>> 6)
    shaSchedule n ((s1 + g 6 + s0 + g 15) :: w)
/-- One round on the eight working words. -/
def shaRound (h : List DWord) (kw : DWord × DWord) : List DWord :=
  match h with
  | [a, b, c, d, e, f, g, i] =>
    let t1 := i + (rotr e 14 ^^^ rotr e 18 ^^^ rotr e 41) + ((e &&& f) ^^^ (~~~e &&& g)) + kw.1 + kw.2
    let t2 := (rotr a 28 ^^^ rotr a 34 ^^^ rotr a 39) + ((a &&& b) ^^^ (a &&& c) ^^^ (b &&& c))
    [t1 + t2, a, b, c, d + t1, e, f, g]
  | _ => h
/-- The words of a block of 128 bytes. -/
def shaWords (bs : List Byte) : List DWord := (List.range 16).map fun k => BitVec.ofNat 64 (beNat ((bs.drop (8 * k)).take 8))
/-- One block. -/
def shaBlock (h : List DWord) (bs : List Byte) : List DWord :=
  let w := (shaSchedule 64 (shaWords bs).reverse).reverse
  (h.zip (((shaK1 ++ shaK2).zip w).foldl shaRound h)).map fun x => x.1 + x.2
/-- The blocks of a padded message. -/
def shaBlocks : Nat → List DWord → List Byte → List DWord
  | 0, h, _ => h
  | n + 1, h, bs => shaBlocks n (shaBlock h (bs.take 128)) (bs.drop 128)
/-- The digest of a message, as a number of 384 bits. -/
def sha384 (bs : List Byte) : Nat :=
  let m := bs ++ shaPad bs.length
  ((shaBlocks (m.length / 128) shaInit m).take 6).foldl (fun a x => a * 2 ^ 64 + x.toNat) 0

/-! P-384. -/

/-- The field's prime. -/
def curveP : Nat := 2 ^ 384 - 2 ^ 128 - 2 ^ 96 + 2 ^ 32 - 1
/-- The coefficient b; a is −3. -/
def curveB : Nat := 0xb3312fa7e23ee7e4988e056be3f82d19181d9c6efe8141120314088f5013875ac656398d8a2ed19d2a85c8edd3ec2aef
/-- The order of the base point. -/
def curveN : Nat := 0xffffffffffffffffffffffffffffffffffffffffffffffffc7634d81f4372ddf581a0db248b0a77aecec196accc52973
/-- The base point. -/
def curveG : Nat × Nat :=
  (0xaa87ca22be8b05378eb1c71ef320ad746e1d3b628ba79b9859f741e082542a385502f25dbf55296c3a545e3872760ab7,
   0x3617de4a96262c6f5d9e98bf9292dc29f8f41dbd289a147ce9da3113b5f0b8c00a60b1ce1d7e819d7a431d7c90ea0e5f)
/-- A power modulo m, over `n` bits of the exponent. -/
def powMod (m x e : Nat) : Nat → Nat
  | 0 => 1 % m
  | n + 1 =>
    let r := powMod m x (e / 2) n
    r * r % m * (if e % 2 == 1 then x else 1) % m
/-- The inverse modulo a prime. -/
def invMod (m x : Nat) : Nat := powMod m (x % m) (m - 2) 384
/-- A difference modulo the field's prime. -/
def subP (a b : Nat) : Nat := (a + (curveP - b % curveP)) % curveP
/-- The third point of a line of slope `l`, reflected. -/
def chord (l : Nat) (x1 y1 x2 : Nat) : Nat × Nat :=
  let x := subP (subP (l * l) x1) x2
  (x, subP (l * subP x1 x) y1)
/-- The sum of two points; none is the point at infinity. -/
def pointAdd : Option (Nat × Nat) → Option (Nat × Nat) → Option (Nat × Nat)
  | none, q => q
  | p, none => p
  | some (x1, y1), some (x2, y2) =>
    if x1 == x2 then
      if (y1 + y2) % curveP == 0 then none
      else some (chord ((3 * x1 * x1 + curveP - 3) * invMod curveP (2 * y1) % curveP) x1 y1 x2)
    else some (chord (subP y2 y1 * invMod curveP (subP x2 x1) % curveP) x1 y1 x2)
/-- A multiple of a point, over `n` bits. -/
def pointMul (k : Nat) (q : Nat × Nat) : Nat → Option (Nat × Nat)
  | 0 => none
  | n + 1 =>
    let r := pointMul (k / 2) q n
    let d := pointAdd r r
    if k % 2 == 1 then pointAdd d (some q) else d
/-- Whether a point lies on the curve. -/
def onCurve (q : Nat × Nat) : Bool :=
  decide (q.1 < curveP) && decide (q.2 < curveP) && q.2 * q.2 % curveP == subP (q.1 * q.1 * q.1 + curveB) (3 * q.1)
/-- Whether a signature (r, s) of a message verifies under a public key. -/
def ecdsaOk (key : Nat × Nat) (msg : List Byte) (r s : Nat) : Bool :=
  if !onCurve key || r == 0 || s == 0 || decide (curveN ≤ r) || decide (curveN ≤ s) then false
  else
    let w := invMod curveN s
    match pointAdd (pointMul (sha384 msg * w % curveN) curveG 384) (pointMul (r * w % curveN) key 384) with
    | some (x, _) => x % curveN == r
    | none => false
/-- A signature's two halves of 48 bytes, big-endian. -/
def sigAt (bs : List Byte) (off : Nat) : Nat × Nat := (beNat ((bs.drop off).take 48), beNat ((bs.drop (off + 48)).take 48))
/-- Whether a certificate's key is endorsed and its signature verifies (17 R382). -/
def certSigned (root : Nat × Nat) (bs : List Byte) : Bool :=
  let key := (beNat ((bs.drop 65).take 48), beNat ((bs.drop 113).take 48))
  let e := sigAt bs 161
  let s := sigAt bs 320
  (bs.drop 64).head? == some 0x04#8
    && ecdsaOk root (bs.take 8 ++ (bs.drop 64).take 97) e.1 e.2 && ecdsaOk key (bs.take 320) s.1 s.2

/-! AES-256. -/

/-- A byte of the field GF(2^8) times x. -/
def xtime (b : Byte) : Byte := (b <<< 1) ^^^ (if b.getLsbD 7 then 0x1B#8 else 0#8)
/-- The product of two bytes of the field, over `n` bits of the second. -/
def gmul (a : Byte) (b : Nat) : Nat → Byte
  | 0 => 0#8
  | n + 1 => (if b % 2 == 1 then a else 0#8) ^^^ gmul (xtime a) (b / 2) n
/-- The product of two bytes of the field. -/
def fmul (a b : Byte) : Byte := gmul a b.toNat 8
/-- The inverse in the field, 0 for 0: the 254th power. -/
def finv (a : Byte) : Byte :=
  let r := (List.range 6).foldl (fun r _ => fmul (fmul r r) a) a
  fmul r r
/-- The S-box. -/
def sbox (a : Byte) : Byte :=
  let b := finv a
  b ^^^ b.rotateLeft 1 ^^^ b.rotateLeft 2 ^^^ b.rotateLeft 3 ^^^ b.rotateLeft 4 ^^^ 0x63#8
/-- Two lists of bytes added. -/
def xorBytes (a b : List Byte) : List Byte := List.zipWith (· ^^^ ·) a b
/-- The key schedule: `n` words more, the latest first, of which word `i` is the next; `rc` is its round constant. -/
def aesExpand : Nat → Nat → Byte → List (List Byte) → List (List Byte)
  | 0, _, _, w => w
  | n + 1, i, rc, w =>
    let prev := w.headD []
    let t :=
      if i % 8 == 0 then xorBytes ((prev.drop 1 ++ prev.take 1).map sbox) [rc, 0#8, 0#8, 0#8]
      else if i % 8 == 4 then prev.map sbox else prev
    aesExpand n (i + 1) (if i % 8 == 0 then xtime rc else rc) (xorBytes ((w[7]?).getD []) t :: w)
/-- The 15 round keys of a key of 32 bytes. -/
def aesKeys (key : List Byte) : List (List Byte) :=
  let w := (aesExpand 52 8 1#8 ((List.range 8).map fun k => (key.drop (4 * k)).take 4).reverse).reverse
  (List.range 15).map fun r => ((w.drop (4 * r)).take 4).flatten
/-- The rows of a block shifted. -/
def shiftRows (b : List Byte) : List Byte := (List.range 16).map fun k => (b[(k + 4 * (k % 4)) % 16]?).getD 0#8
/-- A column mixed. -/
def mixColumn (col : List Byte) : List Byte :=
  (List.range 4).map fun r =>
    let g (k : Nat) : Byte := (col[(r + k) % 4]?).getD 0#8
    xtime (g 0) ^^^ (xtime (g 1) ^^^ g 1) ^^^ g 2 ^^^ g 3
/-- The columns of a block mixed. -/
def mixColumns (b : List Byte) : List Byte := (List.range 4).flatMap fun c => mixColumn ((b.drop (4 * c)).take 4)
/-- The rounds after the first key addition; the last mixes no columns. -/
def aesRounds : List (List Byte) → List Byte → List Byte
  | [], b => b
  | [k], b => xorBytes (shiftRows (b.map sbox)) k
  | k :: r, b => aesRounds r (xorBytes (mixColumns (shiftRows (b.map sbox))) k)
/-- A block of 16 bytes encrypted under a key of 32. -/
def aes256 (key b : List Byte) : List Byte :=
  match aesKeys key with
  | [] => b
  | k :: r => aesRounds r (xorBytes b k)
/-- A tweak times the primitive element, its bytes little-endian. -/
def nextTweak (t : List Byte) : List Byte :=
  let n := leNat t
  toBytes 16 ((2 * n % 2 ^ 128) ^^^ (if n / 2 ^ 127 == 1 then 0x87 else 0))
/-- The blocks of a data unit encrypted from a tweak on. -/
def xtsBlocks (key : List Byte) : Nat → List Byte → List Byte → List Byte
  | 0, _, _ => []
  | n + 1, t, bs =>
    xorBytes (aes256 key (xorBytes (bs.take 16) t)) t ++ xtsBlocks key n (nextTweak t) (bs.drop 16)
/-- A data unit of whole blocks encrypted in XTS mode under Key1 and Key2, with its sequence number (IEEE 1619). -/
def xtsEncrypt (key1 key2 : List Byte) (seq : Nat) (bs : List Byte) : List Byte :=
  xtsBlocks key1 (bs.length / 16) (aes256 key2 (toBytes 16 seq)) bs
/-- What the DRAM of this module holds of the 128-byte line at a physical address: its bytes encrypted under the key slot
of its frame, its number bits [51:7] of the address (16 R366). None where the frame is not granted, or its slot holds no
key. Every access of the machine sees the plaintext, which State keeps; this is what stands in the DRAM itself. -/
def dramImage (s : State) (pa : Nat) : Option (List Byte) :=
  match (rget s.frames (pa / 32768)).bind (mget s.keys ·) with
  | some (k1, k2) =>
    if isHere s pa && decide (pa < 2 ^ 52) then
      some (xtsEncrypt (toBytes 32 k1.toNat) (toBytes 32 k2.toNat) (pa / 128) (s.read (pa / 128 * 128) 128))
    else none
  | none => none

end Sys2Proof.Machine
end

