-- ==== Sys2Proof/Machine/Isolation.lean ====
section
/-! DEFINITION. Contexts, partitions, and the isolation command block (16_contexts_translation.md R353 to R369;
19_faults_traps_preemption.md R399). -/

namespace Sys2Proof.Machine

/-! Contexts (16 R354; 19 R399). -/

/-- Whether a context's descriptor admits enable := 1 (16 R354); sizes are held to their units as addresses are.
DEDUCED (log 120). -/
def ctxFieldsOk (s : State) (c : Nat) : Bool :=
  let f (o w : Nat) : Nat := cfield s c o w
  f 64 52 % 4096 == 0 && f 128 57 % 2 ^ 30 == 0 && f 192 57 % 2 ^ 21 == 0 && f 256 40 % 2 ^ 21 == 0
    && f 576 57 % 2 ^ 15 == 0 && f 640 40 % 2 ^ 15 == 0
    && (f 256 40 == 0 || !rangesMeet (f 128 57) (576 * 2 ^ 20) (f 192 57) (f 256 40))
    && (mget s.keys c).isSome && f 320 144 != 0
    && f 768 57 != 0 && f 768 57 % 64 == 0 && 4 ≤ f 825 5 && f 825 5 ≤ 20
    && (f 832 57 == 0 || (f 832 57 % 64 == 0 && 4 ≤ f 889 5 && f 889 5 ≤ 20)) && (f 894 1 == 0 || f 832 57 != 0)
/-- The header of a queue of records cleared: write and lost (19 R399). R354 lists what keeps a context from being enabled,
and a header that cannot be reached is not of it: it stays as it is (log 20); a write toward an unreachable module is dropped
with its record (22_host_fabric_bringup.md R430). DEDUCED (log 83). -/
def clearHeader (s : State) (c base : Nat) (host : Bool) : State :=
  match recordLoc s c base 16 host Access.store with
  | some l => if isLost s l then lostRecord s c l else (s.write l (toBytes 4 0)).write (l + 8) (toBytes 4 0)
  | none => s
/-- The headers of a context's queue and ring cleared. -/
def clearHeaders (s : State) (c : Nat) : State :=
  let s1 := clearHeader s c (cfield s c 768 57) false
  if cfield s c 832 57 == 0 then s1 else clearHeader s1 c (cfield s c 832 57) (cfield s c 894 1 == 1)
/-- An enable that fails: state 2, enable 0. -/
def refuseCtx (s : State) (c : Nat) : State := setCfield (setCfield s c 30 2 2) c 0 1 0
/-- CONTEXT_ENABLE: enable := 1 (16 R354; 22_host_fabric_bringup.md R433). DEDUCED (log 20). -/
def enableCtx (s : State) (c : Nat) : State :=
  if ctxEnabled s c then s
  else if s.stage != 2#2 || !ctxFieldsOk s c then refuseCtx s c
  else
    let s1 := clearHeaders (s.setCtx c { s.ctx c with
      serials := 0#32, bad := [], stopped := [], frq := ⟨0#32, 0#32⟩, scr := ⟨0#32, 0#32⟩ }) c
    setCfield (setCfield s1 c 30 2 1) c 0 1 1
/-- CONTEXT_ENABLE. -/
def execContextEnable (c : Nat) (s : State) : Out :=
  if 4096 ≤ c || s.stage == 0#2 then .next s else .next (enableCtx s c)
/-- enable := 0, refused while a team or an enabled queue of the context stands; else the context is idle (16 R354). -/
def disableCtx (s : State) (c : Nat) : State :=
  if s.teams.any (fun e => e.2.ctx == c)
      || s.queues.any (fun e => qfield s e.1 96 12 == c && qfield s e.1 58 1 == 1) then s
  else setCfield (setCfield s c 30 2 0) c 0 1 0
/-- CONTEXT_DISABLE. -/
def execContextDisable (c : Nat) (s : State) : Out :=
  if 4096 ≤ c || s.stage == 0#2 then .next s else .next (disableCtx s c)

/-! Partitions (16 R356). -/

/-- A bit of a partition set or cleared. -/
def setPartition (s : State) (c core : Nat) (b : Bool) : State :=
  s.setCtx c { s.ctx c with
    desc := if b then (s.ctx c).desc ||| (1#1024 <<< (320 + core)) else (s.ctx c).desc &&& ~~~(1#1024 <<< (320 + core)) }
/-- Whether a core belongs to no other context's partition and is not removed. -/
def coreFree (s : State) (c core : Nat) : Bool :=
  !s.coreOff.getLsbD core && s.ctxs.all fun e => e.1 == c || !inPartition s e.1 core
/-- One bit of a partition write; a bit set again while its core is leaving keeps the core, with no new wait.
DEDUCED (log 87). -/
def writePartitionBit (s : State) (c core : Nat) (b : Bool) : State :=
  let y := s.core core
  let now := s.beat.toNat
  if b then
    if inPartition s c core then (if y.leaving then s.setCore core { y with leaving := false } else s)
    else if coreFree s c core then
      let s1 := setPartition s c core true
      s1.setCore core { s1.core core with leaving := false, changed := now }
    else s
  else if !inPartition s c core then s
  else if (residentOn s core).isSome then
    (if y.leaving then s else s.setCore core { y with leaving := true, changed := now })
  else setPartition s c core false
/-- PARTITION_WRITE (16 R356). -/
def writePartition (s : State) (c : Nat) (bits : BitVec 144) : State :=
  (List.range 144).foldl (fun s core => writePartitionBit s c core (bits.getLsbD core)) s
/-- PARTITION_WRITE. -/
def execPartitionWrite (c : Nat) (bits : BitVec 144) (s : State) : Out :=
  if 4096 ≤ c || s.stage == 0#2 then .next s else .next (writePartition s c bits)

/-! The isolation command block (16 R363, R368). -/

/-- The isolation command ended with a status. -/
def isoDone (s : State) (st : BitVec 2) : State := { s with iso := { s.iso with busy := false, status := st } }
/-- Whether the block runs this command. -/
def isoRuns (s : State) (op : BitVec 4) : Bool := s.iso.busy && s.iso.op == op
/-- The size a command names. -/
def isoSize (s : State) : Nat := if s.iso.size == 0#2 then 2 ^ 15 else if s.iso.size == 1#2 then 2 ^ 21 else 2 ^ 30
/-- Whether an access of a context translated before is still to be performed (16 R363). DEDUCED (log 86). -/
def ctxUnderWay (s : State) (c : Nat) : Bool :=
  let mine (p : Nat) : Bool := ((s.thr p).map fun t => ctxOf s t == c).getD false
  s.mesh.any (·.ctx == c) || s.unacked.any (fun u => mine u.place) || s.threads.any (fun e => mine e.1 && addHeld s e.1) ||
    s.msgs.any (fun m => m.2.ctx == c && (!m.2.visited.isEmpty || !m.2.first.isEmpty || initSent s m.2.place)) ||
    s.forwards.any (fun f => f.2.ctx == c && f.2.loc.isSome) ||
    (List.range 144).any fun core => (List.range 8).any fun q => (queueAt s core q).any fun e =>
      e.ctx == c && match e.kind with
        | .marker _ => false
        | .copy left _ => left.any fun x => !x.2.late
        | .eng op => !op.locs.isEmpty
/-- Whether a cached range meets the range of a command; size 3 is the whole context. -/
def invalHits (s : State) (base n : Nat) : Bool :=
  let a := s.iso.a.toNat % 2 ^ 57 / isoSize s * isoSize s
  s.iso.size == 3#2 || rangesMeet base n a (isoSize s)
/-- INVAL: completes once every access translated before is performed (16 R363; 17_code_objects.md R384).
DEDUCED (log 86). -/
def execInval (s : State) : Out :=
  let c := s.iso.ctx.toNat
  if !isoRuns s 1#4 || ctxUnderWay s c then .next s
  else
    .next (isoDone { s with
      tlb := s.tlb.filter fun e => !(e.ctx == c && invalHits s e.base e.size)
      lines := s.lines.filter fun l => !(l.ctx == c && invalHits s l.va 128) } 0#2)
/-- Whether a range of physical addresses lies in this module's DRAM, outside the owner table that firmware reserves (16
R364). What it reserves for lending records (12_execution_model.md R286) has no address in this model, and no GRANT meets
it. DESIGN CHOICE (log 17). -/
def rangeOwn (s : State) (a n : Nat) : Bool :=
  a % n == 0 && decide (a < 2 ^ 52) && moduleOf a == s.module.toNat && decide (a % 2 ^ 40 + n ≤ Config.reservedBase)
/-- GRANT (16 R368). -/
def execGrant (s : State) : Out :=
  if !isoRuns s 2#4 then .next s
  else
    let a := s.iso.a.toNat % 2 ^ 57
    let n := isoSize s
    let k := s.iso.key.toNat
    if s.stage != 2#2 || s.iso.size == 3#2 || !rangeOwn s a n || (mget s.keys k).isNone
        || s.frames.any (fun r => 0 < rangeHit (a / 32768) (n / 32768) r) then .next (isoDone s 1#2)
    else
      let s1 := s.zero a n
      .next (isoDone { s1 with
        frames := s1.frames ++ [⟨a / 32768, n / 32768, k⟩]
        certified := rcut s1.certified (a / 32768) (n / 32768) } 0#2)
/-- RELEASE (16 R368): of the frames from the one that holds addr on; only GRANT asks for alignment to the size. -/
def execRelease (s : State) : Out :=
  if !isoRuns s 3#4 then .next s
  else
    let a := s.iso.a.toNat % 2 ^ 57
    let n := isoSize s
    let inRange (l : Nat) : Bool := decide (a / 32768 ≤ l / 32768) && decide (l / 32768 < a / 32768 + n / 32768)
    match rget s.frames (a / 32768) with
    | none => .next (isoDone s 1#2)
    | some k =>
      if s.iso.size == 3#2 || rcount s.frames (a / 32768) (n / 32768) k != n / 32768 then .next (isoDone s 1#2)
      else
        .next (isoDone { s with
          frames := rcut s.frames (a / 32768) (n / 32768)
          certified := rcut s.certified (a / 32768) (n / 32768)
          links := s.links.filter fun e => !inRange e.1 && !inRange e.2 } 0#2)
/-- Whether a key slot may not change: a granted frame uses it, or its context is enabled (16 R368). -/
def keyHeld (s : State) (k : Nat) : Bool := s.frames.any (·.tag == k) || (k < 4096 && ctxEnabled s k)
/-- The key registers of the block zeroed. -/
def wipeKeys (s : State) : State :=
  { s with
    iso := { s.iso with key1 := 0#256, key2 := 0#256 }
    isoReg := { s.isoReg with key1 := 0#256, key2 := 0#256 } }
/-- KEYLOAD (16 R368). -/
def execKeyload (s : State) : Out :=
  if !isoRuns s 4#4 then .next s
  else
    let k := s.iso.key.toNat
    if s.iso.key1 == s.iso.key2 || keyHeld s k then .next (wipeKeys (isoDone s 1#2))
    else .next (wipeKeys (isoDone { s with keys := mset s.keys k (s.iso.key1, s.iso.key2) } 0#2))
/-- KEYCLEAR, rejected under the conditions of KEYLOAD (16 R368). -/
def execKeyclear (s : State) : Out :=
  if !isoRuns s 5#4 then .next s
  else
    let k := s.iso.key.toNat
    if s.iso.key1 == s.iso.key2 || keyHeld s k then .next (wipeKeys (isoDone s 1#2))
    else .next (wipeKeys (isoDone { s with keys := mdel s.keys k } 0#2))

end Sys2Proof.Machine
end

