-- ==== Sys2Proof/Machine/Firmware.lean ====
section
/-! DEFINITION. The management space, certification, firmware, bring-up, thermal actions and the device reset
(17_code_objects.md R382, R383; 22_host_fabric_bringup.md R425 to R438; 12_execution_model.md R287). -/

namespace Sys2Proof.Machine

/-! CERTIFY (17 R382, R383; 22 R428). -/

/-- The installation command ended with a status. -/
def instDone (s : State) (st : BitVec 2) : State := { s with inst := { s.inst with busy := false, status := st } }
/-- The access that text must admit: r and x in every frame. -/
def Access.text : Access := ⟨true, false, true, false, .none⟩
/-- The frames of a context's text, each of this module's DRAM; none when a frame fails. -/
def textFrames (s : State) (c va : Nat) : Nat → Option (List Nat)
  | 0 => some []
  | n + 1 =>
    match translate s 0 c (BitVec.ofNat 64 va) Access.text false 1 with
    | .ok pl => if isDram s pl.loc then (textFrames s c (va + 32768) n).map (pl.loc / 32768 :: ·) else none
    | _ => none
/-- The bytes of frames, or none when one is poisoned. -/
def frameText (s : State) : List Nat → Option (List Byte)
  | [] => some []
  | f :: r => if s.poisoned (32768 * f) 32768 then none else (frameText s r).map (s.read (32768 * f) 32768 ++ ·)
/-- Whether a certificate is signed, and its digest is that of a text (17 R382). -/
def certText (cert text : List Byte) : Bool :=
  beNat ((cert.drop 16).take 48) == sha384 text && certSigned (Config.rootKeyX, Config.rootKeyY) cert
/-- Whether a certificate is valid for a text (17 R382). DEDUCED (log 94). DESIGN CHOICE (log 99). -/
def certOk (cert text : List Byte) : Bool :=
  pfield cert 4 0 32 == Config.revision.toNat
    && certText cert text
/-- The frames that CERTIFY may mark (17 R383); none when a check fails. -/
def certifyFrames (s : State) (c text cert : Nat) : Option (List Nat) :=
  match devRead s c cert 512 with
  | .ok bs =>
    let size := pfield bs 8 0 64
    if size % 32768 != 0 || text % 32768 != 0 || 2 ^ 40 ≤ size then none
    else
      match textFrames s c text (size / 32768) with
      | none => none
      | some fs =>
        match frameText s fs with
        | some t => if certOk bs t then some fs else none
        | none => none
  | _ => none
/-- CERTIFY. -/
def execCertify (s : State) : Out :=
  if !(s.inst.busy && s.inst.op == 1#4) then .next s
  else
    match certifyFrames s s.inst.ctx.toNat (s.inst.a.toNat % 2 ^ 57) (s.inst.b.toNat % 2 ^ 57) with
    | some fs => .next (instDone { s with certified := fs.foldl (fun rs f => rcut rs f 1 ++ [⟨f, 1, 0⟩]) s.certified } 0#2)
    | none => .next (instDone s 1#2)

/-! The sensors (22 R436, R438). -/

/-- New readings of the sensors (22 R438). -/
def setReadings (s : State) (r : Readings) : State :=
  { s with sensors := { s.sensors with
      temps := (List.range 9).map fun k => (r.temps[k]?).getD 0#16, power := r.power, vcore := r.vcore } }
/-- Whether any junction reads a temperature in sixteenths of a degree or more. -/
def anyAtLeast (s : State) (x : Int) : Bool := s.sensors.temps.any fun t => x ≤ t.toInt
/-- Whether the temperatures call for the reduced allowance: from 105 °C on, until all read below 95 °C (22 R436). -/
def tooHot (s : State) : Bool := anyAtLeast s 1680 || (s.overTemp && anyAtLeast s 1520)
/-- Whether the power does: above 2,800 W, until it falls below 2,600 W (22 R436). -/
def tooHigh (s : State) : Bool :=
  decide (2800000 < s.sensors.power.toNat) || (s.overPower && decide (2600000 ≤ s.sensors.power.toNat))
/-- Firmware halves the replenishment, or makes it whole, as the readings call for, and signals vector 1 when it does (22
R436); at stage 0 no firmware runs. -/
def regulate (s : State) : State :=
  if s.stage == 0#2 || (tooHot s == s.overTemp && tooHigh s == s.overPower) then s
  else signal { s with overTemp := tooHot s, overPower := tooHigh s } 0 1

/-! Firmware and bring-up (22 R433 to R437). -/

/-- The firmware-mailbox command ended with a status: vector 0 is signalled (22 R425). -/
def mailDone (s : State) (st : BitVec 2) : State := signal { s with mail := { s.mail with busy := false, status := st } } 0 0
/-- The stage risen, with its signal (22 R434). -/
def raiseStage (s : State) (n : BitVec 2) : State := signal { s with stage := n } 0 0
/-- A verified image loaded: from stage 0 the stage rises, DRAM is trained, or checked after a failure (22 R434, R437), and
firmware acts on the sensors as they read (22 R436). -/
def loadImage (s : State) (version : Nat) : State :=
  let s1 := { s with fwVersion := BitVec.ofNat 40 version, choices := { s.choices with silent := false } }
  if s1.stage == 0#2 then
    regulate (raiseStage { s1 with training := !s1.fwFail, checking := s1.fwFail, fwFail := false } 1#2)
  else s1
/-- Whether a Shawm image verifies: it is signed as a translation certificate is, its certificate the image's first 512
bytes and its text the rest (22 R435). DESIGN CHOICE (log 12). -/
def imageOk (bs : List Byte) : Bool := 512 ≤ bs.length && certText (bs.take 512) (bs.drop 512)
/-- The version of an image, where a certificate holds its revision (22 R435; 17 R382, Table 4).
DESIGN CHOICE (log 12). -/
def imageVersion (bs : List Byte) : Nat := pfield bs 4 0 32
/-- FWLOAD (22 R435). DEDUCED (log 88). -/
def execFwload (s : State) : Out :=
  if !(s.mail.busy && s.mail.op == 1#4) then .next s
  else if s.ctxs.any fun e => ctxEnabled s e.1 then .next (mailDone s 1#2)
  else
    let l := hostLoc (2 ^ 20) s.mail.a.toNat
    let n := s.mail.b.toNat % 2 ^ 32
    let image := s.read l n
    if imageOk image && Config.fwMinVersion ≤ imageVersion image && !s.poisoned l n then
      .next (mailDone (loadImage s (imageVersion image)) 0#2)
    else .next (mailDone s 2#2)
/-- The cores of failing channels set in core_off: they belong to no partition (22 R427, R434). -/
def removeCores (s : State) (failed : BitVec 144) : State :=
  { s with
    coreOff := s.coreOff ||| failed
    ctxs := s.ctxs.map fun e => (e.1, { e.2 with desc := e.2.desc &&& ~~~(failed.setWidth 1024 <<< 320) }) }
/-- DRAM_TRAINING_DONE (22 R434); a thermal shutdown holds the stage at 1 (22 R437). -/
def execDramTrainingDone (failed : BitVec 144) (s : State) : Out :=
  if !s.training || s.stage != 1#2 then .next s
  else
    let s1 := { removeCores s failed with training := false }
    .next (if s1.shut then s1 else raiseStage s1 2#2)
/-- DRAM_CHANNEL_CHECK_DONE: `failed` are the channels that did not answer and whose training failed (22 R437). -/
def execDramChannelCheckDone (failed : BitVec 144) (s : State) : Out :=
  if !s.checking || s.stage != 1#2 then .next s
  else
    let s1 := { removeCores s failed with checking := false }
    .next (if s1.shut then s1 else raiseStage s1 2#2)

/-! Thermal actions (22 R436, R437). -/

/-! Thermal actions (22 R436, R437). -/

/-- A shutdown over, once every junction reads below 95 °C: the channels are checked (22 R437). -/
def recover (s : State) : State :=
  if s.shut && s.stage == 1#2 && !anyAtLeast s 1520 then { s with shut := false, checking := !s.training } else s
/-- New readings, and what firmware does at them (22 R436, R437). -/
def readSensors (s : State) (r : Readings) : State := recover (regulate (setReadings s r))
/-- THERMAL_THROTTLE: readings that call for the reduced allowance (22 R436). -/
def execThermalThrottle (r : Readings) (s : State) : Out := .next (readSensors s r)
/-- THERMAL_THROTTLE_END: readings that call for it no more (22 R436). -/
def execThermalThrottleEnd (r : Readings) (s : State) : Out := .next (readSensors s r)
/-- THERMAL_SHUTDOWN: 115 °C or more for 1 ms (22 R436). DEDUCED (log 84). -/
def execThermalShutdown (r : Readings) (s : State) : Out :=
  let s1 := readSensors s r
  if s.stage == 0#2 || !anyAtLeast s1 1840 then .next s1
  else
    let s2 := (s1.ctxs.filter fun e => ctxEnabled s1 e.1).foldl (fun s e => forcedReset s e.1) s1
    let s3 := signal { s2 with shut := true, checking := false } 0 1
    .next (if s3.stage == 2#2 then signal { s3 with stage := 1#2 } 0 0 else s3)
/-- THERMAL_RECOVERY: readings of every junction below 95 °C after a shutdown (22 R437). DEDUCED (log 84). -/
def execThermalRecovery (r : Readings) (s : State) : Out := .next (readSensors s r)

/-! Writes of the management space (22 R426, R427). -/

/-- A location of this module's DRAM, or of the module whose number it takes, under the exchanged number.
DEDUCED (log 90). -/
def renumberLoc (old new a : Nat) : Nat :=
  if 2 ^ 52 ≤ a then a
  else if moduleOf a = old then new * 2 ^ 40 + a % 2 ^ 40
  else if moduleOf a = new then old * 2 ^ 40 + a % 2 ^ 40
  else a
/-- A range of frames under the exchanged number. -/
def renumberRange (old new : Nat) (r : Range) : Range := { r with start := renumberLoc old new (r.start * 32768) / 32768 }
/-- This module takes a number: its DRAM goes with it. DEDUCED (log 90). -/
def renumber (s : State) (new : BitVec 12) : State :=
  let f := renumberLoc s.module.toNat new.toNat
  { s with
    module := new
    mem := s.mem.foldl (fun m c => memPut m (f c.1) c.2) []
    poison := s.poison.foldl (fun l h => setAdd l (f (16 * h) / 16)) []
    frames := s.frames.map (renumberRange s.module.toNat new.toNat)
    certified := s.certified.map (renumberRange s.module.toNat new.toNat) }
/-- The module number written (22 R427). -/
def writeModule (s : State) (v : Word) : State :=
  if field v 0 12 < 3072 && !s.ctxs.any (fun e => ctxEnabled s e.1) then renumber s (v.setWidth 12) else s
/-- MODULE_WRITE: the identity block serves at every stage (22 R433). -/
def execModuleWrite (v : Word) (s : State) : Out := .next (writeModule s v)
/-- The Bellows control register written (12 R287; 22 R433). -/
def writeBellows (s : State) (v : Word) : State :=
  if s.stage == 2#2 && 4 ≤ field v 0 15 && field v 0 15 ≤ 16384 then { s with period := v.setWidth 15 } else s
/-- BELLOWS_WRITE. -/
def execBellowsWrite (v : Word) (s : State) : Out := .next (writeBellows s v)
/-- An entry of the interrupt map written (22 R425). -/
def writeIntMap (s : State) (c : Nat) (v : Word) : State :=
  if field v 11 6 != 0 && 64 ≤ field v 0 11 then s
  else { s with intMap := mset s.intMap c (v &&& 0x8001FFFF#32) }
/-- INTERRUPT_MAP_WRITE. -/
def execInterruptMapWrite (c : Nat) (v : Word) (s : State) : Out :=
  .next (if 4096 ≤ c || s.stage == 0#2 then s else writeIntMap s c v)

/-- The registers of the isolation block as stored (16 R368, Table 3). -/
def isoImage (b : Block8) : List Byte :=
  toBytes 8 (b.op.toNat + b.size.toNat * 2 ^ 4 + b.key.toNat * 2 ^ 8 + b.ctx.toNat * 2 ^ 32) ++ toBytes 8 b.a.toNat
    ++ toBytes 48 0 ++ toBytes 32 b.key1.toNat ++ toBytes 32 b.key2.toNat
/-- Those registers from bytes. -/
def isoParse (bs : List Byte) : Block8 :=
  { Block8.reset with
    op := BitVec.ofNat 4 (pfield bs 0 0 4), size := BitVec.ofNat 2 (pfield bs 0 4 2), key := BitVec.ofNat 13 (pfield bs 0 8 13)
    ctx := BitVec.ofNat 12 (pfield bs 0 32 12), a := BitVec.ofNat 64 (pfield bs 8 0 57)
    key1 := BitVec.ofNat 256 (leNat ((bs.drop 64).take 32)), key2 := BitVec.ofNat 256 (leNat ((bs.drop 96).take 32)) }
/-- The registers of the recovery block as stored (19 R412, Table 7). -/
def recImage (b : Block8) : List Byte :=
  toBytes 8 (b.op.toNat + b.mode.toNat * 2 ^ 4 + (if b.setv then 2 ^ 6 else 0) + b.ctx.toNat * 2 ^ 8) ++ toBytes 8 b.a.toNat
    ++ toBytes 8 b.b.toNat ++ toBytes 8 0
/-- Those registers from bytes. -/
def recParse (bs : List Byte) : Block8 :=
  { Block8.reset with
    op := BitVec.ofNat 4 (pfield bs 0 0 4), mode := BitVec.ofNat 2 (pfield bs 0 4 2), setv := pfield bs 0 6 1 == 1
    ctx := BitVec.ofNat 12 (pfield bs 0 8 12), a := BitVec.ofNat 64 (pfield bs 8 0 64), b := BitVec.ofNat 64 (pfield bs 16 0 64) }
/-- The registers of the installation block (22 R428, Table 4) or of the mailbox (R435) as stored. -/
def instImage (n : Nat) (b : Block8) : List Byte :=
  toBytes 8 (b.op.toNat + b.ctx.toNat * 2 ^ 8) ++ toBytes 8 b.a.toNat ++ toBytes 8 b.b.toNat ++ toBytes (n - 24) 0
/-- The installation block's registers from bytes. -/
def instParse (bs : List Byte) : Block8 :=
  { Block8.reset with
    op := BitVec.ofNat 4 (pfield bs 0 0 4), ctx := BitVec.ofNat 12 (pfield bs 0 8 12)
    a := BitVec.ofNat 64 (pfield bs 8 0 57), b := BitVec.ofNat 64 (pfield bs 16 0 57) }
/-- The mailbox's registers from bytes. -/
def mailParse (bs : List Byte) : Block8 :=
  { Block8.reset with
    op := BitVec.ofNat 4 (pfield bs 0 0 4), a := BitVec.ofNat 64 (pfield bs 8 0 64), b := BitVec.ofNat 64 (pfield bs 16 0 32) }
/-- Whether bytes of a command block set go. DEDUCED (log 85). -/
def goSet (bs : List Byte) : Bool := pfield bs 0 48 1 == 1
/-- A command started: busy, or rejected at once when no command has its op. DEDUCED (log 85). -/
def startCommand (b : Block8) (ops : Nat) : Block8 :=
  if 1 ≤ b.op.toNat && b.op.toNat ≤ ops then { b with busy := true } else { b with busy := false, status := 1#2 }
/-- Bytes laid over others. -/
def overlay (old : List Byte) (off : Nat) (bs : List Byte) : List Byte :=
  old.take off ++ bs ++ old.drop (off + bs.length)
/-- The isolation block written: ignored with go = 1 while busy (16 R368). DEDUCED (log 85). -/
def writeIso (s : State) (off : Nat) (bs : List Byte) : State :=
  let x := overlay (isoImage s.isoReg) off bs
  if goSet x && s.iso.busy then s
  else
    let s1 := { s with isoReg := isoParse x }
    if goSet x then { s1 with iso := startCommand (isoParse x) 5 } else s1
/-- The recovery block written (19 R412). -/
def writeRec (s : State) (off : Nat) (bs : List Byte) : State :=
  let x := overlay (recImage s.recReg) off bs
  if goSet x && s.rec_.busy then s
  else
    let s1 := { s with recReg := recParse x }
    if goSet x then { s1 with rec_ := startCommand (recParse x) 5 } else s1
/-- The installation block written (22 R428). -/
def writeInst (s : State) (off : Nat) (bs : List Byte) : State :=
  let x := overlay (instImage 32 s.instReg) off bs
  if goSet x && s.inst.busy then s
  else
    let s1 := { s with instReg := instParse x }
    if goSet x then { s1 with inst := startCommand (instParse x) 1 } else s1
/-- The mailbox written (22 R435): a rejected op is the end of a command too, and signals (R425). -/
def writeMail (s : State) (off : Nat) (bs : List Byte) : State :=
  let x := overlay (instImage 64 s.mailReg) off bs
  if goSet x && s.mail.busy then s
  else
    let s1 := { s with mailReg := mailParse x }
    let m := startCommand (mailParse x) 1
    if goSet x then (if m.busy then { s1 with mail := m } else signal { s1 with mail := m } 0 0) else s1

/-- The bits of a context descriptor that a write sets as they are (16 R353; 19 R399): the rw fields but enable and
partition. -/
def ctxWritable : BitVec 1024 :=
  BitVec.ofNat 1024 (2 ^ 1 + 2 ^ 2 + (2 ^ 28 - 2 ^ 8) + (2 ^ 116 - 2 ^ 64) + (2 ^ 185 - 2 ^ 128) + (2 ^ 249 - 2 ^ 192)
    + (2 ^ 296 - 2 ^ 256) + (2 ^ 560 - 2 ^ 512) + (2 ^ 633 - 2 ^ 576) + (2 ^ 680 - 2 ^ 640) + (2 ^ 761 - 2 ^ 704) + (2 ^ 830 - 2 ^ 768)
    + (2 ^ 895 - 2 ^ 832) + (2 ^ 921 - 2 ^ 896))
/-- A context descriptor written: its plain fields, then the partition bits in the bytes written, then enable. -/
def writeCtx (s : State) (c off : Nat) (bs : List Byte) : State :=
  let x := BitVec.ofNat 1024 (leNat (overlay (toBytes 128 (s.ctx c).desc.toNat) off bs))
  let s1 := s.setCtx c { s.ctx c with desc := ((s.ctx c).desc &&& ~~~ctxWritable) ||| (x &&& ctxWritable) }
  let s2 := (List.range 144).foldl (fun s core =>
    if off ≤ 40 + core / 8 ∧ 40 + core / 8 < off + bs.length then writePartitionBit s c core (x.getLsbD (320 + core)) else s) s1
  if off == 0 then (if x.getLsbD 0 then enableCtx s2 c else disableCtx s2 c) else s2
/-- weight, prio and rank_prog: the fields a write sets while a queue is enabled (14 R320, R341). Their values are taken as
written: the rule checks ranges only in a write that sets enable. DEDUCED (log 73). -/
def liveFields : BitVec 512 := BitVec.ofNat 512 (2 ^ 96 - 2 ^ 72)
/-- A queue descriptor written (14 R320). DEDUCED (log 73). -/
def writeQueue (s : State) (q off : Nat) (bs : List Byte) : State :=
  let y := s.queue q
  let x := BitVec.ofNat 512 (leNat (overlay (toBytes 64 y.desc.toNat) off bs))
  if y.desc.getLsbD 58 then
    let s1 := s.setQueue q { y with desc := (y.desc &&& ~~~liveFields) ||| (x &&& liveFields) }
    if x.getLsbD 58 then s1 else setQfield (setQfield s1 q 58 1 0) q 192 2 0
  else if x.getLsbD 58 then enableQueue s q x
  else s.setQueue q { y with desc := mergeDesc y.desc x }
/-- The bits of an entry of the transport table that a write sets (22 R432). -/
def connWritable : BitVec 256 :=
  BitVec.ofNat 256 (2 ^ 22 - 1 + (2 ^ 44 - 2 ^ 32) + (2 ^ 121 - 2 ^ 64) + 2 ^ 159)

/-- The blocks of the management space (22 R426, Table 2). -/
inductive MBlock where
  | identity | bellows | crumhorn | iso | recovery | install | mailbox | allowance | intMap | ranks | sensors | context
  | queue | transport
  deriving DecidableEq, Repr
/-- An entry of a block: its number, its offset and its size. -/
structure MEntry where
  block : MBlock
  index : Nat
  base  : Nat
  size  : Nat
  deriving DecidableEq, Repr
/-- A run of entries of one block. -/
def tableEntry (off : Nat) (b : MBlock) (start n size : Nat) : Option MEntry :=
  if start ≤ off ∧ off < start + n * size then
    some ⟨b, (off - start) / size, start + (off - start) / size * size, size⟩
  else none
/-- The entry an offset lies in (22 R426, Table 2). -/
def entryAt (off : Nat) : Option MEntry :=
  (tableEntry off .identity 0 1 64).or <| (tableEntry off .bellows 0x40 1 4).or <| (tableEntry off .crumhorn 0x44 1 4).or <|
  (tableEntry off .iso 0x80 1 128).or <| (tableEntry off .recovery 0x100 1 32).or <| (tableEntry off .install 0x120 1 32).or <|
  (tableEntry off .mailbox 0x140 1 64).or <| (tableEntry off .allowance 0x1000 144 4).or <|
  (tableEntry off .intMap 0x2000 4096 4).or <| (tableEntry off .ranks 0x8000 256 64).or <|
  (tableEntry off .sensors 0x10000 1 4096).or <| (tableEntry off .context 0x80000 4096 128).or <|
  (tableEntry off .queue 0x100000 8192 64).or <| tableEntry off .transport 0x180000 4096 32
/-- A 4-byte register with bytes laid over it. -/
def overlay4 (old : Nat) (off : Nat) (bs : List Byte) : Word := BitVec.ofNat 32 (leNat (overlay (toBytes 4 old) off bs))
/-- Bytes written at an offset of one entry (22 R426). Stage 0 serves the identity block and the mailbox only (R433). -/
def writeEntry (s : State) (e : MEntry) (off : Nat) (bs : List Byte) : State :=
  if s.stage == 0#2 && e.block != .identity && e.block != .mailbox then s
  else
    match e.block with
    | .identity =>
      if off < 12 ∧ 8 < off + bs.length then
        writeModule s (BitVec.ofNat 32 (leNat (((overlay (toBytes 64 (s.module.toNat * 2 ^ 64)) off bs).drop 8).take 4)))
      else s
    | .bellows => writeBellows s (overlay4 s.period.toNat off bs)
    | .crumhorn => { s with step := (overlay4 s.step.toNat off bs).setWidth 6 }
    | .iso => writeIso s off bs
    | .recovery => writeRec s off bs
    | .install => writeInst s off bs
    | .mailbox => writeMail s off bs
    | .allowance => { s with allow := mset s.allow e.index ((overlay4 (allowance s e.index) off bs).setWidth 16) }
    | .intMap => writeIntMap s e.index (overlay4 (intEntry s e.index).toNat off bs)
    | .ranks =>
      if e.index == 0 then s
      else
        let x := BitVec.ofNat 512 (leNat (overlay (toBytes 64 ((mget s.ranks e.index).getD 0#512).toNat) off bs))
        { s with ranks := mset s.ranks e.index x }
    | .sensors => s
    | .context => writeCtx s e.index off bs
    | .queue => writeQueue s e.index off bs
    | .transport =>
      let x := BitVec.ofNat 256 (leNat (overlay (toBytes 32 ((mget s.transport e.index).getD 0#256).toNat) off bs))
      { s with transport := mset s.transport e.index (x &&& connWritable) }
/-- Bytes written to the management space, entry by entry; an offset that no block names ignores its byte (22 R426). -/
def writeSpace : Nat → State → Nat → List Byte → State
  | 0, s, _, _ => s
  | n + 1, s, off, bs =>
    match bs with
    | [] => s
    | _ :: r =>
      match entryAt off with
      | none => writeSpace n s (off + 1) r
      | some e =>
        let k := e.base + e.size - off
        writeSpace n (writeEntry s e (off - e.base) (bs.take k)) (off + k) (bs.drop k)
/-- REGISTER_WRITE: a write of the PF to BAR 0. -/
def execRegisterWrite (off : Nat) (bytes : List Byte) (s : State) : Out := .next (writeSpace bytes.length s off bytes)

/-! Reads of the management space (22 R426, R427, R438). -/

/-- busy and status of a running command, at their bits. -/
def busyBits (b : Block8) : Nat := (if b.busy then 2 ^ 49 else 0) + b.status.toNat * 2 ^ 50
/-- A command block's bytes as read: its registers with busy and status; go reads 0. -/
def commandBytes (image : List Byte) (run : Block8) : List Byte :=
  toBytes 8 (leNat (image.take 8) + busyBits run) ++ image.drop 8
/-- The sensors as read (22 R438, Table 6). -/
def sensorBytes (x : Sensors) : List Byte :=
  (x.temps.map fun t => toBytes 2 t.toNat).flatten ++ toBytes 14 0 ++ toBytes 4 x.power.toNat ++ toBytes 4 x.vcore.toNat
    ++ toBytes 24 0 ++ toBytes 8 x.corrected.toNat ++ toBytes 8 x.poisoned.toNat ++ toBytes 48 0
    ++ (x.link.toList.map fun t => toBytes 8 t.toNat).flatten ++ (x.eth.toList.map fun t => toBytes 8 t.toNat).flatten
/-- The bytes of an entry as read: a write-only field and a reserved field read 0 (22 R426; 00_scope.md R10). -/
def entryBytes (s : State) (e : MEntry) : List Byte :=
  match e.block with
  | .identity =>
    toBytes 4 Config.revision.toNat ++ toBytes 4 (s.stage.toNat + (if s.fwFail then 4 else 0)) ++ toBytes 8 s.module.toNat
      ++ toBytes 24 s.coreOff.toNat ++ toBytes 8 s.fwVersion.toNat ++ toBytes 16 0
  | .bellows => toBytes 4 s.period.toNat
  | .crumhorn => toBytes 4 s.step.toNat
  | .iso => commandBytes ((isoImage s.isoReg).take 64 ++ toBytes 64 0) s.iso
  | .recovery => commandBytes (recImage s.recReg) s.rec_
  | .install => commandBytes (instImage 32 s.instReg) s.inst
  | .mailbox => commandBytes (instImage 64 s.mailReg) s.mail
  | .allowance => toBytes 4 (allowance s e.index)
  | .intMap => toBytes 4 (intEntry s e.index).toNat
  | .ranks => ((rankWords s e.index).map fun w => toBytes 4 w.toNat).flatten
  | .sensors => sensorBytes s.sensors
  | .context => toBytes 128 (s.ctx e.index).desc.toNat
  | .queue => toBytes 64 (s.queue e.index).desc.toNat
  | .transport => toBytes 32 ((mget s.transport e.index).getD 0#256).toNat
/-- A byte of BAR 0 as read; an offset that no block names reads 0 (22 R426). Stage 0 serves the identity block and the
mailbox only (R433): what another block reads as then is a free value. DESIGN CHOICE (log 108). -/
def readSpace (s : State) (off : Nat) : Byte :=
  match entryAt off with
  | some e =>
    if s.stage == 0#2 && e.block != .identity && e.block != .mailbox then Config.unservedByte off
    else ((entryBytes s e)[off - e.base]?).getD 0#8
  | none => 0#8

/-! The device reset (12 R288; 22 R427, R437, R438; log 18). -/

/-- A device reset: the machine of State.reset; what lies outside the module stays, as do signals sent and what the
outside has chosen. DEDUCED (log 18). -/
def resetDevice (s : State) : State :=
  let x := renumber s 0#12
  let away (a : Nat) : Bool := isHost a || (decide (a < 2 ^ 52) && moduleOf a != 0)
  { State.reset with
    mem := x.mem.filter fun c => away c.1
    poison := x.poison.filter fun h => away (16 * h)
    frames := x.frames.filter fun r => away (32768 * r.start)
    unreachable := x.unreachable, msi := x.msi, agenda := x.agenda, free := x.free, serial := x.serial
    choices := { x.choices with silent := false } }
/-- DEVICE_RESET. -/
def execDeviceReset (s : State) : Out := .next (resetDevice s)

end Sys2Proof.Machine
end

