-- ==== Sys2Proof/Machine/Fabric.lean ====
section
/-! DEFINITION. What arrives from outside a core: acceptance by full queues, requests of the host and of other modules, the
mesh's writes, lost modules, and errors of memories and links (03_memory_model.md R80, R97, R98, R101 to R103;
08_matrix_engine.md R236, R238; 19_faults_traps_preemption.md R398; 22_host_fabric_bringup.md R424, R430, R431, R438). -/

namespace Sys2Proof.Machine

/-! Instructions that wait for room (08 R236; 04 R119; 03 R103). -/

/-- The meaning of an instruction that enters an engine queue; every other instruction none. -/
def engineExec (i : Instr) (s : State) : Option Out :=
  match i with
  | .qfence g sc q => some (execQfence g sc q s)
  | .cpy g la o => some (execCpy g la o s)
  | .cpys g la o => some (execCpys g la o s)
  | .mclaim g n => some (execMclaim g n s)
  | .mld g o => some (execMld g o s)
  | .mldc g o => some (execMldc g o s)
  | .mst g o => some (execMst g o s)
  | .mzero g t w n => some (execMzero g t w n s)
  | .mma g o => some (execMma g o s)
  | .mtrn g o => some (execMtrn g o s)
  | .mprm g o => some (execMprm g o s)
  | .mred g o => some (execMred g o s)
  | .sighSrp g o => some (execSighSrp g o s)
  | .sighKey g o => some (execSighKey g o s)
  | .sigb g o => some (execSigb g o s)
  | .sigs g o => some (execSigs g o s)
  | .sigg g o => some (execSigg g o s)
  | .sigmap g o => some (execSigmap g o s)
  | _ => none
/-- Whether a thread waits for an engine queue, a slot or a buffer part. -/
def waitsForEngine (t : Thread) : Bool :=
  match t.status with
  | .stalled (.room ..) | .stalled (.groupRoom _) | .stalled .slot | .stalled (.metadata _) | .stalled (.markers ..) => true
  | _ => false
/-- What a meaning answers in the thread at a place, the thread that issues being as before. -/
def asPlace (s : State) (o : Out) : Out :=
  match o with
  | .next s1 => .next { s1 with cur := s.cur }
  | x => x
/-- ENGINE_QUEUE_ACCEPT: the instruction of a thread that waits for room is tried again (08 R236; 04 R119). -/
def execEngineQueueAccept (p : Nat) (s : State) : Out :=
  match s.thr p with
  | none => .next s
  | some t =>
    match waitsForEngine t, peek s p t with
    | true, some (_, _, i) =>
      match engineExec i { s with cur := p } with
      | some o => asPlace s o
      | none => .next s
    | _, _ => .next s
/-- ORDERED_ADD_ARRIVAL: the add of a thread that waits at a full window arrives again at its owner (03 R103). -/
def execOrderedAddArrival (p : Nat) (s : State) : Out :=
  match s.thr p with
  | none => .next s
  | some t =>
    match t.status, peek s p t with
    | .stalled (.window _), some (_, _, .aaddf g o) => asPlace s (execAaddf g o { s with cur := p })
    | _, _ => .next s

/-! The scoreboard and acknowledgements (02_encoding.md R73; 03 R98). -/

/-- LONG_LATENCY_COMPLETION: an instruction of a thread leaves its scoreboard, and its destinations are ready; with the
last one a thread whose trap waits for it parks (02 R75), its record produced before. DEDUCED (log 28). -/
def execLongLatencyCompletion (p k : Nat) (s : State) : Out :=
  match s.thr p with
  | none => .next s
  | some t =>
    let t1 := { t with board := t.board.filter (·.id != k) }
    .next (match t.status with
      | .stalled (.trap tr) => if t1.board.isEmpty then parkTrap s p t1 tr else s.setThr p t1
      | _ => s.setThr p t1)
/-- WRITE_ACKNOWLEDGEMENT: a write to another module is acknowledged by its owner. DEDUCED (log 43). -/
def execWriteAcknowledgement (k : Nat) (s : State) : Out := .next { s with unacked := s.unacked.filter (·.id != k) }

/-! Causal delivery (03 R97). -/

/-- A die's vector. -/
def dieVector (s : State) (d : Nat) : Vector Nat 8 := s.dies[d % 8]'(by omega)
/-- Whether a vector covers a stamp. -/
def vcovers (v w : Vector Nat 8) : Bool := (List.range 8).all fun k => decide ((w[k]?).getD 0 ≤ (v[k]?).getD 0)
/-- Whether writes ahead of one on the mesh touch its bytes. -/
def aheadOf (s : State) (w : MeshWrite) : Bool :=
  (s.mesh.takeWhile fun x => x.id != w.id).any fun x => rangesMeet x.loc x.bytes.length w.loc w.bytes.length
/-- What follows the last unit of a write: the poison of the halves the whole write covers is its own (19 R398), and an
element whose last unit it was lands and leaves its operation (04 R123). -/
def wholeDone (s : State) (w : MeshWrite) : State :=
  if s.mesh.any (·.whole.1 == w.whole.1) then s
  else
    let s1 := { s with poison := markWrite s.poison w.whole.2.1 w.whole.2.2 w.poison }
    match w.elem with
    | some (core, q, op, k) =>
      if s1.mesh.any (·.elem == w.elem) then s1
      else
        match findOp s1 core q op with
        | some e =>
          match e.kind with
          | .copy left pk =>
            match left.find? (·.1 == k) with
            | some (_, x) => takeElem (countLanding s1 w.ctx x) core q e left pk k
            | none => s1
          | _ => s1
        | none => s1
    | none => s1
/-- Whether the owner's check lets a unit of a write on the mesh pass (16 R365, R369). DESIGN CHOICE (log 109). -/
def unitAllowed (s : State) (w : MeshWrite) : Bool :=
  match w.key with
  | some k => mayStill s k w.loc
  | none => ctxMay s w.ctx w.loc
/-- A unit whose frame has been released is not performed but faults: its record is the copy engines', or the core's of the
thread that stored it (16 R369; 19 R397). With a copy's unit go the other units of its element, which does not land; that
of a packet fails the packet (14 R332). DESIGN CHOICE (log 109). -/
def refuseUnit (s : State) (w : MeshWrite) : State :=
  let key := w.key.getD w.ctx
  match w.elem with
  | none =>
    let s1 := { s with mesh := s.mesh.filter (·.id != w.id) }
    match w.place with
    | some p => refuseAt s1 (coreOf p) w.ctx key w.loc
    | none => s1
  | some (core, q, op, k) =>
    let s1 := { s with mesh := s.mesh.filter (·.elem != w.elem) }
    match findOp s1 core q op with
    | some e =>
      match e.kind with
      | .copy _ (some pk) => stopPacketCopies (failPacket s1 pk 6) pk
      | .copy left none => takeElem (refuseAt s1 (unitCopy core) w.ctx key w.loc) core q e left none k
      | _ => s1
    | none => s1
/-- CAUSAL_APPLY: a unit of a write held in the causal buffer of its owner's die is performed once the die covers its
stamp; writes of the same bytes keep their order. DEDUCED (log 41). -/
def execCausalApply (k : Nat) (s : State) : Out :=
  match s.mesh.find? (·.id == k) with
  | none => .next s
  | some w =>
    if aheadOf s w || !vcovers (dieVector s w.dest) w.stamp then .next s
    else if !unitAllowed s w then .next (countWrite (refuseUnit s w) w.die)
    else
      .next (wholeDone
        (countWrite (store { s with mesh := s.mesh.filter (·.id != k) } w.ctx w.loc w.bytes w.poison) w.die) w)

/-! Requests from outside the module (03 R80, R101, R102; 22 R430). -/

/-- The bytes a request concerns. -/
def reqSize : ReqKind → Nat
  | .read n => n
  | .write bs _ => bs.length
  | .add n _ | .swap n _ | .cas n _ _ | .atom _ _ n _ _ => n
  | .cell _ | .ordinit .. | .aaddf .. => 16
/-- What a request needs of a page. -/
def reqAccess : ReqKind → Access
  | .read _ => Access.load
  | .write .. => Access.store
  | _ => Access.both
/-- An atomic request performed as one step. -/
def atomRequest (s : State) (ctx loc : Nat) (op : AtomOp) (sgn : Bool) (n : Nat) (x c : DWord) : State :=
  if n == 0 || loc % n != 0 then s else (atomAt s ctx loc op sgn n (x.toNat % 2 ^ (8 * n)) (c.toNat % 2 ^ (8 * n))).1
/-- Whether a request is one of an ordered cell's own (03 R103). -/
def isOrdered : ReqKind → Bool
  | .ordinit .. | .aaddf .. => true
  | _ => false
/-- Bytes stored at located pieces; toward an unreachable module they are dropped with their record (22 R430). -/
def storeLocated (s : State) (ctx : Nat) : List (Nat × Nat) → List Byte → State
  | [], _ => s
  | l :: ls, bs => storeLocated (store s ctx l.1 (bs.take l.2)) ctx ls (bs.drop l.2)
/-- A request performed at located pieces: writes and atomics of a live ordered cell are not performed (03 R105). An add or
an ORDINIT is answered by the cell's owner as a thread's (03 R103); one that finds the window full comes again, and so does
an ORDINIT while a plain write of its cell is on the mesh (03 R105). DESIGN CHOICE (log 47). -/
def performRequest (s : State) (ctx : Nat) (l : List (Nat × Nat)) (q : ReqKind) : State :=
  if (reqAccess q).w && !isOrdered q && l.any (fun e => (liveAt s e.1 e.2).isSome) then s
  else
    let loc := (l.head?.map (·.1)).getD 0
    match q with
    | .read _ => s
    | .write bs _ => storeLocated s ctx l bs
    | .add n x => atomRequest s ctx loc .add false n x 0#64
    | .swap n x => atomRequest s ctx loc .exch false n x 0#64
    | .cas n x c => atomRequest s ctx loc .cas false n x c
    | .atom op sgn n x c => atomRequest s ctx loc op sgn n x c
    | .cell ev => if loc % 16 == 0 then cellRequest 1026 s ctx ev loc else s
    | .ordinit f64 n v =>
      if loc % 16 == 0 && !(s.mesh.any fun w => rangesMeet w.loc w.bytes.length loc 16) then (initOrdered s ctx loc f64 n (v.toNat % 2 ^ (if f64 then 64 else 32))).getD s else s
    | .aaddf f64 k n x =>
      match (if loc % 16 == 0 then arriveAdd s none false loc f64 k n x else .refused) with
      | .done s1 => s1
      | _ => s
/-- Whether a range of this module's DRAM is granted under a key that is loaded (16_contexts_translation.md R365, R367). -/
def remoteOk (s : State) (slot a n : Nat) : Bool :=
  decide (0 < n) && isDram s a && decide (a % 2 ^ 40 + n ≤ 0x6C00000000) && (mget s.keys slot).isSome &&
    (List.range ((a + n - 1) / 32768 - a / 32768 + 1)).all fun k => rget s.frames (a / 32768 + k) == some slot
/-- The bytes a request accesses here: of an event of a cell, each cell it reads (16 R377). -/
def reqPlaces (s : State) (ctx addr : Nat) (req : ReqKind) : List (Nat × Nat) :=
  match req with
  | .cell ev => (requestCells 1026 s ctx ev addr).map (·, 16)
  | _ => [(addr, reqSize req)]
/-- REMOTE_ACCESS, at stage 2 (22 R433): a request of another module is performed here after the owner check; one that
fails it performs nothing, and its fault is taken over there (16 R365; 22 R430). Its bytes are charged here to the requesting context; one
that the budget does not admit comes again (16 R377; 14_scheduling.md R348). DESIGN CHOICE (log 47). DEDUCED (log 91). -/
def execRemoteAccess (ctx key : Nat) (kx : Bool) (addr : Nat) (req : ReqKind) (s : State) : Out :=
  let l := reqPlaces s ctx addr req
  if s.stage != 2#2 || 4096 ≤ ctx || 4096 ≤ key || !remoteOk s (if kx then 4096 + key else ctx) addr (reqSize req)
      || !allFit s ctx l then .next s
  else .next (performRequest (chargeAll s ctx l) ctx [(addr, reqSize req)] req)
/-- The enabled context of least number under a PASID (log 19). -/
def pasidCtx (s : State) (pasid : Nat) : Option Nat :=
  (s.ctxs.find? fun e => ctxEnabled s e.1 && ctxPasid s e.1 == pasid).map (·.1)
/-- Whether a host may make a request: its atomics are of 4 or 8 bytes, aligned (03 R102). -/
def hostForm (addr : DWord) : ReqKind → Bool
  | .read _ | .write .. => true
  | .add n _ | .swap n _ | .cas n _ _ => (n == 4 || n == 8) && addr.toNat % n == 0
  | .atom .. | .cell _ | .ordinit .. | .aaddf .. => false
/-- HOST_REQUEST: a PCI Express request to device memory, under the context of its PASID (03 R101).
DEDUCED (log 19). -/
def execHostRequest (pasid : BitVec 20) (addr : DWord) (req : ReqKind) (s : State) : Out :=
  match pasidCtx s pasid.toNat with
  | none => .next s
  | some c =>
    match rankAll ((pagePieces addr (reqSize req)).map fun q =>
        (translate s 0 c q.1 (reqAccess req) false 1).bind fun pl => .ok (pl.loc, q.2)) with
    | .ok l => if !hostForm addr req || l.any (fun e => isHost e.1) then .next s else .next (performRequest s c l req)
    | _ => .next s

/-! Address translation of the host (22 R424). -/

/-- Whether a location lies in a range of host addresses of a PASID. -/
def inHostRange (pasid a n loc : Nat) : Bool := decide (hostLoc pasid a ≤ loc) && decide (loc < hostLoc pasid (a + n))
/-- Whether an access translated under a range of a PASID is still to be performed. -/
def hostUnderWay (s : State) (pasid a n : Nat) : Bool :=
  (List.range 144).any fun core => (List.range 8).any fun q => (queueAt s core q).any fun e =>
    match e.kind with
    | .marker _ => false
    | .copy left _ => left.any fun x => !x.2.late && (inHostRange pasid a n x.2.dst || inHostRange pasid a n x.2.src)
    | .eng op => op.locs.any (inHostRange pasid a n)
/-- ATS_INVALIDATION: it completes once every access translated under it is performed. -/
def execAtsInvalidation (pasid : BitVec 20) (addr : Nat) (size : Nat) (s : State) : Out :=
  if hostUnderWay s pasid.toNat addr size then .next s
  else
    .next { s with ats := s.ats.filter fun e => !(e.1 == pasid.toNat && rangesMeet (4096 * e.2) 4096 addr size) }
/-- PAGE_REQUEST_RESPONSE: with `ok` the translation is found, unless it is invalidated before the access is retried; any
other response makes the access take the translation-absence fault. DEDUCED (log 31). -/
def execPageRequestResponse (p : Nat) (ok : Bool) (s : State) : Out :=
  match s.thr p with
  | none => .next s
  | some t =>
    match t.status with
    | .stalled (.page pas pg) =>
      let t1 := { t with status := .ready s.cycle, pri := priCode pas pg (!ok) }
      .next (if ok && !s.ats.contains (pas, pg) then { s.setThr p t1 with ats := s.ats ++ [(pas, pg)] } else s.setThr p t1)
    | _ => .next s

/-! Lost modules (22 R430, R431). -/

/-- MODULE_UNREACHABLE: records held at the lost module, those that it forwards among them, or in transit toward it are lost
with their waits, and so are the live cells and the acknowledgements there; operations still to come meet the loss where they are performed. -/
def execModuleUnreachable (m : BitVec 12) (s : State) : Out :=
  if m == s.module || s.unreachable.contains m.toNat then .next s
  else
    let away (l : Nat) : Bool := decide (l < 2 ^ 52) && moduleOf l == m.toNat
    let lostW := s.cellWaiters.filter fun w => away w.loc
    let lost (f : Forward) : Bool := away f.src || ((forwardLoc s f).map away).getD false
    let lostF := s.forwards.filter fun f => lost f.2
    let s1 := { s with
      unreachable := s.unreachable ++ [m.toNat]
      cellWaiters := s.cellWaiters.filter fun w => !away w.loc
      forwards := s.forwards.filter fun f => !lost f.2
      ordered := s.ordered.filter fun c => !away c.loc
      unacked := s.unacked.filter fun u => u.dest != m.toNat }
    let s2 := lostW.foldl (fun s w => if w.module.isNone then loseWaiter s w.place w.team w.va else s) s1
    .next (lostF.foldl (fun s f => loseForward s f.2) s2)

/-! Errors (19 R398; 08 R238; 09 R267; 22 R430, R432, R438). -/

/-- Whether a team holds signature buffers on a core: it is placed, and the core lies in its rectangle or runs a thread of
it (08 R231; 09 R253). -/
def holdsBufs (s : State) (core k : Nat) : Bool :=
  match s.team k with
  | some tm => tm.saved.isNone && (inRect tm core || s.threads.any fun e => coreOf e.1 == core && e.2.team == k)
  | none => false
/-- An uncorrectable error poisons both halves of its sector, its slot line, its tile row or its buffer part. -/
def poisonSite (s : State) (site : EccSite) : State :=
  match site with
  | .sector a => { s with poison := setAdd (setAdd s.poison (a / 32 * 2)) (a / 32 * 2 + 1) }
  | .slot core phys line =>
    if 64 ≤ phys ∨ 32 ≤ line then s
    else s.setCore core { s.core core with slotP := setAdd (s.core core).slotP (phys * 32 + line) }
  | .tile core tile row =>
    if 2048 ≤ tile ∨ 32 ≤ row then s
    else s.setCore core { s.core core with tileP := setAdd (s.core core).tileP (tile * 32 + row) }
  | .sigKey core team kb =>
    if 4 ≤ kb || !holdsBufs s core team then s else setBuf s core { getBuf s core team kb with kpoison := 3 }
  | .sigMap core team kb =>
    if 4 ≤ kb || !holdsBufs s core team then s else setBuf s core { getBuf s core team kb with mpoison := 3 }
/-- ECC_ERROR: corrected and counted, or poisoned and counted. -/
def execEccError (site : EccSite) (correctable : Bool) (s : State) : Out :=
  if correctable then .next { s with sensors := { s.sensors with corrected := s.sensors.corrected + 1#64 } }
  else
    let s1 := poisonSite s site
    .next { s1 with sensors := { s1.sensors with poisoned := s1.sensors.poisoned + 1#64 } }
/-- A counter of a list of ports raised. -/
def bumpPort {n : Nat} (v : Vector DWord n) (k : Nat) : Vector DWord n :=
  if h : k < n then v.set k (v[k] + 1#64) h else v
/-- HOLTLINK_FLIT_RETRANSMIT: a flit is sent again, and counted (22 R430, R438). -/
def execHoltlinkFlitRetransmit (port : Nat) (s : State) : Out :=
  .next { s with sensors := { s.sensors with link := bumpPort s.sensors.link port } }
/-- ETHERNET_SECTOR_RETRANSMIT: a sector is sent again, and counted (22 R432, R438). -/
def execEthernetSectorRetransmit (port : Nat) (s : State) : Out :=
  .next { s with sensors := { s.sensors with eth := bumpPort s.sensors.eth port } }

end Sys2Proof.Machine
end

