-- ==== Sys2Proof/Machine/Dispatch.lean ====
section
/-! DEFINITION. What each instruction and each step of the device does: one call of its meaning for each constructor. -/

namespace Sys2Proof.Machine

/-- The meaning of an instruction or a step of the device. -/
def exec (i : Instr) (s : State) : Host.Outcome State Fault Refusal :=
  match i with
  | .nopShort g => Sys2Proof.Machine.execNopShort g s
  | .braShort g d => Sys2Proof.Machine.execBraShort g d s
  | .callShort g d => Sys2Proof.Machine.execCallShort g d s
  | .retShort g => Sys2Proof.Machine.execRetShort g s
  | .exitShort g => Sys2Proof.Machine.execExitShort g s
  | .movShort g o => Sys2Proof.Machine.execMovShort g o s
  | .iaddShort g o => Sys2Proof.Machine.execIaddShort g o s
  | .isubShort g o => Sys2Proof.Machine.execIsubShort g o s
  | .imulShort g o => Sys2Proof.Machine.execImulShort g o s
  | .andShort g o => Sys2Proof.Machine.execAndShort g o s
  | .orShort g o => Sys2Proof.Machine.execOrShort g o s
  | .xorShort g o => Sys2Proof.Machine.execXorShort g o s
  | .shlShort g o => Sys2Proof.Machine.execShlShort g o s
  | .shrShort g o => Sys2Proof.Machine.execShrShort g o s
  | .sarShort g o => Sys2Proof.Machine.execSarShort g o s
  | .iminShort g o => Sys2Proof.Machine.execIminShort g o s
  | .imaxShort g o => Sys2Proof.Machine.execImaxShort g o s
  | .faddShort g o => Sys2Proof.Machine.execFaddShort g o s
  | .fsubShort g o => Sys2Proof.Machine.execFsubShort g o s
  | .fmulShort g o => Sys2Proof.Machine.execFmulShort g o s
  | .ffmaShort g o => Sys2Proof.Machine.execFfmaShort g o s
  | .fminShort g o => Sys2Proof.Machine.execFminShort g o s
  | .fmaxShort g o => Sys2Proof.Machine.execFmaxShort g o s
  | .pandShort g d a b => Sys2Proof.Machine.execPandShort g d a b s
  | .porShort g d a b => Sys2Proof.Machine.execPorShort g d a b s
  | .pxorShort g d a b => Sys2Proof.Machine.execPxorShort g d a b s
  | .pnotShort g d a => Sys2Proof.Machine.execPnotShort g d a s
  | .pmovShort g d a => Sys2Proof.Machine.execPmovShort g d a s
  | .retiredOpcodeShort g w => Sys2Proof.Machine.execRetiredOpcodeShort g w s
  | .retiredOpcode g w => Sys2Proof.Machine.execRetiredOpcode g w s
  | .reservedEncoding g why w => Sys2Proof.Machine.execReservedEncoding g why w s
  | .nop g => Sys2Proof.Machine.execNop g s
  | .bra g d => Sys2Proof.Machine.execBra g d s
  | .brc g o => Sys2Proof.Machine.execBrc g o s
  | .brx g a => Sys2Proof.Machine.execBrx g a s
  | .call g d => Sys2Proof.Machine.execCall g d s
  | .callx g a => Sys2Proof.Machine.execCallx g a s
  | .ret g => Sys2Proof.Machine.execRet g s
  | .exit g => Sys2Proof.Machine.execExit g s
  | .pand g o => Sys2Proof.Machine.execPand g o s
  | .por g o => Sys2Proof.Machine.execPor g o s
  | .pxor g o => Sys2Proof.Machine.execPxor g o s
  | .pnot g o => Sys2Proof.Machine.execPnot g o s
  | .pmov g o => Sys2Proof.Machine.execPmov g o s
  | .ppack g d => Sys2Proof.Machine.execPpack g d s
  | .punpk g a => Sys2Proof.Machine.execPunpk g a s
  | .sel g o => Sys2Proof.Machine.execSel g o s
  | .iadd g sat o => Sys2Proof.Machine.execIadd g sat o s
  | .isub g sat o => Sys2Proof.Machine.execIsub g sat o s
  | .imul g o => Sys2Proof.Machine.execImul g o s
  | .imulh g o => Sys2Proof.Machine.execImulh g o s
  | .imad g o => Sys2Proof.Machine.execImad g o s
  | .idiv g la o => Sys2Proof.Machine.execIdiv g la o s
  | .irem g la o => Sys2Proof.Machine.execIrem g la o s
  | .imin g o => Sys2Proof.Machine.execImin g o s
  | .imax g o => Sys2Proof.Machine.execImax g o s
  | .iabs g o => Sys2Proof.Machine.execIabs g o s
  | .ineg g o => Sys2Proof.Machine.execIneg g o s
  | .iset g o => Sys2Proof.Machine.execIset g o s
  | .lea g o => Sys2Proof.Machine.execLea g o s
  | .add64 g o => Sys2Proof.Machine.execAdd64 g o s
  | .sub64 g o => Sys2Proof.Machine.execSub64 g o s
  | .mul64 g o => Sys2Proof.Machine.execMul64 g o s
  | .and g o => Sys2Proof.Machine.execAnd g o s
  | .or g o => Sys2Proof.Machine.execOr g o s
  | .xor g o => Sys2Proof.Machine.execXor g o s
  | .not g o => Sys2Proof.Machine.execNot g o s
  | .shl g o => Sys2Proof.Machine.execShl g o s
  | .shr g o => Sys2Proof.Machine.execShr g o s
  | .sar g o => Sys2Proof.Machine.execSar g o s
  | .rol g o => Sys2Proof.Machine.execRol g o s
  | .bfx g o => Sys2Proof.Machine.execBfx g o s
  | .bfi g o => Sys2Proof.Machine.execBfi g o s
  | .popc g o => Sys2Proof.Machine.execPopc g o s
  | .clz g o => Sys2Proof.Machine.execClz g o s
  | .ctz g o => Sys2Proof.Machine.execCtz g o s
  | .brev g o => Sys2Proof.Machine.execBrev g o s
  | .mov g o => Sys2Proof.Machine.execMov g o s
  | .movi g o => Sys2Proof.Machine.execMovi g o s
  | .lit g d x => Sys2Proof.Machine.execLit g d x s
  | .movs g o => Sys2Proof.Machine.execMovs g o s
  | .gets g d r => Sys2Proof.Machine.execGets g d r s
  | .sets g r a => Sys2Proof.Machine.execSets g r a s
  | .rngd g la o => Sys2Proof.Machine.execRngd g la o s
  | .rngs g a b => Sys2Proof.Machine.execRngs g a b s
  | .bxq g la o => Sys2Proof.Machine.execBxq g la o s
  | .bxd g o => Sys2Proof.Machine.execBxd g o s
  | .bxex g o => Sys2Proof.Machine.execBxex g o s
  | .fadd g o => Sys2Proof.Machine.execFadd g o s
  | .fsub g o => Sys2Proof.Machine.execFsub g o s
  | .fmul g o => Sys2Proof.Machine.execFmul g o s
  | .ffma g o => Sys2Proof.Machine.execFfma g o s
  | .fmin g o => Sys2Proof.Machine.execFmin g o s
  | .fmax g o => Sys2Proof.Machine.execFmax g o s
  | .fset g o => Sys2Proof.Machine.execFset g o s
  | .fclass g o => Sys2Proof.Machine.execFclass g o s
  | .fcvt g o => Sys2Proof.Machine.execFcvt g o s
  | .ftoi g o => Sys2Proof.Machine.execFtoi g o s
  | .itof g o => Sys2Proof.Machine.execItof g o s
  | .frnd g o => Sys2Proof.Machine.execFrnd g o s
  | .fdiv g la o => Sys2Proof.Machine.execFdiv g la o s
  | .fsqrt g la o => Sys2Proof.Machine.execFsqrt g la o s
  | .frcp g la o => Sys2Proof.Machine.execFrcp g la o s
  | .frsq g la o => Sys2Proof.Machine.execFrsq g la o s
  | .fexp2 g la o => Sys2Proof.Machine.execFexp2 g la o s
  | .flog2 g la o => Sys2Proof.Machine.execFlog2 g la o s
  | .fsin g la o => Sys2Proof.Machine.execFsin g la o s
  | .fcos g la o => Sys2Proof.Machine.execFcos g la o s
  | .ftanh g la o => Sys2Proof.Machine.execFtanh g la o s
  | .shfl g la o => Sys2Proof.Machine.execShfl g la o s
  | .vote g mode d a => Sys2Proof.Machine.execVote g mode d a s
  | .ballot g d a => Sys2Proof.Machine.execBallot g d a s
  | .lred g la o => Sys2Proof.Machine.execLred g la o s
  | .lscan g la o => Sys2Proof.Machine.execLscan g la o s
  | .elect g d => Sys2Proof.Machine.execElect g d s
  | .readl g la o => Sys2Proof.Machine.execReadl g la o s
  | .ld g la o => Sys2Proof.Machine.execLd g la o s
  | .st g o => Sys2Proof.Machine.execSt g o s
  | .atom g la o => Sys2Proof.Machine.execAtom g la o s
  | .ordinit g o => Sys2Proof.Machine.execOrdinit g o s
  | .aaddf g o => Sys2Proof.Machine.execAaddf g o s
  | .fence g ord scope => Sys2Proof.Machine.execFence g ord scope s
  | .qfence g scope queues => Sys2Proof.Machine.execQfence g scope queues s
  | .pref g scope icache m => Sys2Proof.Machine.execPref g scope icache m s
  | .cpy g la o => Sys2Proof.Machine.execCpy g la o s
  | .cpys g la o => Sys2Proof.Machine.execCpys g la o s
  | .sleepto g o => Sys2Proof.Machine.execSleepto g o s
  | .srput g scope ring a => Sys2Proof.Machine.execSrput g scope ring a s
  | .srget g la scope ring d => Sys2Proof.Machine.execSrget g la scope ring d s
  | .tbinit g o => Sys2Proof.Machine.execTbinit g o s
  | .tbexp g o => Sys2Proof.Machine.execTbexp g o s
  | .tbarr g o => Sys2Proof.Machine.execTbarr g o s
  | .tbwait g o => Sys2Proof.Machine.execTbwait g o s
  | .tbtest g la q o => Sys2Proof.Machine.execTbtest g la q o s
  | .cinit g o => Sys2Proof.Machine.execCinit g o s
  | .cinitCount g o => Sys2Proof.Machine.execCinitCount g o s
  | .cfill g o => Sys2Proof.Machine.execCfill g o s
  | .cfillCnt g o => Sys2Proof.Machine.execCfillCnt g o s
  | .cwait g o => Sys2Proof.Machine.execCwait g o s
  | .cequ g o => Sys2Proof.Machine.execCequ g o s
  | .ctest g la q o => Sys2Proof.Machine.execCtest g la q o s
  | .cpeek g la o => Sys2Proof.Machine.execCpeek g la o s
  | .mclaim g slot => Sys2Proof.Machine.execMclaim g slot s
  | .mrel g slot => Sys2Proof.Machine.execMrel g slot s
  | .mld g o => Sys2Proof.Machine.execMld g o s
  | .mldc g o => Sys2Proof.Machine.execMldc g o s
  | .mst g o => Sys2Proof.Machine.execMst g o s
  | .mzero g t acc64 tile => Sys2Proof.Machine.execMzero g t acc64 tile s
  | .mma g o => Sys2Proof.Machine.execMma g o s
  | .mtrn g o => Sys2Proof.Machine.execMtrn g o s
  | .mprm g o => Sys2Proof.Machine.execMprm g o s
  | .mred g o => Sys2Proof.Machine.execMred g o s
  | .mwait g d t => Sys2Proof.Machine.execMwait g d t s
  | .mtest g d t => Sys2Proof.Machine.execMtest g d t s
  | .sighSrp g o => Sys2Proof.Machine.execSighSrp g o s
  | .sighKey g o => Sys2Proof.Machine.execSighKey g o s
  | .sigb g o => Sys2Proof.Machine.execSigb g o s
  | .sigs g o => Sys2Proof.Machine.execSigs g o s
  | .sigg g o => Sys2Proof.Machine.execSigg g o s
  | .sigmap g o => Sys2Proof.Machine.execSigmap g o s
  | .fork g o => Sys2Proof.Machine.execFork g o s
  | .forkr g o => Sys2Proof.Machine.execForkr g o s
  | .iter g q d => Sys2Proof.Machine.execIter g q d s
  | .join g => Sys2Proof.Machine.execJoin g s
  | .joinr g => Sys2Proof.Machine.execJoinr g s
  | .fdrop g q => Sys2Proof.Machine.execFdrop g q s
  | .fdepth g d => Sys2Proof.Machine.execFdepth g d s
  | .bind g w => Sys2Proof.Machine.execBind g w s
  | .unbind g => Sys2Proof.Machine.execUnbind g s
  | .reconv g => Sys2Proof.Machine.execReconv g s
  | .yield g beat => Sys2Proof.Machine.execYield g beat s
  | .acquire g => Sys2Proof.Machine.execAcquire g s
  | .spawn g o => Sys2Proof.Machine.execSpawn g o s
  | .tdone g a v => Sys2Proof.Machine.execTdone g a v s
  | .tdoneR g => Sys2Proof.Machine.execTdoneR g s
  | .wlpush g o => Sys2Proof.Machine.execWlpush g o s
  | .wlpop g la o => Sys2Proof.Machine.execWlpop g la o s
  | .wlins g o => Sys2Proof.Machine.execWlins g o s
  | .wlcnt g la o => Sys2Proof.Machine.execWlcnt g la o s
  | .trap g code => Sys2Proof.Machine.execTrap g code s
  | .region g tag => Sys2Proof.Machine.execRegion g tag s
  | .bkpt g imm => Sys2Proof.Machine.execBkpt g imm s
  | .emuret g => Sys2Proof.Machine.execEmuret g s
  | .sleeptoExpiry p => Sys2Proof.Machine.execSleeptoExpiry p s
  | .reconvTimeout core bank pc => Sys2Proof.Machine.execReconvTimeout core bank pc s
  | .copyLanding core q op sector => Sys2Proof.Machine.execCopyLanding core q op sector s
  | .engineQueueAccept p => Sys2Proof.Machine.execEngineQueueAccept p s
  | .tileOpStart core q => Sys2Proof.Machine.execTileOpStart core q s
  | .tileOpComplete core q op => Sys2Proof.Machine.execTileOpComplete core q op s
  | .sigOpStart core => Sys2Proof.Machine.execSigOpStart core s
  | .sigOpComplete core => Sys2Proof.Machine.execSigOpComplete core s
  | .orderedAddArrival p => Sys2Proof.Machine.execOrderedAddArrival p s
  | .walkStep k => Sys2Proof.Machine.execWalkStep k s
  | .walkReply k => Sys2Proof.Machine.execWalkReply k s
  | .fillEvent k => Sys2Proof.Machine.execFillEvent k s
  | .countEvent k => Sys2Proof.Machine.execCountEvent k s
  | .linkEvent k => Sys2Proof.Machine.execLinkEvent k s
  | .waitEvent k => Sys2Proof.Machine.execWaitEvent k s
  | .queryEvent k => Sys2Proof.Machine.execQueryEvent k s
  | .initEvent k => Sys2Proof.Machine.execInitEvent k s
  | .waiterRecordForward k => Sys2Proof.Machine.execWaiterRecordForward k s
  | .causalApply k => Sys2Proof.Machine.execCausalApply k s
  | .beat => Sys2Proof.Machine.execBeat s
  | .laneLend p => Sys2Proof.Machine.execLaneLend p s
  | .packetLookahead q => Sys2Proof.Machine.execPacketLookahead q s
  | .launchPacket q => Sys2Proof.Machine.execLaunchPacket q s
  | .tasksPacket q => Sys2Proof.Machine.execTasksPacket q s
  | .callbufPacket q => Sys2Proof.Machine.execCallbufPacket q s
  | .joinPacket q => Sys2Proof.Machine.execJoinPacket q s
  | .qfencePacket q => Sys2Proof.Machine.execQfencePacket q s
  | .signalPacket q => Sys2Proof.Machine.execSignalPacket q s
  | .waitPacket q => Sys2Proof.Machine.execWaitPacket q s
  | .copyPacket q => Sys2Proof.Machine.execCopyPacket q s
  | .teamPlacement => Sys2Proof.Machine.execTeamPlacement s
  | .gangStart team gang => Sys2Proof.Machine.execGangStart team gang s
  | .teamEnd team => Sys2Proof.Machine.execTeamEnd team s
  | .packetCompletion k => Sys2Proof.Machine.execPacketCompletion k s
  | .teamSwapOut team => Sys2Proof.Machine.execTeamSwapOut team s
  | .teamResume team => Sys2Proof.Machine.execTeamResume team s
  | .faultRecordWrite k => Sys2Proof.Machine.execFaultRecordWrite k s
  | .inval => Sys2Proof.Machine.execInval s
  | .grant => Sys2Proof.Machine.execGrant s
  | .release => Sys2Proof.Machine.execRelease s
  | .keyload => Sys2Proof.Machine.execKeyload s
  | .keyclear => Sys2Proof.Machine.execKeyclear s
  | .resume => Sys2Proof.Machine.execResume s
  | .resumeall => Sys2Proof.Machine.execResumeall s
  | .preempt => Sys2Proof.Machine.execPreempt s
  | .restart => Sys2Proof.Machine.execRestart s
  | .reset => Sys2Proof.Machine.execReset s
  | .preemptDrained c => Sys2Proof.Machine.execPreemptDrained c s
  | .preemptDeadline c => Sys2Proof.Machine.execPreemptDeadline c s
  | .certify => Sys2Proof.Machine.execCertify s
  | .fwload => Sys2Proof.Machine.execFwload s
  | .transportAck core op sector => Sys2Proof.Machine.execTransportAck core op sector s
  | .longLatencyCompletion p k => Sys2Proof.Machine.execLongLatencyCompletion p k s
  | .writeAcknowledgement k => Sys2Proof.Machine.execWriteAcknowledgement k s
  | .copyOperationStart core q => Sys2Proof.Machine.execCopyOperationStart core q s
  | .waitPacketQueryAttempt q => Sys2Proof.Machine.execWaitPacketQueryAttempt q s
  | .remoteAccess ctx key kx addr req => Sys2Proof.Machine.execRemoteAccess ctx key kx addr req s
  | .hostRequest pasid addr req => Sys2Proof.Machine.execHostRequest pasid addr req s
  | .atsInvalidation pasid addr size => Sys2Proof.Machine.execAtsInvalidation pasid addr size s
  | .pageRequestResponse p ok => Sys2Proof.Machine.execPageRequestResponse p ok s
  | .doorbell fn off value => Sys2Proof.Machine.execDoorbell fn off value s
  | .queueEnable q desc => Sys2Proof.Machine.execQueueEnable q desc s
  | .queueRecovery q desc => Sys2Proof.Machine.execQueueRecovery q desc s
  | .contextEnable c => Sys2Proof.Machine.execContextEnable c s
  | .contextDisable c => Sys2Proof.Machine.execContextDisable c s
  | .partitionWrite c bits => Sys2Proof.Machine.execPartitionWrite c bits s
  | .forcedReset c => Sys2Proof.Machine.execForcedReset c s
  | .bellowsWrite v => Sys2Proof.Machine.execBellowsWrite v s
  | .moduleWrite v => Sys2Proof.Machine.execModuleWrite v s
  | .interruptMapWrite c v => Sys2Proof.Machine.execInterruptMapWrite c v s
  | .registerWrite off bytes => Sys2Proof.Machine.execRegisterWrite off bytes s
  | .dramTrainingDone failed => Sys2Proof.Machine.execDramTrainingDone failed s
  | .deviceReset => Sys2Proof.Machine.execDeviceReset s
  | .thermalThrottle r => Sys2Proof.Machine.execThermalThrottle r s
  | .thermalShutdown r => Sys2Proof.Machine.execThermalShutdown r s
  | .thermalRecovery r => Sys2Proof.Machine.execThermalRecovery r s
  | .moduleUnreachable m => Sys2Proof.Machine.execModuleUnreachable m s
  | .transportFailed core op sector => Sys2Proof.Machine.execTransportFailed core op sector s
  | .eccError site correctable => Sys2Proof.Machine.execEccError site correctable s
  | .thermalThrottleEnd r => Sys2Proof.Machine.execThermalThrottleEnd r s
  | .holtlinkFlitRetransmit port => Sys2Proof.Machine.execHoltlinkFlitRetransmit port s
  | .ethernetSectorRetransmit port => Sys2Proof.Machine.execEthernetSectorRetransmit port s
  | .dramChannelCheckDone failed => Sys2Proof.Machine.execDramChannelCheckDone failed s

end Sys2Proof.Machine
end

