-- ==== Sys2Proof/Machine/Issue.lean ====
section
/-! DEFINITION. Which threads issue and when, and which of the device's own steps come next (02_encoding.md R73 to R75;
03_memory_model.md R84 to R98; 12_execution_model.md R276 to R278, R286; 14_scheduling.md R347, R348; log 1). -/

namespace Sys2Proof.Machine

/-! What an instruction waits for before it issues. -/

/-- Whether an access at a scope counts as a release: at .th no order goes beyond the thread's own (03 R84, R85). -/
def isRelease (o : Order) (sc : Scope) : Bool :=
  sc != .th && match o with
    | .rel | .acqrel | .sc => true
    | _ => false
/-- Whether a scope leaves the module (03 R98). -/
def leavesModule : Scope → Bool
  | .dom | .sys => true
  | _ => false
/-- Whether a join of the newest frame runs it inline, and so orders nothing (13 R305, R306, R319). -/
def runsInline (s : State) (t : Thread) : Bool :=
  match newest s t with
  | some f => if f.range then decide (f.lo.toInt < f.hi.toInt) else !f.promoted
  | none => false
/-- The scope at which an instruction is a release or a fence of its thread's earlier writes (03 R82, R85, R99, R100;
04 R121, Table 4; 05 R148, Table 3; 13 R319, Table 3). DEDUCED (log 40). -/
def releaseScope (s : State) (t : Thread) : Instr → Option Scope
  | .ld _ _ o => if isRelease o.ord o.scope then some o.scope else none
  | .st _ o => if isRelease o.ord o.scope then some o.scope else none
  | .atom _ _ o => if isRelease o.ord o.scope then some o.scope else none
  | .aaddf _ o => if isRelease o.ord o.scope then some o.scope else none
  | .ordinit _ o => if isRelease .rel o.scope then some o.scope else none
  | .fence _ o sc => if isRelease o sc then some sc else none
  | .tbarr _ o | .cfill _ o | .cfillCnt _ o | .cequ _ o => if isRelease .rel o.scope then some o.scope else none
  | .srput _ sc _ _ => if isRelease .rel sc then some sc else none
  | .fork .. | .forkr .. => some .team
  | .tdone .. | .tdoneR .. => some .sys
  | .joinr .. => if runsInline s t then none else some .team
  | .exitShort .. | .exit .. => if runsInline s t then none else some .sys
  | .bind .. | .unbind .. => some .bnd
  | .spawn .. | .wlpush .. | .wlins .. => some .dev
  | .trap .. | .bkpt .. => some .team
  | _ => none
/-- Engine operations, which enter their queues once the earlier stores to what they read or write are performed (03 R96);
this model has them wait for every store of their thread. DEDUCED (log 40). -/
def entersAfterWrites : Instr → Bool
  | .cpy .. | .cpys .. | .mld .. | .mldc .. | .mst .. | .sigb .. | .sigmap .. => true
  | _ => false
/-- Instructions that may park their thread: at such a point nothing it has issued is incomplete (02 R75). -/
def mayPark : Instr → Bool
  | .cwait .. | .tbwait .. | .sleepto .. | .mwait .. | .join .. | .joinr .. | .exitShort .. | .exit .. | .tdone ..
  | .tdoneR .. | .trap .. | .bkpt .. => true
  | .yield _ b => b
  | _ => false
/-- Instructions that write memory, or have a unit write it for their thread (03 R86, note 1). -/
def writesMemory : Instr → Bool
  | .st .. | .atom .. | .ordinit .. | .aaddf .. | .tbinit .. | .tbexp .. | .tbarr .. | .cinit .. | .cinitCount .. | .cfill ..
  | .cfillCnt .. | .cequ .. | .srput .. | .wlpush .. | .wlins .. | .wlpop .. | .spawn .. | .fork .. | .forkr .. | .join ..
  | .joinr .. | .exitShort .. | .exit .. | .tdone .. | .tdoneR .. | .retiredOpcode .. | .retiredOpcodeShort .. => true
  | _ => false
/-- Instructions of rows 0x50 to 0x58 and the .f64 forms of FADD, FSUB, FMUL and FFMA: an issue group of them debits
1 nJ (14 R347, Table 13). -/
def debitsEnergy : Instr → Bool
  | .fdiv .. | .fsqrt .. | .frcp .. | .frsq .. | .fexp2 .. | .flog2 .. | .fsin .. | .fcos .. | .ftanh .. => true
  | .fadd _ o | .fsub _ o | .fmul _ o => o.fmt == .f64
  | .ffma _ o => o.fmt == .f64
  | _ => false
/-- The bytes an instruction of a thread accesses at the addresses it names: space, address and size. -/
def accessesOf (s : State) (t : Thread) : Instr → List (Bool × DWord × Nat)
  | .ld _ _ o => [(o.m.win, memEa s t o.m, Legal.iwidth o.fmt / 8)]
  | .st _ o => [(o.m.win, memEa s t o.m, Legal.iwidth o.fmt / 8)]
  | .atom _ _ o => [(o.m.win, memEa s t o.m, Legal.iwidth o.fmt / 8)]
  | .ordinit _ o | .aaddf _ o => [(o.m.win, memEa s t o.m, 16)]
  | .sleepto _ o | .tbinit _ o | .tbexp _ o | .tbarr _ o | .tbwait _ o | .cinit _ o | .cinitCount _ o | .cfill _ o
  | .cfillCnt _ o | .cwait _ o => [(o.m.win, memEa s t o.m, 16)]
  | .tbtest _ _ _ o => [(o.m.win, memEa s t o.m, 16)]
  | .ctest _ _ _ o => [(o.m.win, memEa s t o.m, 16)]
  | .cpeek _ _ o => [(o.m.win, memEa s t o.m, 16)]
  | .cequ _ o => [(o.m.win, memEa s t o.m, 16), (false, t.rv64 o.b, 16)]
  | .wlpush _ o | .wlins _ o => [(false, upairVal s t o.a, 64)]
  | .wlpop _ _ o => [(false, upairVal s t o.a, 64)]
  | .wlcnt _ _ o => [(false, upairVal s t o.a, 64)]
  | .spawn _ o => [(false, upairVal s t o.a, 64)]
  | .emuret _ => [(false, t.sp, 64)]
  | .retiredOpcode .. | .retiredOpcodeShort .. =>
    if t.emu.isSome || cfield s (ctxOf s t) 704 57 == 0 || decide (t.sp.toNat < t.stklim.toNat + 64) then []
    else [(false, t.sp - 64#64, 64)]
  | _ => []
/-- Those of an active thread. -/
def accesses (s : State) (t : Thread) (i : Instr) (g : Guard) : List (Bool × DWord × Nat) :=
  if active g t then accessesOf s t i else []
/-- Where those bytes lie. -/
def memTargets (s : State) (p : Nat) (t : Thread) (i : Instr) (g : Guard) : List (Nat × Nat) :=
  (accesses s t i g).flatMap fun a =>
    match locateRange s p t a.1 a.2.1 a.2.2 Access.none with
    | .ok l => l
    | _ => []
/-- Whether an instruction's meaning charges the bytes it accesses. -/
def chargesItself : Instr → Bool
  | .ld .. | .st .. | .atom .. | .ordinit .. | .aaddf .. | .cinit .. | .cinitCount .. | .cfill .. | .cfillCnt .. | .cwait ..
  | .cequ .. | .ctest .. | .cpeek .. | .retiredOpcode .. | .retiredOpcodeShort .. => true
  | _ => false
/-- The entry that a join of the newest frame goes on at, where it runs inline (13 R305, R306). -/
def inlineLine (s : State) (t : Thread) : List DWord :=
  match newest s t with
  | some f => if runsInline s t then [f.entry.setWidth 64] else []
  | none => []
/-- The join cell that a join of the newest frame sends its message to, where it does not. -/
def joinPage (s : State) (t : Thread) : List DWord :=
  match newest s t with
  | some f => if runsInline s t then [] else [f.join]
  | none => []
/-- The addresses whose lines an instruction of a thread reads to check them as targets (02 R68), but those of its own line,
which its fetch has read. -/
def targetsOf (s : State) (p : Nat) (t : Thread) (i : Instr) : List DWord :=
  (match i with
    | .braShort _ d | .callShort _ d => [dispTarget t (d.signExtend 64)]
    | .bra _ d | .call _ d => [dispTarget t (Disp.val d)]
    | .brx _ a | .callx _ a => [srcDWord s t a]
    | .retShort _ | .ret _ => [t.ln]
    | .brc _ o => if (brcTaken o t).1 then [dispTarget t (DispC.val o.disp)] else []
    | .fork .. | .forkr .. | .region .. => [nextOf i t]
    | .tdone .. => if t.ln == 0#64 then [] else [t.ln]
    | .tdoneR .. => if t.ln == 0#64 then inlineLine s t else [t.ln]
    | .join .. | .joinr .. | .exitShort .. | .exit .. => inlineLine s t
    | .emuret _ => match locateRange s p t false t.sp 64 Access.load with
      | .ok l => [emuTarget (readPieces s l)]
      | _ => []
    | _ => []).filter fun a => a.toNat / 64 != t.pc.toNat / 64
/-- What fetching a line costs, with its walk. DEDUCED (log 91). -/
def lineCost (s : State) (core ctx : Nat) (pc : DWord) : List (Nat × Nat) := walkCost s core ctx pc ++ fetchCost s core ctx pc
/-- One address in each page that some addresses lie in. -/
def onePerPage (l : List DWord) : List DWord :=
  ((l.map fun a => a.toNat / 32768).eraseDups).map fun k => BitVec.ofNat 64 (32768 * k)
/-- The pages that an instruction of a thread translates beside those of `accessesOf`: the operands of a copy, the rows of a
matrix transfer in its group's position 0, a join cell, and a work list's slots and filter (16 R358). -/
def pagesOf (s : State) (p : Nat) (t : Thread) (i : Instr) : List DWord :=
  let rows (a stride : VReg) (n : Nat) : List DWord :=
    if (groupMembers s t).any fun ps => ps.head? == some p then rowSectors (t.rv64 a) (t.rv stride) n else []
  let head (va : DWord) (f : WlHead → List DWord) : List DWord := match locateHead s p t va with
    | .ok h => f h
    | _ => []
  onePerPage (match i with
    | .cpy _ _ o => (if o.m.win then [] else [memEa s t o.m]) ++ if o.swin then [] else [t.rv64 o.src]
    | .cpys _ _ o =>
      (if o.m.win then [] else sectorAddrs (memEa s t o.m) (rectOf t o.c).dstStep false (rectOf t o.c)) ++
        sectorAddrs (t.rv64 o.src) (rectOf t o.c).srcStep false (rectOf t o.c)
    | .mld _ o => rows o.a o.stride 256
    | .mldc _ o | .mst _ o => rows o.a o.stride (rowBytes o.fmt)
    | .fork _ o => [upairVal s t o.join]
    | .forkr _ o => [upairVal s t o.join]
    | .tdone _ a _ => [upairVal s t a]
    | .join .. | .joinr .. | .exitShort .. | .exit .. => joinPage s t
    | .tdoneR .. => if t.ln == 0#64 then joinPage s t else []
    | .wlpush _ o => head (upairVal s t o.a) fun h => [posVa h h.tail]
    | .wlins _ o => head (upairVal s t o.a) fun h =>
        (if h.flog2 == 0 then [] else [filterVa h (t.rv o.b)]) ++ [posVa h h.tail]
    | .wlpop _ _ o => head (upairVal s t o.a) fun h =>
        if (onChip s (coreOf p) t.team h.va).isEmpty && h.head != h.tail then
          (List.range (refillCount s (coreOf p))).map fun k => posVa h (h.head + k)
        else []
    | _ => [])
/-- Every address that an instruction of an active thread has translated on its core, one in each page.
DEDUCED (log 91). -/
def walksOf (s : State) (p : Nat) (t : Thread) (i : Instr) (g : Guard) : List DWord :=
  ((accesses s t i g).flatMap fun a => if a.1 then [] else (pagePieces a.2.1 a.2.2).map (·.1)) ++
    if active g t then pagesOf s p t i else []
/-- The bytes that an instruction's meaning accesses beside those: SPAWN's template and slots, a frame written or read, a
join cell, a work list's slots and filter (14 R348). Its meaning charges them. DEDUCED (log 91). -/
def extraCost (s : State) (p : Nat) (t : Thread) (i : Instr) : List (Nat × Nat) :=
  let core := coreOf p
  let ctx := ctxOf s t
  let pushed (x : Push) : List (Nat × Nat) := match x with
    | .spill loc => [(loc, 8)]
    | _ => []
  match i with
  | .spawn _ o =>
    if spawnQueue s t 0#64 (t.rv o.b).toNat == .ok () then spawnPlaces s ctx (t.rv o.b).toNat else []
  | .fork _ o => devPieces s ctx (upairVal s t o.join).toNat 16 ++ if fsp t == 64 then [] else pushPlaces s p t
  | .forkr _ o => if fsp t == 64 then [] else devPieces s ctx (upairVal s t o.join).toNat 16 ++ pushPlaces s p t
  | .iter .. =>
    match iterFrame s t with
    | some (k, _) => if k < t.spilled.length then framePlaces s t k 1 else []
    | none => []
  | .join .. | .joinr .. | .exitShort .. | .exit .. | .fdrop .. | .tdoneR .. =>
    if fsp t == 0 then [] else framesRead s t (popFrame s p t)
  | .wlpush _ o =>
    match (locateHead s p t (upairVal s t o.a)).bind (planPush s core ctx t.team t.pri) with
    | .ok x => pushed x
    | _ => []
  | .wlins _ o =>
    match planInsert s p t (upairVal s t o.a) (t.rv o.b) with
    | .ok (_, .word loc _, x) => (loc, 4) :: pushed x
    | .ok (_, .chip _, x) => pushed x
    | _ => []
  | .wlpop _ _ o =>
    match (locateHead s p t (upairVal s t o.a)).bind fun h =>
      if (onChip s core t.team h.va).isEmpty then planRefill s core ctx t.pri h (refillCount s core) h.head else .ok [] with
    | .ok l => l.map fun e => (e.1, 8)
    | _ => []
  | _ => []
/-- The bytes of an instruction's fetch, of the walks of its addresses and of its accesses, with the frames that its
thread reads back as it issues (14 R348). DEDUCED (log 91). -/
def issueCost (s : State) (p : Nat) (t : Thread) (i : Instr) (g : Guard) : List (Nat × Nat) :=
  let core := coreOf p
  let ctx := ctxOf s t
  let r := restored s p t
  framesRead s t r ++ lineCost s core ctx t.pc ++ (walksOf s p t i g).flatMap (walkCost s core ctx) ++
    memTargets s p t i g ++
    if active g t then (targetsOf s p t i).flatMap (lineCost s core ctx) ++ extraCost (restoreThread s p t) p r i else []
/-- Whether an ORDINIT waits: a plain store to its cell is still on the mesh (03 R105). -/
def storeOnCell (s : State) (i : Instr) (l : List (Nat × Nat)) : Bool :=
  match i with
  | .ordinit .. => l.any fun e => s.mesh.any fun w => rangesMeet w.loc w.bytes.length e.1 e.2
  | _ => false
/-- Whether a store, another write of a thread that its owner performs, or the record of a retired word waits for room in the
causal buffer of the die that would have to accept it (03 R97). DEDUCED (log 41). -/
def storeHeld (s : State) (p : Nat) (i : Instr) (l : List (Nat × Nat)) : Bool :=
  match i with
  | .st .. | .retiredOpcode .. | .retiredOpcodeShort .. | .atom .. | .ordinit .. | .aaddf .. | .tbinit .. | .tbexp ..
  | .tbarr .. | .cinit .. | .cinitCount .. | .cfill .. | .cfillCnt .. | .cequ .. | .wlpush .. | .wlins .. | .wlpop .. =>
    l.any fun e => sendHeld s (coreOf p) e.1
  | _ => false
/-- Whether an instruction takes part in the order of an acquire before it: an access, be it of uniform state (07 R184), a
fence, a unit's operation, or a point where its thread may park (03 R82, R85; 04 R121). -/
def takesOrder (s : State) (t : Thread) (i : Instr) : Bool :=
  !(accessesOf s t i).isEmpty || entersAfterWrites i || mayPark i || writesMemory i || readsUniform i || writesUniform i ||
  match i with
  | .fence .. | .srget .. | .mtest .. => true
  | _ => false
/-- Whether an instruction is kept after a read of its thread that has no value yet: it writes memory or uniform state (07
R184), or is a fence that acquires (03 R85, Table 3; R86, note 1). -/
def keptAfterRead (i : Instr) : Bool :=
  writesMemory i || writesUniform i || match i with
  | .fence _ o sc => isAcquire o sc || isRelease o sc
  | _ => false
/-- Whether an instruction waits for an add of its thread that is held in a window, and so has neither its value nor its
write (03 R104): for an acquire all do; for another those kept after a read, and accesses of its cell. A further add to
that cell goes to the window, whose ranks order the two. DEDUCED (log 48). -/
def addWaits (s : State) (p : Nat) (t : Thread) (i : Instr) (l : List (Nat × Nat)) : Bool :=
  (heldAdds s p).any fun h =>
    match i with
    | .aaddf .. => l.all fun e => e.1 != h.1
    | _ => (h.2 && takesOrder s t i) || keptAfterRead i
        || (l ++ copyBytes s p t i).any fun e => rangesMeet h.1 16 e.1 e.2
/-- Whether a release at a scope waits: for writes not performed, and at a scope beyond the module for writes not
acknowledged (03 R85, R98). DEDUCED (log 40). -/
def releaseWaits (s : State) (p : Nat) (sc : Option Scope) : Bool :=
  match sc with
  | none => false
  | some x => x != .th && (writesPending s p || (leavesModule x && s.unacked.any (·.place == p)))
/-- Every register an instruction of a thread depends on or writes (02 R73): those it reads or names, a member's own
operands of a group instruction (08 R234), and the operands a retired word's record holds (17 R389). -/
def scoreRegs (i : Instr) : List Nat :=
  vreads i ++ laneReads i ++ vwrites i ++ vnamed i ++
  match i with
  | .retiredOpcodeShort _ w => emuReads 1 w 0#32
  | .retiredOpcode _ w => emuReads w.len.toNat w.p0 w.p1
  | _ => []
/-- Whether the scoreboard or a lookahead holds an instruction of a thread (02 R73; 06 R172). DEDUCED (log 28). -/
def scoreboardHolds (t : Thread) (i : Instr) (g : Guard) : Bool :=
  t.board.any fun e =>
    decide (e.la < t.issued - e.nth)
    || e.regs.any (fun r => (scoreRegs i).contains r.toNat)
    || (e.flags && namesFlags i)
    || (match e.pred with
        | some q => q == g.q || (qreads i).contains q || qwrite i == some q
        | none => false)
/-- Whether an instruction of a thread waits before it issues: for the scoreboard, for the FENCE.sc that trails the one
before, as a release or an engine operation, for a held add, for earlier writes of its own bytes, or for a budget.
DEDUCED (log 40). -/
def holds (s : State) (p : Nat) (t : Thread) (i : Instr) (g : Guard) : Bool :=
  let l := memTargets s p t i g
  scoreboardHolds t i g
  || (mayPark i && !t.board.isEmpty)
  || releaseWaits s p t.trail
  || (active g t && releaseWaits s p (releaseScope s t i))
  || (active g t && entersAfterWrites i && (s.mesh.any (·.place == some p) || initSent s p))
  || (active g t && addWaits s p t i l)
  || l.any (fun e => s.mesh.any fun w => w.place == some p && rangesMeet w.loc w.bytes.length e.1 e.2)
  || (!l.isEmpty && initSent s p)
  || storeOnCell s i l
  || storeHeld s p i l
  || !allFit s (ctxOf s t) (issueCost s p t i g)
/-- The frames that a thread reads back as an end of it under way goes on, and the line or the join cell of its newest one
(13 R307). -/
def endingCost (s : State) (p : Nat) (t : Thread) : List (Nat × Nat) :=
  let r := restored s p t
  framesRead s t r ++ framesRead s r (popFrame (restoreThread s p t) p r) ++
    (inlineLine s t).flatMap (lineCost s (coreOf p) (ctxOf s t)) ++ (joinPage s t).flatMap (walkCost s (coreOf p) (ctxOf s t))
/-- Whether a ready thread's next instruction could issue (12 R276): its die covers the vector it was started with
(03 R99), its registers can be restored, and nothing holds it. -/
def mayIssue (s : State) (p : Nat) (t : Thread) : Bool :=
  vcovers (dieVector s (dieOf (coreOf p))) t.dv && restoreFits s p t &&
    if t.ending then !(writesPending s p) && !(s.unacked.any (·.place == p)) && t.board.isEmpty
      && allFit s (ctxOf s t) (endingCost s p t)
    else
      match peek s p t with
      | some (p0, p1, i) => !holds s p t i (wordGuard p0 p1)
      | none => true

/-! Issue. -/

/-- The instruction of a line at an address. -/
def lineInstr (line : List Byte) (pc : DWord) : Instr :=
  let k := field pc 0 6 / 4
  decodeAt k (parcelAt line k) (parcelAt line (k + 1)) (parcelAt line (k + 2))
/-- Its guard. -/
def lineGuard (line : List Byte) (pc : DWord) : Guard :=
  let k := field pc 0 6 / 4
  wordGuard (parcelAt line k) (parcelAt line (k + 1))
/-- The translations of some addresses kept where the device keeps them, their walks charged (16 R363). -/
def keepWalks (s : State) (core ctx : Nat) (l : List DWord) : State := l.foldl (fun s a => keepWalk s core ctx a) s
/-- The lines at some addresses fetched by a thread. -/
def keepLines (s : State) (core ctx pri : Nat) (l : List DWord) : State := l.foldl (fun s a => keepFetch s core ctx pri a) s
/-- The state in which a thread executes: its registers restored, its line and the lines of its targets, their translations
and those of its accesses kept where the device keeps them, host pages among them (22 R424), and what they cost charged (14
R348). -/
def issueState (s : State) (p : Nat) (t : Thread) (line : List Byte) : State :=
  let core := coreOf p
  let ctx := ctxOf s t
  let s1 := restoreThread s p t
  let i := lineInstr line t.pc
  let s2 := keepLine (keepWalk s1 core ctx t.pc) core ctx t.pc line
  let g := lineGuard line t.pc
  let l := memTargets s p t i g
  let paid := chargeAll s2 ctx (fetchCost s core ctx t.pc ++ if chargesItself i then [] else l)
  let s3 := keepWalks paid core ctx (walksOf s p t i g)
  let s4 := keepLines s3 core ctx t.pri (if active g t then targetsOf s p t i else [])
  { keepHost s4 l with cur := p }
/-- The thread at a place issues, if it is ready: an ending goes on, a fetch faults or waits, or the instruction is
executed. -/
def issueAt (s : State) (p : Nat) : Out :=
  match s.thr p with
  | none => .next s
  | some t =>
    match t.status with
    | .ready _ =>
      if !mayIssue s p t then .next s
      else if t.ending then
        let s1 := keepLines (restoreThread s p t) (coreOf p) (ctxOf s t) t.pri (inlineLine s t)
        .next (endStep (keepWalks s1 (coreOf p) (ctxOf s t) (joinPage s t)) p (restored s p t) false)
      else
        match fetchLine s (coreOf p) (ctxOf s t) t.pri t.pc with
        | .trap tr => .next (takeTrap (keepWalk s (coreOf p) (ctxOf s t) t.pc) p t tr)
        | .stall w => .next (stall s p t w)
        | .ok line => exec (lineInstr line t.pc) (issueState s p t line)
    | _ => .next s

/-- A thread that could issue: its place, the cycle since which it could without a break, its context and its address, and
whether its group debits energy. -/
structure Cand where
  place : Nat
  since : Nat
  ctx   : Nat
  pc    : DWord
  pays  : Bool
  deriving DecidableEq, Repr
/-- A thread as a candidate of its bank. -/
def candOf (s : State) (p : Nat) (t : Thread) : Option Cand :=
  match t.status with
  | .ready c =>
    if !mayIssue s p t then none
    else
      let pays := !t.ending && match peek s p t with
        | some (_, _, i) => debitsEnergy i
        | none => false
      if pays && !covers s (coreOf p) (ctxOf s t) 1 then none else some ⟨p, c, ctxOf s t, t.pc, pays⟩
  | _ => none
/-- The candidate ready longest; of those ready equally long, the first in order of place. DESIGN CHOICE (log 111). -/
def eldest : List Cand → Option Cand
  | [] => none
  | c :: r =>
    match eldest r with
    | none => some c
    | some d => if d.since < c.since then some d else some c
/-- The group of an entry: of each lane the thread ready longest (12 R276). -/
def groupOf (l : List Cand) (c : Cand) : List Cand :=
  let here := l.filter fun d => d.ctx == c.ctx && d.pc == c.pc
  ((here.map fun d => laneOf d.place).eraseDups).filterMap fun lane => eldest (here.filter fun d => laneOf d.place == lane)
/-- Whether one group comes before another: it is larger, or as large with an older thread (12 R277). -/
def comesFirst (a b : List Cand) : Bool :=
  decide (b.length < a.length) ||
    (a.length == b.length && match eldest a, eldest b with
      | some x, some y => decide (x.since < y.since)
      | _, _ => false)
/-- The group a bank issues (12 R277); of groups of equal size and age, the first in order of place. DESIGN CHOICE (log 111). -/
def bankGroup (s : State) (core bank : Nat) : List Cand :=
  let l := s.threads.filterMap fun e => if coreOf e.1 == core && bankOf e.1 == bank then candOf s e.1 e.2 else none
  match eldest l with
  | none => []
  | some c =>
    if c.since + 64 ≤ s.cycle then groupOf l c
    else l.foldl (fun g d => if comesFirst (groupOf l d) g then groupOf l d else g) []
/-- A thread that could not issue at this cycle is not ready: its waiting time starts again (12 R276, R277). -/
def waitAnew (s : State) (p : Nat) (t : Thread) : Thread :=
  match t.status with
  | .ready _ => if (candOf s p t).isNone then { t with status := .ready (s.cycle + 1) } else t
  | _ => t
/-- Every bank's group, in order of core and bank, its debit made; a cycle passes: 2 ns in three (log 2).
DEDUCED (log 95). -/
def formIssue (s : State) : State :=
  let cores := (s.threads.map fun e => coreOf e.1).eraseDups
  let r := cores.foldl (fun (a : State × List Nat) core =>
    (List.range 4).foldl (fun a bank =>
      let g := bankGroup a.1 core bank
      (match g.find? (·.pays) with
        | some x => debit a.1 core x.ctx 1
        | none => a.1, a.2 ++ g.map (·.place))) a) (s, [])
  { r.1 with
    threads := s.threads.map fun e => (e.1, waitAnew s e.1 e.2)
    issue := r.2
    cycle := s.cycle + 1
    chron := s.chron + (2 * (s.cycle + 1) / 3 - 2 * s.cycle / 3) }

/-! The device's own steps. -/

/-- Whether an instruction is one of the device's own steps: the only ones that stand in the agenda.
DEDUCED (log 97). -/
def isEvent : Instr → Bool
  | .sleeptoExpiry .. | .reconvTimeout .. | .copyLanding .. | .engineQueueAccept .. | .tileOpStart .. | .tileOpComplete ..
  | .sigOpStart .. | .sigOpComplete .. | .orderedAddArrival .. | .walkStep .. | .walkReply .. | .fillEvent ..
  | .countEvent .. | .linkEvent .. | .waitEvent .. | .queryEvent .. | .initEvent .. | .waiterRecordForward ..
  | .causalApply .. | .remoteAccess .. | .hostRequest .. | .atsInvalidation .. | .pageRequestResponse .. | .beat
  | .laneLend .. | .doorbell .. | .queueEnable .. | .queueRecovery .. | .packetLookahead .. | .launchPacket ..
  | .tasksPacket .. | .callbufPacket .. | .joinPacket .. | .qfencePacket .. | .signalPacket .. | .waitPacket ..
  | .copyPacket .. | .teamPlacement | .gangStart .. | .teamEnd .. | .packetCompletion .. | .teamSwapOut ..
  | .teamResume .. | .faultRecordWrite .. | .contextEnable .. | .contextDisable .. | .partitionWrite .. | .inval | .grant
  | .release | .keyload | .keyclear | .resume | .resumeall | .preempt | .restart | .reset | .preemptDrained ..
  | .preemptDeadline .. | .forcedReset .. | .certify | .fwload | .bellowsWrite .. | .moduleWrite ..
  | .interruptMapWrite .. | .registerWrite .. | .dramTrainingDone .. | .deviceReset | .thermalThrottle ..
  | .thermalShutdown .. | .thermalRecovery .. | .moduleUnreachable .. | .transportAck .. | .transportFailed ..
  | .eccError .. | .longLatencyCompletion .. | .writeAcknowledgement .. | .copyOperationStart .. | .thermalThrottleEnd ..
  | .holtlinkFlitRetransmit .. | .ethernetSectorRetransmit .. | .dramChannelCheckDone .. | .waitPacketQueryAttempt .. => true
  | _ => false

/-- The steps that concern one thread; its long-latency instructions end at once, or, when the device takes that outcome,
one at a time (`lateStep`). -/
def threadSteps (s : State) (p : Nat) (t : Thread) : List Instr :=
  (if s.choices.late then [] else t.board.map (fun e => .longLatencyCompletion p e.id)) ++
  match t.status with
  | .parked w =>
    (match w with
      | .sleep .. => [.sleeptoExpiry p]
      | _ => []) ++ (if acquirePending s (coreOf p) (laneOf p) then [.laneLend p] else [])
  | .held _ => [.reconvTimeout (coreOf p) (bankOf p) t.pc]
  | .waiting _ => match t.gang with
    | some g => [.gangStart t.team g]
    | none => []
  | .stalled (.window _) => [.orderedAddArrival p]
  | .stalled (.trap _) => []
  | .stalled _ => [.engineQueueAccept p]
  | .ready _ => []
/-- The steps of an engine queue's entry. -/
def entrySteps (core q : Nat) (e : QEntry) : List Instr :=
  match e.kind with
  | .marker _ => []
  | .copy left _ => (left.filter fun x => x.2.going && !x.2.sent).map fun x =>
      if x.2.conn.isSome then .transportAck core e.id x.1 else .copyLanding core q e.id x.1
  | .eng _ => if !e.started then [] else if q == 6 then [.sigOpComplete core] else [.tileOpComplete core q e.id]
/-- The steps of a core's engine queues. -/
def coreSteps (s : State) (core : Nat) : List Instr :=
  (List.range 8).flatMap fun q =>
    let l := queueAt s core q
    if l.isEmpty then []
    else
      (if q == 4 || q == 5 then [.tileOpStart core q] else if q == 6 then [.sigOpStart core] else [.copyOperationStart core q])
        ++ l.flatMap (entrySteps core q)
/-- The step of a message. -/
def messageStep (k : Nat) (m : Msg) : Instr :=
  match m.stage with
  | .walk _ => .walkStep k
  | .reply _ => .walkReply k
  | .event (.fill _) _ => .fillEvent k
  | .event (.count _) _ => .countEvent k
  | .event (.link _) _ => .linkEvent k
  | .event .wait _ => .waitEvent k
  | .event .query _ => .queryEvent k
  | .event (.init ..) _ => .initEvent k
/-- The commands that may be running. -/
def commandSteps (s : State) : List Instr :=
  (if s.iso.busy then [.inval, .grant, .release, .keyload, .keyclear] else [])
  ++ (if s.rec_.busy then [.resume, .resumeall, .preempt, .restart, .reset] else [])
  ++ (if s.inst.busy then [.certify] else []) ++ (if s.mail.busy then [.fwload] else [])
/-- Whether the WAIT packet that a queue is held at can end now: its query is tried again then. DEDUCED (log 69). -/
def waitReady (s : State) (q : Nat) : Bool :=
  match headPacket s q with
  | some (_, p) => p.typ == 7 && p.stage == .held && waitEnds s p
  | none => false
/-- The steps of a command queue. -/
def queueSteps (s : State) (q : Nat) : List Instr :=
  [.packetLookahead q, .launchPacket q, .tasksPacket q, .copyPacket q, .callbufPacket q, .joinPacket q, .qfencePacket q,
   .signalPacket q, .waitPacket q] ++ if waitReady s q then [.waitPacketQueryAttempt q] else []
/-- The steps the device takes of itself, in the order in which this model tries them (log 1); a packet whose work is over
completes before a command is performed (19_faults_traps_preemption.md R415, Table 8). DEDUCED (log 59). DEDUCED (log 96). -/
def ownSteps (s : State) : List Instr :=
  .beat :: s.threads.flatMap (fun e => threadSteps s e.1 e.2)
  ++ s.mesh.map (fun w => .causalApply w.id) ++ s.unacked.map (fun u => .writeAcknowledgement u.id)
  ++ s.msgs.map (fun m => messageStep m.1 m.2) ++ s.forwards.map (fun f => .waiterRecordForward f.1)
  ++ (List.range 144).flatMap (coreSteps s) ++ s.teams.flatMap (fun e => [.teamEnd e.1, .teamSwapOut e.1])
  ++ s.packets.map (fun e => .packetCompletion e.1) ++ commandSteps s ++ s.records.map (fun r => .faultRecordWrite r.id) ++ s.teams.map (fun e => .teamResume e.1)
  ++ s.queues.flatMap (fun e => queueSteps s e.1)
  ++ [.teamPlacement] ++ s.ctxs.flatMap (fun e => [.preemptDrained e.1, .preemptDeadline e.1])
/-- The state after a step that changes it; none when the step leaves the state as it is. -/
def changed (s : State) (o : Out) : Option State :=
  match o with
  | .next s1 => if s1 = s then none else some s1
  | _ => none
/-- The first of the device's own steps that comes about now. DESIGN CHOICE (log 1). -/
def ownStep (s : State) : List Instr → Option State
  | [] => none
  | e :: r =>
    match changed s (exec e s) with
    | some s1 => some s1
    | none => ownStep s r
/-- Whether a stalled thread's instruction is tried again as it stands: its reason is a barrier, a ring, the pool, or the block
of a BIND (12 R297). DEDUCED (log 37). -/
def retries (t : Thread) : Bool :=
  match t.status with
  | .stalled (.barrierTable _) | .stalled (.arrival ..) | .stalled (.ring _) | .stalled (.pool _) => true
  | .stalled .meet => t.group.isNone
  | _ => false
/-- Whether a thread waits at a BIND, be it bound: others of its block may end meanwhile (13 R310). -/
def waitsToBind (s : State) (p : Nat) (t : Thread) : Bool :=
  match t.status, peek s p t with
  | .stalled .meet, some (_, _, .bind ..) => true
  | _, _ => false
/-- A stalled thread's instruction executed again. -/
def retryAt (s : State) (p : Nat) (t : Thread) : Option State :=
  if !retries t && !waitsToBind s p t then none
  else
    match peek s p t with
    | some (_, _, i) => changed s (asPlace s (exec i { s with cur := p }))
    | none => none
/-- The first stalled thread that can go on. -/
def retryFirst (s : State) : List (Nat × Thread) → Option State
  | [] => none
  | e :: r =>
    match retryAt s e.1 e.2 with
    | some s1 => some s1
    | none => retryFirst s r
/-- The long-latency instructions under way, each by its thread's place and its number. -/
def underWay (s : State) : List (Nat × Nat) := s.threads.flatMap fun e => e.2.board.map fun b => (e.1, b.id)
/-- Where long-latency instructions end one at a time, one of them ends before each cycle of issue (02 R73): so the threads
of one issue group may issue their next instructions apart (20_program_gather_fault.md R417). DESIGN CHOICE (log 10). -/
def lateStep (s : State) : State :=
  if !s.choices.late then s
  else
    match (underWay s)[Config.lateFirst s.cycle % (underWay s).length]? with
    | some e => (changed s (execLongLatencyCompletion e.1 e.2 s)).getD s
    | none => s
/-- With no issue under way: one of the device's own steps, or a stalled thread that can go on, or the next cycle.
DESIGN CHOICE (log 1). -/
def idleStep (s : State) : Out :=
  match ownStep s (ownSteps s) with
  | some s1 => .next s1
  | none =>
    match retryFirst s s.threads with
    | some s1 => .next s1
    | none => .next (formIssue (lateStep s))

end Sys2Proof.Machine
end

