-- ==== Sys2Proof/Machine/Step.lean ====
section
/-! DEFINITION. One step of the machine (log 1), and the machine with one instruction where the next step fetches. -/

namespace Sys2Proof.Machine

/-- One step: the next of the agenda, what the outside or the device's own choice of order has put first; else the next
thread that issues; else what the device does of itself, or the next cycle. An instruction word in the agenda is no step
of the device and is passed over. DESIGN CHOICE (log 1). DEDUCED (log 97). -/
def step (s : State) : Host.Outcome State Fault Refusal :=
  match s.agenda with
  | e :: r => if isEvent e then exec e { s with agenda := r } else .next { s with agenda := r }
  | [] =>
    match s.issue with
    | p :: r => issueAt { s with issue := r } p
    | [] => idleStep s

/-- The address at which `withFetchWord` puts its instruction. -/
def fetchVa : Nat := 0x40000

/-- A line whose first parcels are given, parcel 0 a target, its parity right (02 R66, R67). -/
def fetchLineBytes (ps : List Word) : List Byte :=
  let body := (ps.map fun p => toBytes 4 p.toNat).flatten ++ toBytes (60 - 4 * ps.length) 0
  let odd := oddBits (body.take 16)
  body ++ toBytes 4 (1 + (if odd then 2 ^ 28 else 2 ^ 31))

/-- A context's descriptor as `withFetchWord` needs it: enabled and running under debug, its tables at `root`, core 0. -/
def fetchDesc (root : Nat) : BitVec 1024 :=
  BitVec.ofNat 1024 (leNat (toBytes 8 (2 ^ 30 + 3) ++ toBytes 8 root ++ toBytes 8 (2 ^ 40) ++ toBytes 8 (2 ^ 41)
    ++ toBytes 8 (2 ^ 30) ++ toBytes 8 1))

/-- The gang of that context's one thread. -/
def fetchGang : Gang :=
  { index := 0, core := 0, base := 0, width := 16, role := .general, allot := 16, legacy := false
    s := Vector.replicate 64 0#32, key := 0#64 }
/-- The team of that thread. -/
def fetchTeam : Team :=
  { ctx := 0, serial := 1#32, index := 0#32, packet := 0, x0 := 0, y0 := 0, w := 1, h := 1, width := 16, share := 0
    slotNeed := 0, kib := 1, count := 1, gangs := [fetchGang], rings := Vector.replicate 8 Ring.empty, saved := none, area := none, succ := none }

/-- The memory of that context: three levels of tables whose leaf maps the first GiB of DRAM r and x, and the line. -/
def fetchMemory (s : State) (base : Nat) (line : List Byte) : State :=
  let s1 := s.write (base + 0x1000) (toBytes 8 (base + 0x2001))
  let s2 := s1.write (base + 0x2000) (toBytes 8 (base + 0x3001))
  let s3 := s2.write (base + 0x3000) (toBytes 8 (base + 0x17))
  let s4 := s3.write (base + fetchVa) line
  { s4 with poison := s4.poison.filter fun h => !([0x1000, 0x2000, 0x3000].map fun a => (base + a) / 16).contains h }

namespace State

/-- `s` with the instruction in the `nbits` low bits of `w` (the bits above are 0) where the next step fetches and runs
it: at the head of a line of a context under debug, in its thread at place 0, which is next to issue (log 1). -/
def withFetchWord (s : State) (nbits w : Nat) : State :=
  let x := w % 2 ^ nbits
  let base := s.module.toNat * 2 ^ 40
  let s1 := fetchMemory s base
    (fetchLineBytes [BitVec.ofNat 32 x, BitVec.ofNat 32 (x / 2 ^ 32), BitVec.ofNat 32 (x / 2 ^ 64)])
  let t := freshThread s.serial 0 (some 0) 0 fetchVa ⟨2 ^ 41, 32768, 1⟩ (Vector.replicate 8 0) 0
  { s1 with
    stage := 2#2
    ctxs := mset s.ctxs 0 { Ctx.reset with desc := fetchDesc (base + 0x1000) }
    keys := mset s.keys 0 (0#256, 1#256)
    frames := rcut s.frames ((base + fetchVa) / 32768) 1 ++ [⟨(base + fetchVa) / 32768, 1, 0⟩]
    tlb := s.tlb.filter fun e => e.core != 0 || e.ctx != 0
    lines := s.lines.filter fun e => e.core != 0 || e.ctx != 0
    ordered := (forgetAdds s 0).ordered, mesh := s.mesh.filter (·.place != some 0), unacked := s.unacked.filter (·.place != 0)
    msgs := s.msgs.filter (·.2.place != 0)
    teams := mset s.teams s.serial fetchTeam
    threads := mset s.threads 0 { t with status := .ready s.cycle }
    agenda := [], issue := 0 :: s.issue, serial := s.serial + 1 }

end State

end Sys2Proof.Machine
end

