-- ==== Sys2Proof/Safety.lean ====
section
/-! DEFINITION. What counts as a safe run, and the conditions under which an instruction has its own effect, in the terms
the statements use. -/

namespace Sys2Proof.Machine

/-! Runs. -/

/-- The memory of a state is in its canonical form, so that equal memories are equal lists. -/
def MemOk (s : State) : Prop := memWf s.mem = true
/-- The Bellows period is one that the control register admits (12_execution_model.md R287). -/
def PeriodOk (s : State) : Prop := 4 ≤ s.period.toNat ∧ s.period.toNat ≤ 16384
/-- A state reached from another by steps that answer a next state. -/
inductive Reaches (a : State) : State → Prop where
  | refl : Reaches a a
  | step {b c : State} : Reaches a b → step b = .next c → Reaches a c
/-- A run from a state is safe when no state it reaches stops: this machine takes every exception the spec describes, so
a stop is never the spec's own (log 1). -/
def SafeFrom (a : State) : Prop := ∀ b, Reaches a b → ∃ c, step b = .next c

/-! Threads. -/

/-- A role may issue an instruction (12 R282): the instruction is open to every role, the role is general or the
instruction's own, or the thread is in emulation. -/
def roleAdmits (s : State) (t : Thread) (i : Instr) : Prop :=
  ∀ r, roleOf i = some r → threadRole s t = .general ∨ threadRole s t = r ∨ t.emu.isSome = true

/-- The thread at `s.cur` executes `i` and nothing that depends on its registers alone stops it: the guard is true in
it (02 R62), every register the instruction names is below its allotment (12 R283), its role may issue it (12 R282), and
no register it reads is poisoned (19 R398; PREF reads without the fault, 04 R120). -/
structure Ready (g : Guard) (i : Instr) (s : State) (t : Thread) : Prop where
  here  : s.thr s.cur = some t
  on    : (t.pred g.q ^^ g.neg) = true
  fits  : ∀ n ∈ vreads i ++ vwrites i ++ vnamed i, n < t.allot
  role  : roleAdmits s t i
  clean : (∀ n ∈ vreads i, t.isPoisoned (BitVec.ofNat 7 n) = false) ∨ ∃ h u l m, i = .pref h u l m

/-- The places `ps` are the members of the bound group of the thread at `s.cur`, which is the last to arrive at `i`: every
other member waits there, all stand at one address, and in every active member nothing that depends on registers stops
it. `engine` says that position 0 supplies the operands (08 R234). -/
structure Gathered (engine : Bool) (g : Guard) (i : Instr) (s : State) (ps : List Nat) : Prop where
  distinct : ps.Nodup
  arrives  : s.cur ∈ ps
  members  : ∀ p ∈ ps, ∃ t, s.thr p = some t ∧ groupMembers s t = some ps
  waiting  : ∀ p ∈ ps, p ≠ s.cur → ∃ t, s.thr p = some t ∧ t.status = .stalled .meet
  together : ∃ pc, ∀ p ∈ ps, (s.thr p).map (·.pc) = some pc
  someone  : ∃ p ∈ ps, ∃ t, s.thr p = some t ∧ active g t = true
  fits     : ∀ t, s.thr s.cur = some t → active g t = true →
    ∀ n ∈ memberReads engine i (positionIn ps s.cur) true ++ (if engine then [] else vwrites i), n < t.allot
  role     : ∀ p ∈ ps, ∀ t, s.thr p = some t → active g t = true → roleAdmits s t i
  clean    : ∀ p ∈ ps, ∀ t, s.thr p = some t → active g t = true →
    ∀ n ∈ memberReads engine i (positionIn ps p) (ps.find? (fun q => ((s.thr q).map (active g)).getD false) == some p),
      t.isPoisoned (BitVec.ofNat 7 n) = false

/-- A bank's 32 lanes gathered with every guard true, as the matrix and signature instructions and BXQ require (08 R233;
07 R214). -/
structure GatheredWhole (engine : Bool) (g : Guard) (i : Instr) (s : State) (ps : List Nat) : Prop
    extends Gathered engine g i s ps where
  full : ps.length = 32
  all  : ∀ p ∈ ps, ∀ t, s.thr p = some t → active g t = true

/-- The thread at `s.cur` has gone on past `i` with the registers of `u` (07 R186; 12 R276). -/
def Onward (i : Instr) (s s' : State) (t u : Thread) : Prop :=
  ∃ t', s'.thr s.cur = some t' ∧ t'.pc = nextPc t.pc (encode i).length ∧ t'.status = .ready s.cycle ∧ t'.v = u.v ∧
    t'.vp = u.vp ∧ t'.q = u.q ∧ t'.sp = u.sp ∧ t'.ln = u.ln ∧ t'.fpflags = u.fpflags ∧ t'.chip = u.chip ∧
    t'.spilled = u.spilled ∧ t'.tok = u.tok
/-- No thread but the one at `s.cur` has changed. -/
def OthersStay (s s' : State) : Prop := ∀ p, p ≠ s.cur → s'.thr p = s.thr p
/-- Every byte outside [a, a + n) reads as before. -/
def OnlyBytes (s s' : State) (a n : Nat) : Prop := ∀ k, k < a ∨ a + n ≤ k → memByte s'.mem k = memByte s.mem k

/-- The member at a position of a bound group. -/
def memberAt (s : State) (ps : List Nat) (k : Nat) : Option Thread := (ps[k]?).bind s.thr
/-- The member at a position, present when its guard is true (07 R217). -/
def presentAt (g : Guard) (s : State) (ps : List Nat) (k : Nat) : Option Thread := (memberAt s ps k).filter (active g)

/-- A group instruction has been performed (07 R217): every member has gone on past it, an absent one with nothing
received, a present one with no register or predicate changed but the instruction's destinations; no other thread, no
memory and no gang has changed. -/
structure GroupDone (i : Instr) (g : Guard) (s s' : State) (ps : List Nat) : Prop where
  onward : ∀ p ∈ ps, ∀ t, s.thr p = some t → ∃ t', s'.thr p = some t' ∧
    t'.pc = nextPc t.pc (encode i).length ∧ t'.status = .ready s.cycle ∧
    (active g t = false → t'.v = t.v ∧ t'.q = t.q ∧ t'.fpflags = t.fpflags) ∧
    (∀ n : VReg, n.toNat ∉ vwrites i → t'.rv n = t.rv n) ∧ (∀ q, qwrite i ≠ some q → t'.pred q = t.pred q)
  others : ∀ p, p ∉ ps → s'.thr p = s.thr p
  memory : s'.mem = s.mem
  gangs  : s'.teams = s.teams

/-- A matrix or signature instruction of a gathered group has been accepted (08 R236, R239): its operation stands last in
queue `q` of the core, not started, with the next number of acceptance; every member has gone on past it, its token `k`
waiting for the operation; memory, the stores of the core and every other thread are as they were. -/
structure Accepted (i : Instr) (s s' : State) (ps : List Nat) (q : Nat) (k : BitVec 4) (op : EngOp) : Prop where
  queued : ∃ e p g, ps.head? = some p ∧ (∃ t, s.thr p = some t ∧ t.group = some g) ∧
    queueAt s' (coreOf p) q = queueAt s (coreOf p) q ++ [e] ∧ e.started = false ∧ e.kind = .eng op ∧ op.instr = i ∧
    op.accept = (s.core (coreOf p)).accept ∧ op.group = g ∧
    ∀ p' ∈ ps, ∀ t, s.thr p' = some t → ∃ t', s'.thr p' = some t' ∧ t'.pc = nextPc t.pc (encode i).length ∧
      t'.status = .ready s.cycle ∧ t'.v = t.v ∧ t'.q = t.q ∧ t'.token k = ⟨some (g, e.id), 0#5⟩ ∧
      ∀ n, n ≠ k → t'.token n = t.token n
  others : ∀ p, p ∉ ps → s'.thr p = s.thr p
  memory : s'.mem = s.mem
  stores : ∀ c, (s'.core c).slots = (s.core c).slots ∧ (s'.core c).tiles = (s.core c).tiles ∧
    (s'.core c).binds = (s.core c).binds ∧ (s'.core c).bufs = (s.core c).bufs

/-- An instruction whose effect lies in its own thread and, for MOVS and RNGS, in its gang's s registers and key: no
memory, no unit and no other thread takes part (07_compute_instructions.md; 02 R57). -/
def regOnly : Instr → Bool
  | .nopShort .. | .braShort .. | .callShort .. | .retShort .. | .movShort .. | .iaddShort .. | .isubShort ..
  | .imulShort .. | .andShort .. | .orShort .. | .xorShort .. | .shlShort .. | .shrShort .. | .sarShort ..
  | .iminShort .. | .imaxShort .. | .faddShort .. | .fsubShort .. | .fmulShort .. | .ffmaShort .. | .fminShort ..
  | .fmaxShort .. | .pandShort .. | .porShort .. | .pxorShort .. | .pnotShort .. | .pmovShort .. | .nop .. | .bra ..
  | .brc .. | .brx .. | .call .. | .callx .. | .ret .. | .pand .. | .por .. | .pxor .. | .pnot .. | .pmov ..
  | .ppack .. | .punpk .. | .sel .. | .iadd .. | .isub .. | .imul .. | .imulh .. | .imad .. | .idiv .. | .irem ..
  | .imin .. | .imax .. | .iabs .. | .ineg .. | .iset .. | .lea .. | .add64 .. | .sub64 .. | .mul64 .. | .and .. | .or ..
  | .xor .. | .not .. | .shl .. | .shr .. | .sar .. | .rol .. | .bfx .. | .bfi .. | .popc .. | .clz .. | .ctz ..
  | .brev .. | .mov .. | .movi .. | .lit .. | .movs .. | .gets .. | .sets .. | .rngd .. | .rngs .. | .bxd .. | .bxex ..
  | .fadd .. | .fsub .. | .fmul .. | .ffma .. | .fmin .. | .fmax .. | .fset .. | .fclass .. | .fcvt .. | .ftoi ..
  | .itof .. | .frnd .. | .fdiv .. | .fsqrt .. | .frcp .. | .frsq .. | .fexp2 .. | .flog2 .. | .fsin .. | .fcos ..
  | .ftanh .. => true
  | _ => false

/-- The instructions that set flags of %fpflags (06 R170): the floating ones. -/
def setsFlags : Instr → Bool
  | .faddShort .. | .fsubShort .. | .fmulShort .. | .ffmaShort .. | .fminShort .. | .fmaxShort .. | .brc .. | .fadd ..
  | .fsub .. | .fmul .. | .ffma .. | .fmin .. | .fmax .. | .fset .. | .fcvt .. | .ftoi .. | .itof .. | .frnd ..
  | .fdiv .. | .fsqrt .. | .frcp .. | .frsq .. | .fexp2 .. | .flog2 .. | .fsin .. | .fcos .. | .ftanh .. => true
  | .sets _ r _ => r == .fpflags
  | _ => false
/-- The instructions that write ln (07 R186, R188, R199, R201). -/
def writesLn : Instr → Bool
  | .callShort .. | .call .. | .callx .. => true
  | .lea _ o | .add64 _ o | .sub64 _ o => o.d == .ln
  | .mov _ o => o.d == .ln
  | _ => false
/-- The instructions that write sp (07 R199, R201). -/
def writesSp : Instr → Bool
  | .lea _ o | .add64 _ o | .sub64 _ o => o.d == .sp
  | .mov _ o => o.d == .sp
  | _ => false
/-- PUNPK writes all of q0 to q6 (07 R192). -/
def writesAllPreds : Instr → Bool
  | .punpk .. => true
  | _ => false
/-- MOVS and RNGS, whose destination is their gang's (07 R204, R223). -/
def writesGang : Instr → Bool
  | .movs .. | .rngs .. => true
  | _ => false

/-- A word of Table 8, Table 9 or a retired one: no reserved word and none of the device's own steps (02 R46). -/
def isWord : Instr → Bool
  | .reservedEncoding .. => false
  | i => !isEvent i

/-- The guard of an instruction word (02_encoding.md R48, R49, R62); the device's own steps have none. -/
def guardOf : Instr → Option Guard
  | .nopShort g .. | .braShort g .. | .callShort g .. | .retShort g .. | .exitShort g .. | .movShort g ..
  | .iaddShort g .. | .isubShort g .. | .imulShort g .. | .andShort g .. | .orShort g .. | .xorShort g ..
  | .shlShort g .. | .shrShort g .. | .sarShort g .. | .iminShort g .. | .imaxShort g .. | .faddShort g ..
  | .fsubShort g .. | .fmulShort g .. | .ffmaShort g .. | .fminShort g .. | .fmaxShort g .. | .pandShort g ..
  | .porShort g .. | .pxorShort g .. | .pnotShort g .. | .pmovShort g .. | .retiredOpcodeShort g ..
  | .retiredOpcode g .. | .reservedEncoding g .. | .nop g .. | .bra g .. | .brc g .. | .brx g .. | .call g ..
  | .callx g .. | .ret g .. | .exit g .. | .pand g .. | .por g .. | .pxor g .. | .pnot g .. | .pmov g ..
  | .ppack g .. | .punpk g .. | .sel g .. | .iadd g .. | .isub g .. | .imul g .. | .imulh g .. | .imad g ..
  | .idiv g .. | .irem g .. | .imin g .. | .imax g .. | .iabs g .. | .ineg g .. | .iset g .. | .lea g ..
  | .add64 g .. | .sub64 g .. | .mul64 g .. | .and g .. | .or g .. | .xor g .. | .not g .. | .shl g .. | .shr g ..
  | .sar g .. | .rol g .. | .bfx g .. | .bfi g .. | .popc g .. | .clz g .. | .ctz g .. | .brev g .. | .mov g ..
  | .movi g .. | .lit g .. | .movs g .. | .gets g .. | .sets g .. | .rngd g .. | .rngs g .. | .bxq g .. | .bxd g ..
  | .bxex g .. | .fadd g .. | .fsub g .. | .fmul g .. | .ffma g .. | .fmin g .. | .fmax g .. | .fset g ..
  | .fclass g .. | .fcvt g .. | .ftoi g .. | .itof g .. | .frnd g .. | .fdiv g .. | .fsqrt g .. | .frcp g ..
  | .frsq g .. | .fexp2 g .. | .flog2 g .. | .fsin g .. | .fcos g .. | .ftanh g .. | .shfl g .. | .vote g ..
  | .ballot g .. | .lred g .. | .lscan g .. | .elect g .. | .readl g .. | .ld g .. | .st g .. | .atom g ..
  | .ordinit g .. | .aaddf g .. | .fence g .. | .qfence g .. | .pref g .. | .cpy g .. | .cpys g .. | .sleepto g ..
  | .srput g .. | .srget g .. | .tbinit g .. | .tbexp g .. | .tbarr g .. | .tbwait g .. | .tbtest g .. | .cinit g ..
  | .cinitCount g .. | .cfill g .. | .cfillCnt g .. | .cwait g .. | .cequ g .. | .ctest g .. | .cpeek g ..
  | .mclaim g .. | .mrel g .. | .mld g .. | .mldc g .. | .mst g .. | .mzero g .. | .mma g .. | .mtrn g ..
  | .mprm g .. | .mred g .. | .mwait g .. | .mtest g .. | .sighSrp g .. | .sighKey g .. | .sigb g .. | .sigs g ..
  | .sigg g .. | .sigmap g .. | .fork g .. | .forkr g .. | .iter g .. | .join g .. | .joinr g .. | .fdrop g ..
  | .fdepth g .. | .bind g .. | .unbind g .. | .reconv g .. | .yield g .. | .acquire g .. | .spawn g .. | .tdone g ..
  | .tdoneR g .. | .wlpush g .. | .wlpop g .. | .wlins g .. | .wlcnt g .. | .trap g .. | .region g .. | .bkpt g ..
  | .emuret g .. => some g
  | _ => none

/-- The instructions performed once for a bound group: the cross-lane ones and BXQ (07 R214, R217), and those of the matrix
engine and the signature stage but MWAIT and MTEST (08 R233). -/
def groupInstr : Instr → Bool
  | .shfl .. | .readl .. | .vote .. | .ballot .. | .lred .. | .lscan .. | .elect .. | .bxq .. | .mclaim .. | .mrel ..
  | .mld .. | .mldc .. | .mst .. | .mzero .. | .mma .. | .mtrn .. | .mprm .. | .mred .. | .sighSrp .. | .sighKey ..
  | .sigb .. | .sigs .. | .sigg .. | .sigmap .. => true
  | _ => false
/-- BIND and UNBIND, which gather threads of their own (13 R310, R311). -/
def binds : Instr → Bool
  | .bind .. | .unbind .. => true
  | _ => false

/-! Promise cells (05; 14_scheduling.md R348). -/

/-- A context's DRAM budget admits two accesses of each of some cells, which a message to them makes at most: its walk and
its event (14 R348). -/
def CellsFit (s : State) (c : Nat) (cells : List Nat) : Prop :=
  allFit s c ((cells ++ cells).flatMap fun va => ((devLoc s c va Access.none).toList).map (·, 16)) = true

/-! Tiles (08 R230). -/

/-- The elements of a tile are those of `f`, by row and column. -/
def TileIs (s : State) (core tile : Nat) (acc64 : Bool) (f : Nat → Nat → Nat) : Prop :=
  ∀ r c, r < 32 → c < 32 → (tileRow s core tile acc64 r)[c]? = some (f r c % 2 ^ (if acc64 then 64 else 32))
/-- Flags are the union of those of 32 by 32 elements (06 R170). -/
def UnionOf (fl : BitVec 5) (f : Nat → Nat → BitVec 5) : Prop :=
  ∀ k, fl.getLsbD k = true ↔ ∃ r c, r < 32 ∧ c < 32 ∧ (f r c).getLsbD k = true

/-! Integers (06 R158, R159; 07 R194). -/

/-- The least number of an integer format. -/
def lowest (f : IFmt) : Int := if Legal.isigned f then -(2 : Int) ^ (Legal.iwidth f - 1) else 0
/-- The greatest number of an integer format. -/
def highest (f : IFmt) : Int :=
  if Legal.isigned f then (2 : Int) ^ (Legal.iwidth f - 1) - 1 else (2 : Int) ^ Legal.iwidth f - 1
/-- The w bits that stand for an exact integer modulo 2^w. -/
def modulo (f : IFmt) (x : Int) : Nat := (x % (2 : Int) ^ Legal.iwidth f).toNat
/-- The w bits of a number in an integer format: two's complement or natural. -/
def valueOf (f : IFmt) (n : Nat) : Int :=
  if Legal.isigned f ∧ 2 ^ (Legal.iwidth f - 1) ≤ n then (n : Int) - 2 ^ Legal.iwidth f else n
/-- Source A or C of an integer instruction as a number of its format. -/
def intA (s : State) (t : Thread) (f : IFmt) (a : Src) : Int := valueOf f (srcNat s t (Legal.iwidth f) a)
/-- Operand B of an integer instruction as a number of its format. -/
def intB (s : State) (t : Thread) (f : IFmt) (b : OpB) : Int := valueOf f (opbNat s t (Legal.iwidth f) b)

end Sys2Proof.Machine
end

