-- ==== Sys2Proof/Certificates/Slice0/Obligations.lean ====
section
/-! DEFINITION. The statements about this model. -/

section Statements

open Sys2Proof Sys2Proof.Machine Sys2Proof.Legal

/-! Encoding. -/

/-- 02 R46 to R63: every well-formed instruction word is what its own encoding decodes to. -/
def Obligations.DecodeOfEncode : Prop :=
  ∀ i : Instr, i.wellFormed = true → isWord i = true → decodeParcels (encode i) = .ok i

/-- 02 R46: a word that decodes to an instruction of the tables is that instruction's only word: its encoding gives back
the parcels. Retired words keep their first two parcels. 02 R46, R47: whatever the parcels and wherever they stand in a
line, they have exactly one fate, and it is well formed. The model's readings of its own in it: log 21, log 22, log 23.
-/
def Obligations.WordsAreExact : Prop :=
  (∀ p0 p1 p2 : Word, isWord (Decode.word p0 p1 p2) = true →
     encode (Decode.word p0 p1 p2) =
       match Decode.word p0 p1 p2 with
       | .retiredOpcode .. => [p0, p1, 0#32].take (Decode.parcelCount p0)
       | _ => [p0, p1, p2].take (Decode.parcelCount p0)) ∧
  (∀ (k : Nat) (p0 p1 p2 : Word),
     (decodeAt k p0 p1 p2).wellFormed = true ∧
     isEvent (decodeAt k p0 p1 p2) = false ∧
     (15 < k + Decode.parcelCount p0 → decodeAt k p0 p1 p2 = Decode.crossing p0 p1))

/-- 02, worked encodings, and R57, R60, R64: words written out in the spec decode to the instructions it names, the
padding word to NOP, and a zero word to a reserved one. -/
def Obligations.WorkedWords : Prop :=
  decodeParcels [0x7000C10C#32] = .ok (.movShort ⟨false, 7#3⟩ ⟨2#7, 3#7⟩) ∧
  decodeParcels [0x00001CCB#32, 0x000001C0#32, 0x3F800000#32] = .ok (.lit ⟨false, 7#3⟩ 7#7 0x3F800000#32) ∧
  decodeParcels [0x70000704#32] = .ok (.braShort ⟨false, 7#3⟩ 14#21) ∧
  decodeParcels [0x8C16290D#32, 0x000041C6#32] =
    .ok (.ffma ⟨false, 7#3⟩ ⟨.f32, false, .rn, 10#7, .v 11#7, .reg (.v 12#7), .v 13#7⟩) ∧
  decodeParcels [0x01122181#32, 0x320181C0#32] =
    .ok (.shfl ⟨false, 7#3⟩ 0#4 ⟨.xor, .n32, 8#7, 9#7, .imm7 1#7⟩) ∧
  decodeParcels [0x060A1101#32, 0x040081C0#32] =
    .ok (.fadd ⟨false, 7#3⟩ ⟨.f16, true, .rn, 4#7, .v 5#7, .reg (.v 6#7)⟩) ∧
  decodeParcels [0x70000002#32] = .ok (.nopShort ⟨false, 7#3⟩) ∧
  decodeParcels [0#32] = .ok (.reservedEncoding ⟨false, 0#3⟩ .reserved ⟨1#2, 0#32, 0#32⟩) ∧
  decode [0x0D#8, 0x29#8, 0x16#8, 0x8C#8, 0xC6#8, 0x41#8, 0x00#8, 0x00#8] =
    .ok (.ffma ⟨false, 7#3⟩ ⟨.f32, false, .rn, 10#7, .v 11#7, .reg (.v 12#7), .v 13#7⟩)

/-! The step. -/

/-- 12 R276; 02 R66: the step at which a ready thread's turn has come reads the line at its pc and executes the
instruction the line holds there, in the state whose registers and frames are restored, whose line and translations are
kept and whose bytes are charged (16 R363; 17 R384; 14 R348). The order of turns is the model's (log 1). Log 1: a step
of the device that stands first in the agenda is the step that is taken, and takes its place. -/
def Obligations.StepRunsDecoded : Prop :=
  (∀ (s : State) (p : Nat) (r : List Nat) (t : Thread) (c : Nat) (line : List Byte),
     s.agenda = [] → s.issue = p :: r → s.thr p = some t → t.status = .ready c → t.ending = false →
     mayIssue { s with issue := r } p t = true →
     fetchLine { s with issue := r } (coreOf p) (ctxOf s t) t.pri t.pc = .ok line →
     step s = exec (decodeAt (field t.pc 0 6 / 4) (parcelAt line (field t.pc 0 6 / 4))
                     (parcelAt line (field t.pc 0 6 / 4 + 1)) (parcelAt line (field t.pc 0 6 / 4 + 2)))
                   (issueState { s with issue := r } p t line) ∧
     (issueState { s with issue := r } p t line).cur = p ∧
     (issueState { s with issue := r } p t line).thr p = some (restored { s with issue := r } p t) ∧
     (issueState { s with issue := r } p t line).mem = s.mem) ∧
  (∀ (s : State) (e : Instr) (r : List Instr), s.agenda = e :: r → isEvent e = true →
     step s = exec e { s with agenda := r })

/-! Registers: what an instruction leaves, and what it leaves alone. -/

/-- 07 R186; 12 R276; 06 R172, R179; 02 R73; 03 R83: going on past an instruction moves the thread's pc to the next
instruction, makes it ready, counts the instruction, advances the generator's counter where the instruction draws, and
puts a long-latency instruction on the scoreboard, with whether it raises flags (06 R172); a .sc store, atomic or
ordered add leaves the scope of the FENCE.sc that trails it (03 R83). Nothing else of the thread, no other thread, no
memory and no unit changes. The model's readings of its own in it: log 28. 07 R186: the next instruction stands 4 bytes
on for each parcel, past the line word where a line ends. -/
def Obligations.GoingOn : Prop :=
  (∀ (i : Instr) (s : State) (p : Nat) (t : Thread),
     ∃ t', (finish i s p t).thr p = some t' ∧
       t' = { t with pc := nextPc t.pc (encode i).length, status := .ready s.cycle, issued := t.issued + 1, pri := 0
                     ctr := t'.ctr, board := t'.board, trail := t'.trail } ∧
       t'.ctr = (if draws i then t.ctr + 1#64 else t.ctr) ∧
       (lookahead i = none → t'.board = t.board) ∧
       (∀ la, lookahead i = some la → ∃ e, t'.board = t.board ++ [e] ∧ e.la = la ∧ e.nth = t.issued ∧
         e.regs = (vwrites i).map (BitVec.ofNat 7 ·) ∧ e.pred = qwrite i ∧ (e.flags = true ↔ raisesLate i = true)) ∧
       t'.trail = (match i with
         | .st _ o => if o.ord = .sc then some o.scope else none
         | .atom _ _ o => if o.ord = .sc then some o.scope else none
         | .aaddf _ o => if o.ord = .sc then some o.scope else none
         | _ => none) ∧
       (∀ q, q ≠ p → (finish i s p t).thr q = s.thr q) ∧
       finish i s p t = { s with threads := mset s.threads p t', serial := (finish i s p t).serial }) ∧
  (∀ (pc : DWord) (n : Nat), pc.toNat % 4 = 0 → 1 ≤ n → n ≤ 3 → pc.toNat % 64 + 4 * n ≤ 60 → pc.toNat + 64 < 2 ^ 64 →
     (nextPc pc n).toNat = (if pc.toNat % 64 + 4 * n = 60 then (pc.toNat / 64 + 1) * 64 else pc.toNat + 4 * n) ∧
     (nextPc pc n).toNat % 64 < 60)

/-- 06 R158; 02 R51: what a register result leaves. A 64-bit result fills the pair, a signed narrow one is
sign-extended, another narrow one zero-extended; every other register keeps its value, and the poison of what is written
is cleared. -/
def Obligations.RegisterResult : Prop :=
  ∀ (t : Thread) (f : IFmt) (d : VReg) (x : Nat), f ≠ .b128 → (ipair f = true → d.getLsbD 0 = false) →
    (ipair f = true → (t.setI f d x).rv64 d = BitVec.ofNat 64 x) ∧
    (ipair f = false → isigned f = true →
      (t.setI f d x).rv d = ((BitVec.ofNat 32 x).setWidth (iwidth f)).signExtend 32) ∧
    (ipair f = false → isigned f = false →
      (t.setI f d x).rv d = ((BitVec.ofNat 32 x).setWidth (iwidth f)).setWidth 32) ∧
    (∀ n, n ≠ d → (ipair f = true → n ≠ d + 1#7) →
      (t.setI f d x).rv n = t.rv n ∧ (t.setI f d x).isPoisoned n = t.isPoisoned n) ∧
    (t.setI f d x).isPoisoned d = false ∧ (ipair f = true → (t.setI f d x).isPoisoned (d + 1#7) = false) ∧
    t.setI f d x = { t with v := (t.setI f d x).v, vp := (t.setI f d x).vp }

/-- 07 R194, R205 and the entries of their tables; 02 R62; 19 R396: the frame of the instructions whose effect lies in
registers. Whatever they answer, no other thread, no memory, no core, no cell and no queue changes; in their own thread
no v register, predicate, flag, sp, ln or other register changes but the destinations their entries name; and their
gang's s registers and key change under MOVS and RNGS alone. -/
def Obligations.RegisterFrame : Prop :=
  ∀ (i : Instr) (s s' : State) (t : Thread), regOnly i = true → s.thr s.cur = some t → exec i s = .next s' →
    ∃ t', s'.thr s.cur = some t' ∧
      (∀ n : VReg, n.toNat ∉ vwrites i → t'.rv n = t.rv n ∧ t'.isPoisoned n = t.isPoisoned n) ∧
      (∀ q : PReg, qwrite i ≠ some q → writesAllPreds i = false → t'.pred q = t.pred q) ∧
      (writesSp i = false → t'.sp = t.sp) ∧ (writesLn i = false → t'.ln = t.ln) ∧
      (setsFlags i = false → t'.fpflags = t.fpflags) ∧
      ((∀ g a, i ≠ .sets g .stklim a) → t'.stklim = t.stklim) ∧
      t'.tok = t.tok ∧ t'.region = t.region ∧ t'.tag = t.tag ∧ t'.chip = t.chip ∧ t'.spilled = t.spilled ∧
      t'.team = t.team ∧ t'.tid = t.tid ∧ t'.gang = t.gang ∧ t'.group = t.group ∧ t'.allot = t.allot ∧
      (∀ p, p ≠ s.cur → s'.thr p = s.thr p) ∧
      (∀ a, memByte s'.mem a = memByte s.mem a) ∧ s'.poison = s.poison ∧
      (writesGang i = false → s'.teams = s.teams) ∧
      s'.cores = s.cores ∧ s'.groups = s.groups ∧ s'.ordered = s.ordered ∧ s'.msgs = s.msgs ∧ s'.mesh = s.mesh ∧
      s'.queues = s.queues ∧ s'.packets = s.packets ∧ s'.ctxs = s.ctxs

/-- 07 R194: sums, differences and products of w-bit operands, signed or natural as the format says, wrap modulo 2^w;
.sat of IADD and ISUB clamps to the format's range instead; IMULH is the upper half of the exact product. 02 R57: the
short forms are the .i32 forms on v registers. The instruction answers the state in which its thread has gone on. 07
R193, R194: SEL takes a where its predicate is true, else b; IMIN and IMAX take the lesser and the greater number of the
format; IABS and INEG wrap modulo 2^w. 02 R57: the short IMIN and IMAX are the .i32 ones on v registers. -/
def Obligations.IntegerArithmetic : Prop :=
  (∀ (s : State) (t : Thread) (g : Guard),
     (∀ sat o, Ready g (.iadd g sat o) s t → exec (.iadd g sat o) s = .next (finish (.iadd g sat o) s s.cur
       (t.setI o.fmt o.d (modulo o.fmt (if sat then
         max (lowest o.fmt) (min (highest o.fmt) (intA s t o.fmt o.a + intB s t o.fmt o.b))
         else intA s t o.fmt o.a + intB s t o.fmt o.b))))) ∧
     (∀ sat o, Ready g (.isub g sat o) s t → exec (.isub g sat o) s = .next (finish (.isub g sat o) s s.cur
       (t.setI o.fmt o.d (modulo o.fmt (if sat then
         max (lowest o.fmt) (min (highest o.fmt) (intA s t o.fmt o.a - intB s t o.fmt o.b))
         else intA s t o.fmt o.a - intB s t o.fmt o.b))))) ∧
     (∀ o, Ready g (.imul g o) s t → exec (.imul g o) s = .next (finish (.imul g o) s s.cur
       (t.setI o.fmt o.d (modulo o.fmt (intA s t o.fmt o.a * intB s t o.fmt o.b))))) ∧
     (∀ o, Ready g (.imulh g o) s t → exec (.imulh g o) s = .next (finish (.imulh g o) s s.cur
       (t.setI o.fmt o.d (modulo o.fmt (intA s t o.fmt o.a * intB s t o.fmt o.b / 2 ^ iwidth o.fmt))))) ∧
     (∀ o, Ready g (.imad g o) s t → exec (.imad g o) s = .next (finish (.imad g o) s s.cur
       (t.setI o.fmt o.d (modulo o.fmt
         (intA s t o.fmt o.a * intB s t o.fmt o.b + intA s t o.fmt o.c))))) ∧
     (∀ o, Ready g (.iaddShort g o) s t → exec (.iaddShort g o) s = .next (finish (.iaddShort g o) s s.cur
       (t.setV o.d (t.rv o.a + t.rv o.b)))) ∧
     (∀ o, Ready g (.isubShort g o) s t → exec (.isubShort g o) s = .next (finish (.isubShort g o) s s.cur
       (t.setV o.d (t.rv o.a - t.rv o.b)))) ∧
     (∀ o, Ready g (.imulShort g o) s t → exec (.imulShort g o) s = .next (finish (.imulShort g o) s s.cur
       (t.setV o.d (t.rv o.a * t.rv o.b))))) ∧
  (∀ (s : State) (t : Thread) (g : Guard),
     (∀ o, Ready g (.sel g o) s t → exec (.sel g o) s = .next (finish (.sel g o) s s.cur
       (t.setI o.fmt o.d (if t.pred o.q then srcNat s t (iwidth o.fmt) o.a else opbNat s t (iwidth o.fmt) o.b)))) ∧
     (∀ o, Ready g (.imin g o) s t → exec (.imin g o) s = .next (finish (.imin g o) s s.cur
       (t.setI o.fmt o.d (if intA s t o.fmt o.a ≤ intB s t o.fmt o.b then srcNat s t (iwidth o.fmt) o.a
         else opbNat s t (iwidth o.fmt) o.b)))) ∧
     (∀ o, Ready g (.imax g o) s t → exec (.imax g o) s = .next (finish (.imax g o) s s.cur
       (t.setI o.fmt o.d (if intA s t o.fmt o.a ≤ intB s t o.fmt o.b then opbNat s t (iwidth o.fmt) o.b
         else srcNat s t (iwidth o.fmt) o.a)))) ∧
     (∀ o, Ready g (.iabs g o) s t → exec (.iabs g o) s = .next (finish (.iabs g o) s s.cur
       (t.setI o.fmt o.d (modulo o.fmt (intA s t o.fmt o.a).natAbs)))) ∧
     (∀ o, Ready g (.ineg g o) s t → exec (.ineg g o) s = .next (finish (.ineg g o) s s.cur
       (t.setI o.fmt o.d (modulo o.fmt (-(intA s t o.fmt o.a)))))) ∧
     (∀ o, Ready g (.iminShort g o) s t → exec (.iminShort g o) s = .next (finish (.iminShort g o) s s.cur
       (t.setV o.d (if (t.rv o.a).toInt ≤ (t.rv o.b).toInt then t.rv o.a else t.rv o.b)))) ∧
     (∀ o, Ready g (.imaxShort g o) s t → exec (.imaxShort g o) s = .next (finish (.imaxShort g o) s s.cur
       (t.setV o.d (if (t.rv o.a).toInt ≤ (t.rv o.b).toInt then t.rv o.b else t.rv o.a)))))

/-- 07 R195: IDIV and IREM truncate toward zero; a divisor of 0 gives 2^w - 1 in a natural format, -1 or +1 by the sign
of a in a signed one, and a remainder of a; the most negative number divided by -1 gives itself. No case faults. -/
def Obligations.IntegerDivision : Prop :=
  ∀ (s : State) (t : Thread) (g : Guard) (la : BitVec 4) (o : Alu3),
    (Ready g (.idiv g la o) s t → exec (.idiv g la o) s = .next (finish (.idiv g la o) s s.cur
      (t.setI o.fmt o.d (modulo o.fmt
        (if intB s t o.fmt o.b = 0 then
          (if isigned o.fmt = false then 2 ^ iwidth o.fmt - 1 else if 0 ≤ intA s t o.fmt o.a then -1 else 1)
        else (intA s t o.fmt o.a).tdiv (intB s t o.fmt o.b)))))) ∧
    (Ready g (.irem g la o) s t → exec (.irem g la o) s = .next (finish (.irem g la o) s s.cur
      (t.setI o.fmt o.d
        (if intB s t o.fmt o.b = 0 then srcNat s t (iwidth o.fmt) o.a
        else modulo o.fmt ((intA s t o.fmt o.a).tmod (intB s t o.fmt o.b))))))

/-- 07 R194: AND, OR, XOR and NOT act on each of the w bits; the short forms are the .b32 ones (02 R57). 07 R198: BFX
takes the field at pos = b[7:0] of length len = b[15:8], zero-filled, or filled with the field's top bit in a signed
format; bits beyond w are zeros or copies of the sign. BFI puts the low len bits of b over those of a from pos = c[7:0]
up, within w. Stated bit by bit. 07 R194: POPC counts the one bits, CLZ the zeros above the highest one, CTZ those below
the lowest, w of 0, into one register whatever the width; BREV reverses the w bits. -/
def Obligations.Bits : Prop :=
  (∀ (s : State) (t : Thread) (g : Guard),
     (∀ o, Ready g (.and g o) s t → ∃ x, exec (.and g o) s = .next (finish (.and g o) s s.cur (t.setI o.fmt o.d x)) ∧
       ∀ k, x.testBit k = ((srcNat s t (iwidth o.fmt) o.a).testBit k && (opbNat s t (iwidth o.fmt) o.b).testBit k)) ∧
     (∀ o, Ready g (.or g o) s t → ∃ x, exec (.or g o) s = .next (finish (.or g o) s s.cur (t.setI o.fmt o.d x)) ∧
       ∀ k, x.testBit k = ((srcNat s t (iwidth o.fmt) o.a).testBit k || (opbNat s t (iwidth o.fmt) o.b).testBit k)) ∧
     (∀ o, Ready g (.xor g o) s t → ∃ x, exec (.xor g o) s = .next (finish (.xor g o) s s.cur (t.setI o.fmt o.d x)) ∧
       ∀ k, x.testBit k = ((srcNat s t (iwidth o.fmt) o.a).testBit k ^^ (opbNat s t (iwidth o.fmt) o.b).testBit k)) ∧
     (∀ o, iwidth o.fmt ≤ 64 → Ready g (.not g o) s t →
       ∃ x, exec (.not g o) s = .next (finish (.not g o) s s.cur (t.setI o.fmt o.d x)) ∧
       ∀ k, k < iwidth o.fmt → x.testBit k = !((srcNat s t (iwidth o.fmt) o.a).testBit k)) ∧
     (∀ o, Ready g (.andShort g o) s t → exec (.andShort g o) s = .next (finish (.andShort g o) s s.cur
       (t.setV o.d (t.rv o.a &&& t.rv o.b)))) ∧
     (∀ o, Ready g (.orShort g o) s t → exec (.orShort g o) s = .next (finish (.orShort g o) s s.cur
       (t.setV o.d (t.rv o.a ||| t.rv o.b)))) ∧
     (∀ o, Ready g (.xorShort g o) s t → exec (.xorShort g o) s = .next (finish (.xorShort g o) s s.cur
       (t.setV o.d (t.rv o.a ^^^ t.rv o.b))))) ∧
  (∀ (s : State) (t : Thread) (g : Guard),
     (∀ (o : Alu3) (a b : Nat), iwidth o.fmt ≤ 64 → a = srcNat s t (iwidth o.fmt) o.a → b = opbNat s t 32 o.b →
       Ready g (.bfx g o) s t → ∃ x, exec (.bfx g o) s = .next (finish (.bfx g o) s s.cur (t.setI o.fmt o.d x)) ∧
       ∀ k, k < iwidth o.fmt → x.testBit k =
         (let pos := b % 256
          let len := b / 256 % 256
          let bit (j : Nat) : Bool := if j < iwidth o.fmt then a.testBit j else isigned o.fmt && a.testBit (iwidth o.fmt - 1)
          if len = 0 then false
          else if k < len then bit (pos + k)
          else isigned o.fmt && bit (pos + len - 1))) ∧
     (∀ (o : Alu4) (a b c : Nat), iwidth o.fmt ≤ 64 → a = srcNat s t (iwidth o.fmt) o.a →
       b = opbNat s t (iwidth o.fmt) o.b → c = srcNat s t 32 o.c →
       Ready g (.bfi g o) s t → ∃ x, exec (.bfi g o) s = .next (finish (.bfi g o) s s.cur (t.setI o.fmt o.d x)) ∧
       ∀ k, k < iwidth o.fmt → x.testBit k =
         (if c % 256 ≤ k ∧ k < c % 256 + c / 256 % 256 then b.testBit (k - c % 256) else a.testBit k))) ∧
  (∀ (s : State) (t : Thread) (g : Guard) (o : Alu2) (a : Nat), iwidth o.fmt ≤ 64 → a = srcNat s t (iwidth o.fmt) o.a →
     (Ready g (.popc g o) s t → exec (.popc g o) s = .next (finish (.popc g o) s s.cur
       (t.setV o.d (BitVec.ofNat 32 ((List.range (iwidth o.fmt)).countP fun k => a.testBit k))))) ∧
     (Ready g (.clz g o) s t → ∃ n, exec (.clz g o) s = .next (finish (.clz g o) s s.cur (t.setV o.d (BitVec.ofNat 32 n))) ∧
       n ≤ iwidth o.fmt ∧ (∀ k, iwidth o.fmt - n ≤ k → k < iwidth o.fmt → a.testBit k = false) ∧
       (n < iwidth o.fmt → a.testBit (iwidth o.fmt - 1 - n) = true)) ∧
     (Ready g (.ctz g o) s t → ∃ n, exec (.ctz g o) s = .next (finish (.ctz g o) s s.cur (t.setV o.d (BitVec.ofNat 32 n))) ∧
       n ≤ iwidth o.fmt ∧ (∀ k, k < n → a.testBit k = false) ∧ (n < iwidth o.fmt → a.testBit n = true)) ∧
     (Ready g (.brev g o) s t → ∃ x, exec (.brev g o) s = .next (finish (.brev g o) s s.cur (t.setI o.fmt o.d x)) ∧
       ∀ k, k < iwidth o.fmt → x.testBit k = a.testBit (iwidth o.fmt - 1 - k)))

/-- 07 R197: the count is bits [7:0] of one register or immediate. SHL and SHR give 0 from a count of w on, SAR copies
of the sign; ROL turns by the count modulo w. Stated bit by bit: bit k of the result. The short forms are the 32-bit
ones (02 R57). 02 R57; 07 R197: the short shifts on v registers, whose count is bits [7:0] of register B. -/
def Obligations.Shifts : Prop :=
  (∀ (s : State) (t : Thread) (g : Guard) (o : Alu3) (n : Nat) (a : Nat),
     iwidth o.fmt ≤ 64 → n = opbNat s t 32 o.b % 256 → a = srcNat s t (iwidth o.fmt) o.a →
     (Ready g (.shl g o) s t → ∃ x, exec (.shl g o) s = .next (finish (.shl g o) s s.cur (t.setI o.fmt o.d x)) ∧
       ∀ k, k < iwidth o.fmt → x.testBit k = (decide (n ≤ k) && a.testBit (k - n))) ∧
     (Ready g (.shr g o) s t → ∃ x, exec (.shr g o) s = .next (finish (.shr g o) s s.cur (t.setI o.fmt o.d x)) ∧
       ∀ k, k < iwidth o.fmt → x.testBit k = (decide (k + n < iwidth o.fmt) && a.testBit (k + n))) ∧
     (isigned o.fmt = true → Ready g (.sar g o) s t →
       ∃ x, exec (.sar g o) s = .next (finish (.sar g o) s s.cur (t.setI o.fmt o.d x)) ∧
       ∀ k, k < iwidth o.fmt → x.testBit k = a.testBit (min (k + n) (iwidth o.fmt - 1))) ∧
     (Ready g (.rol g o) s t → ∃ x, exec (.rol g o) s = .next (finish (.rol g o) s s.cur (t.setI o.fmt o.d x)) ∧
       ∀ k, k < iwidth o.fmt → x.testBit k = a.testBit ((k + iwidth o.fmt - n % iwidth o.fmt) % iwidth o.fmt))) ∧
  (∀ (s : State) (t : Thread) (g : Guard) (o : Rrr),
     (Ready g (.shlShort g o) s t → exec (.shlShort g o) s = .next (finish (.shlShort g o) s s.cur
       (t.setV o.d (t.rv o.a <<< ((t.rv o.b).toNat % 256))))) ∧
     (Ready g (.shrShort g o) s t → exec (.shrShort g o) s = .next (finish (.shrShort g o) s s.cur
       (t.setV o.d (t.rv o.a >>> ((t.rv o.b).toNat % 256))))) ∧
     (Ready g (.sarShort g o) s t → exec (.sarShort g o) s = .next (finish (.sarShort g o) s s.cur
       (t.setV o.d ((t.rv o.a).sshiftRight ((t.rv o.b).toNat % 256))))))

/-- 07 R191, R192; 02 R51, R57: the predicate forms write qd with the function of their operands, each after its
negation; q7 reads true and a write to it is discarded. PPACK writes q0 to q7 into bits 7 to 0 of vd, zero above, and
PUNPK writes q0 to q6 from the low bits of va. 07 R196, R208: ISET and FSET write qd with their comparison, alone or
combined by and, or or, with the predicate they name. ISET compares numbers of its format. FSET compares numbers by
their value; with a NaN only .ne holds, and invalid is raised by a signalling NaN, or by any NaN under an ordering
comparison. -/
def Obligations.PredicatesAndComparisons : Prop :=
  (∀ (s : State) (t : Thread) (g : Guard),
     (∀ o, Ready g (.pand g o) s t → exec (.pand g o) s = .next (finish (.pand g o) s s.cur
       (t.setPred o.d ((t.pred o.a != o.na) && (t.pred o.b != o.nb))))) ∧
     (∀ o, Ready g (.por g o) s t → exec (.por g o) s = .next (finish (.por g o) s s.cur
       (t.setPred o.d ((t.pred o.a != o.na) || (t.pred o.b != o.nb))))) ∧
     (∀ o, Ready g (.pxor g o) s t → exec (.pxor g o) s = .next (finish (.pxor g o) s s.cur
       (t.setPred o.d ((t.pred o.a != o.na) != (t.pred o.b != o.nb))))) ∧
     (∀ o, Ready g (.pnot g o) s t → exec (.pnot g o) s = .next (finish (.pnot g o) s s.cur
       (t.setPred o.d (!(t.pred o.a != o.na))))) ∧
     (∀ o, Ready g (.pmov g o) s t → exec (.pmov g o) s = .next (finish (.pmov g o) s s.cur
       (t.setPred o.d (t.pred o.a != o.na)))) ∧
     (∀ d a b, Ready g (.pandShort g d a b) s t → exec (.pandShort g d a b) s =
       .next (finish (.pandShort g d a b) s s.cur (t.setPred d (t.pred a && t.pred b)))) ∧
     (∀ d a b, Ready g (.porShort g d a b) s t → exec (.porShort g d a b) s =
       .next (finish (.porShort g d a b) s s.cur (t.setPred d (t.pred a || t.pred b)))) ∧
     (∀ d a b, Ready g (.pxorShort g d a b) s t → exec (.pxorShort g d a b) s =
       .next (finish (.pxorShort g d a b) s s.cur (t.setPred d (t.pred a != t.pred b)))) ∧
     (∀ d a, Ready g (.pnotShort g d a) s t → exec (.pnotShort g d a) s =
       .next (finish (.pnotShort g d a) s s.cur (t.setPred d (!t.pred a)))) ∧
     (∀ d a, Ready g (.pmovShort g d a) s t → exec (.pmovShort g d a) s =
       .next (finish (.pmovShort g d a) s s.cur (t.setPred d (t.pred a)))) ∧
     (∀ d, Ready g (.ppack g d) s t → ∃ x, exec (.ppack g d) s = .next (finish (.ppack g d) s s.cur (t.setV d x)) ∧
       (∀ k : Nat, k < 8 → x.getLsbD k = t.pred (BitVec.ofNat 3 k)) ∧ x.getLsbD 7 = true ∧ x.toNat < 256) ∧
     (∀ a, Ready g (.punpk g a) s t → ∃ t', exec (.punpk g a) s = .next (finish (.punpk g a) s s.cur t') ∧
       t' = { t with q := t'.q } ∧ ∀ k : Nat, k < 7 → t'.pred (BitVec.ofNat 3 k) = (t.rv a).getLsbD k) ∧
     (∀ b, t.setPred 7#3 b = t) ∧ t.pred 7#3 = true ∧
     (∀ d b, d ≠ 7#3 → (t.setPred d b).pred d = b ∧ ∀ q, q ≠ d → (t.setPred d b).pred q = t.pred q)) ∧
  (∀ (s : State) (t : Thread) (g : Guard),
     (∀ o, Ready g (.iset g o) s t →
       ∃ c : Bool, exec (.iset g o) s = .next (finish (.iset g o) s s.cur (t.setPred o.d
         (match o.comb with | .none => c | .and q => c && t.pred q | .or q => c || t.pred q))) ∧
       (c = true ↔ match o.cmp with
         | .eq => intA s t o.fmt o.a = intB s t o.fmt o.b
         | .ne => intA s t o.fmt o.a ≠ intB s t o.fmt o.b
         | .lt => intA s t o.fmt o.a < intB s t o.fmt o.b
         | .le => intA s t o.fmt o.a ≤ intB s t o.fmt o.b
         | .gt => intA s t o.fmt o.a > intB s t o.fmt o.b
         | .ge => intA s t o.fmt o.a ≥ intB s t o.fmt o.b)) ∧
     (∀ (o : FsetOps) (a b : Nat) (c : Bool) (fl : BitVec 5), Ready g (.fset g o) s t → a = srcNat s t (fwidth o.fmt) o.a →
       b = fopbNat s t o.fmt false o.b → (c, fl) = Numbers.fcompare o.fmt o.cmp a b →
       exec (.fset g o) s = .next (finish (.fset g o) s s.cur ((t.setPred o.d
         (match o.comb with | .none => c | .and q => c && t.pred q | .or q => c || t.pred q)).addFlags fl)) ∧
       (Numbers.isNan o.fmt a = true ∨ Numbers.isNan o.fmt b = true → c = (o.cmp == .ne) ∧
         fl = if Numbers.isSnan o.fmt a ∨ Numbers.isSnan o.fmt b ∨ (o.cmp ≠ .eq ∧ o.cmp ≠ .ne) then Numbers.fInvalid
           else 0#5) ∧
       (Numbers.isNan o.fmt a = false → Numbers.isNan o.fmt b = false →
         c = Numbers.cmpKeys o.cmp (Numbers.valueKey o.fmt a) (Numbers.valueKey o.fmt b) ∧ fl = 0#5)))

/-- 07 R199, R200: LEA adds the extended and shifted operand to a, ADD64 adds it and SUB64 subtracts it, modulo 2^64; a
.i32 or immediate operand is sign-extended, a .n32 one zero-extended, and .i64 is a pair. MUL64 writes the exact product
of two 32-bit operands. A destination sp is written only where the value is at least %stklim and a multiple of 16. -/
def Obligations.AddressForms : Prop :=
  ∀ (s : State) (t : Thread) (g : Guard) (o : Addr64) (x : DWord),
    x = (match o.b, o.fmt with
      | .imm7 k, _ => k.signExtend 64
      | .lit k, _ => k.signExtend 64
      | .reg r, .i32 => (srcWord s t r).signExtend 64
      | .reg r, .n32 => (srcWord s t r).setWidth 64
      | .reg r, _ => srcDWord s t r) →
    (∀ (i : Instr) (v : DWord),
      (i = .lea g o ∧ v = srcDWord s t o.a + x <<< o.sh.toNat) ∨ (i = .add64 g o ∧ o.sh = 0#3 ∧ v = srcDWord s t o.a + x) ∨
        (i = .sub64 g o ∧ o.sh = 0#3 ∧ v = srcDWord s t o.a - x) →
      Ready g i s t →
      (∀ d, o.d = .v d → exec i s = .next (finish i s s.cur (t.setV64 d v))) ∧
      (o.d = .ln → exec i s = .next (finish i s s.cur { t with ln := v })) ∧
      (o.d = .sp → t.stklim.toNat ≤ v.toNat → v.toNat % 16 = 0 → exec i s = .next (finish i s s.cur { t with sp := v })) ∧
      (o.d = .sp → (v.toNat < t.stklim.toNat ∨ v.toNat % 16 ≠ 0) →
        exec i s = .next (takeTrap s s.cur t (mkTrap .stackLimit 0 v t.stklim)))) ∧
    (∀ o : Alu3, Ready g (.mul64 g o) s t → exec (.mul64 g o) s = .next (finish (.mul64 g o) s s.cur
      (t.setV64 o.d (BitVec.ofInt 64 (valueOf o.fmt (srcNat s t 32 o.a) * valueOf o.fmt (opbNat s t 32 o.b))))))

/-- 07 R201 to R204; 02 R57: moves. MOV writes a register, a pair, a quad, ln or sp; a value that fails the check of 07
R200 is not written to sp: it takes the stack-limit exception, with the value and %stklim. MOVI extends its 11 bits by
the sign in a signed format and by zeros in a natural one. LIT writes its literal. MOVS writes the s register, or the
pair, of the thread's gang. The short MOV is .b32. A 128-bit immediate is the model's sign extension (log 16). -/
def Obligations.Moves : Prop :=
  ∀ (s : State) (t : Thread) (g : Guard),
    (∀ o, Ready g (.movShort g o) s t → exec (.movShort g o) s = .next (finish (.movShort g o) s s.cur
      (t.setV o.d (t.rv o.a)))) ∧
    (∀ o, Ready g (.mov g o) s t →
      (∀ d, o.d = .v d → o.fmt ≠ .b128 → exec (.mov g o) s = .next (finish (.mov g o) s s.cur
        (t.setI o.fmt d (opbNat s t (iwidth o.fmt) o.a)))) ∧
      (∀ d n, o.d = .v d → o.fmt = .b128 → o.a = .reg (.v n) → exec (.mov g o) s = .next (finish (.mov g o) s s.cur
        ((t.setV64 d (t.rv64 n)).setV64 (d + 2#7) (t.rv64 (n + 2#7))))) ∧
      (∀ d k, o.d = .v d → o.fmt = .b128 → o.a = .lit k → exec (.mov g o) s = .next (finish (.mov g o) s s.cur
        ((t.setV64 d (k.signExtend 64)).setV64 (d + 2#7) (if k.msb then BitVec.allOnes 64 else 0#64)))) ∧
      (∀ d k, o.d = .v d → o.fmt = .b128 → o.a = .imm7 k → exec (.mov g o) s = .next (finish (.mov g o) s s.cur
        ((t.setV64 d (k.signExtend 64)).setV64 (d + 2#7) (if k.msb then BitVec.allOnes 64 else 0#64)))) ∧
      (o.d = .ln → exec (.mov g o) s = .next (finish (.mov g o) s s.cur
        { t with ln := BitVec.ofNat 64 (opbNat s t 64 o.a) })) ∧
      (o.d = .sp → t.stklim.toNat ≤ opbNat s t 64 o.a → opbNat s t 64 o.a % 16 = 0 →
        exec (.mov g o) s = .next (finish (.mov g o) s s.cur { t with sp := BitVec.ofNat 64 (opbNat s t 64 o.a) })) ∧
      (o.d = .sp → (opbNat s t 64 o.a < t.stklim.toNat ∨ opbNat s t 64 o.a % 16 ≠ 0) → exec (.mov g o) s =
        .next (takeTrap s s.cur t (mkTrap .stackLimit 0 (BitVec.ofNat 64 (opbNat s t 64 o.a)) t.stklim)))) ∧
    (∀ o, Ready g (.movi g o) s t → exec (.movi g o) s = .next (finish (.movi g o) s s.cur
      (t.setI o.fmt o.d (if isigned o.fmt then modulo o.fmt o.imm.toInt else o.imm.toNat)))) ∧
    (∀ d x, Ready g (.lit g d x) s t → exec (.lit g d x) s = .next (finish (.lit g d x) s s.cur (t.setV d x))) ∧
    (∀ o tm gg, Ready g (.movs g o) s t → s.team t.team = some tm → tm.gangs.find? (·.index == t.home) = some gg →
      (ipair o.fmt = true → o.d.getLsbD 0 = false) →
      ∃ s', exec (.movs g o) s = .next (finish (.movs g o) s' s.cur t) ∧ s' = { s with teams := s'.teams } ∧
        sread s' t o.d = BitVec.ofNat 32 (opbNat s t (iwidth o.fmt) o.a) ∧
        (ipair o.fmt = true → sread s' t (o.d + 1#6) = BitVec.ofNat 32 (opbNat s t (iwidth o.fmt) o.a / 2 ^ 32)) ∧
        (∀ n, n ≠ o.d → (ipair o.fmt = true → n ≠ o.d + 1#6) → sread s' t n = sread s t n))

/-- 07 R224, R225: GETS writes the value the special register has, into a pair for a 64-bit register; SETS writes the
flags from bits [4:0], and %stklim with bits [3:0] cleared, and does not test sp. 07 R222, R223; 06 R178 to R180: RNGD
writes the draw of the thread's key, counter and position for index n, or its upper half, and moves the counter on, its
guard true or false. RNGS sets the thread's counter, and the key of its gang, or of the thread alone when it is
promoted. -/
def Obligations.SpecialRegisters : Prop :=
  (∀ (s : State) (t : Thread) (g : Guard),
     (∀ d r, Ready g (.gets g d r) s t → ∃ x : DWord,
       exec (.gets g d r) s = .next (finish (.gets g d r) s s.cur
         (if sregPair r then t.setV64 d x else t.setV d (x.setWidth 32))) ∧
       match r with
       | .chron => x = BitVec.ofNat 64 s.chron
       | .beat => x = s.beat
       | .lane => x.toNat = s.cur / 16 % 128
       | .bank => x.toNat = s.cur / 16 % 128 / 32
       | .core => s.cur < 144 * 2048 → x.toNat = s.cur / 2048 ∧ x.toNat < 144
       | .tid => x = t.tid.setWidth 64
       | .gang => (t.gang = none → x = 0xFFFFFFFF#64) ∧ ∀ k, t.gang = some k → x = BitVec.ofNat 64 k
       | .team => ∀ tm, s.team t.team = some tm → x = tm.index.setWidth 64
       | .energy => x = BitVec.ofNat 64 (s.core (s.cur / 2048)).energy
       | .fpflags => x = t.fpflags.setWidth 64
       | .fsp => x = BitVec.ofNat 64 (t.spilled.length + t.chip.length)
       | .stklim => x = t.stklim
       | .region => x = t.region.setWidth 64
       | .pnone => x = t.pnone
       | .pskip => x = t.pskip
       | .pdefer => x = t.pdefer) ∧
     (∀ a, Ready g (.sets g .fpflags a) s t → exec (.sets g .fpflags a) s = .next (finish (.sets g .fpflags a) s s.cur
       { t with fpflags := (t.rv a).extractLsb' 0 5 })) ∧
     (∀ a, Ready g (.sets g .stklim a) s t → exec (.sets g .stklim a) s = .next (finish (.sets g .stklim a) s s.cur
       { t with stklim := t.rv64 a - BitVec.ofNat 64 ((t.rv64 a).toNat % 16) }))) ∧
  (∀ (s : State) (t : Thread) (g : Guard),
     (∀ la o, Ready g (.rngd g la o) s t → ∃ x : DWord,
       x = Numbers.rand (drawKey s t) t.ctr (drawPos s s.cur t) (opbNat s t 32 o.b % 128) ∧
       exec (.rngd g la o) s = .next (finish (.rngd g la o) s s.cur
         (if ipair o.fmt then t.setV64 o.d x else t.setV o.d ((x >>> 32).setWidth 32)))) ∧
     (∀ la o, s.thr s.cur = some t → (t.pred g.q ^^ g.neg) = false →
       ∃ s' t', exec (.rngd g la o) s = .next s' ∧ s'.thr s.cur = some t' ∧ t'.ctr = t.ctr + 1#64 ∧ t'.v = t.v) ∧
     (∀ a b, Ready g (.rngs g a b) s t → t.gang = none → exec (.rngs g a b) s = .next (finish (.rngs g a b) s s.cur
       { t with ctr := t.rv64 b, key := some (t.rv64 a) })) ∧
     (∀ a b k tm gg, Ready g (.rngs g a b) s t → t.gang = some k → s.team t.team = some tm →
       tm.gangs.find? (·.index == t.home) = some gg →
       ∃ s', exec (.rngs g a b) s = .next (finish (.rngs g a b) s' s.cur { t with ctr := t.rv64 b }) ∧
         s' = { s with teams := s'.teams } ∧ (homeGang s' t).map (·.key) = some (t.rv64 a)))

/-- 07 R205, R206: FADD, FSUB, FMUL and FFMA write RoundToFormat of the exact sum, difference, product or fused sum of
their decoded operands, in the mode of the instruction, and set its flags; under x2 both 16-bit elements so, with the
union of their flags. 02 R57: the short forms are .f32 under RN, and short FFMA takes source C from its destination. 07
R207: FMIN and FMAX write an operand's exact bits, or the default NaN for two NaNs; a NaN and a number give the number,
the other operand is no greater (no less), -0 lies below +0, and only a signalling NaN raises a flag, invalid. The short
forms are .f32 (02 R57). -/
def Obligations.FloatArithmetic : Prop :=
  (∀ (s : State) (t : Thread) (g : Guard),
     (∀ (i : Instr) (o : Flt3) (f : Nat → Nat → Nat × BitVec 5),
       (i = .fadd g o ∧ f = fun a b => Numbers.round o.fmt o.rnd 0
         (Numbers.exactSum [Numbers.decode o.fmt a, Numbers.decode o.fmt b])) ∨
       (i = .fsub g o ∧ f = fun a b => Numbers.round o.fmt o.rnd 0
         (Numbers.exactSum [Numbers.decode o.fmt a, Numbers.neg (Numbers.decode o.fmt b)])) ∨
       (i = .fmul g o ∧ f = fun a b => Numbers.round o.fmt o.rnd 0
         (Numbers.mul (Numbers.decode o.fmt a) (Numbers.decode o.fmt b))) →
       Ready g i s t →
       (o.x2 = false → exec i s = .next (finish i s s.cur ((t.setF o.fmt o.d
           (f (srcNat s t (fwidth o.fmt) o.a) (fopbNat s t o.fmt false o.b)).1).addFlags
           (f (srcNat s t (fwidth o.fmt) o.a) (fopbNat s t o.fmt false o.b)).2))) ∧
       (∀ (a b : Nat) (lo hi : Nat × BitVec 5), o.x2 = true → a = (srcWord s t o.a).toNat → b = fopbNat s t o.fmt true o.b →
         lo = f (a % 65536) (b % 65536) → hi = f (a / 65536 % 65536) (b / 65536 % 65536) →
         exec i s = .next (finish i s s.cur
           ((t.setV o.d (BitVec.ofNat 32 (hi.1 * 65536 + lo.1))).addFlags (lo.2 ||| hi.2))))) ∧
     (∀ (o : Flt4) (f : Nat → Nat → Nat → Nat × BitVec 5),
       (f = fun a b c => Numbers.round o.fmt o.rnd 0
         (Numbers.exactSum [Numbers.mul (Numbers.decode o.fmt a) (Numbers.decode o.fmt b), Numbers.decode o.fmt c])) →
       Ready g (.ffma g o) s t →
       (o.x2 = false → ∀ r, r = f (srcNat s t (fwidth o.fmt) o.a) (fopbNat s t o.fmt false o.b)
           (srcNat s t (fwidth o.fmt) o.c) →
         exec (.ffma g o) s = .next (finish (.ffma g o) s s.cur ((t.setF o.fmt o.d r.1).addFlags r.2))) ∧
       (∀ (a b c : Nat) (lo hi : Nat × BitVec 5), o.x2 = true → a = (srcWord s t o.a).toNat →
         b = fopbNat s t o.fmt true o.b → c = (srcWord s t o.c).toNat →
         lo = f (a % 65536) (b % 65536) (c % 65536) → hi = f (a / 65536) (b / 65536) (c / 65536) →
         exec (.ffma g o) s = .next (finish (.ffma g o) s s.cur
           ((t.setV o.d (BitVec.ofNat 32 (hi.1 * 65536 + lo.1))).addFlags (lo.2 ||| hi.2))))) ∧
     (∀ (i : Instr) (o : Rrr) (x : Numbers.Val),
       (i = .faddShort g o ∧ x = Numbers.exactSum [Numbers.decode .f32 (t.rv o.a).toNat, Numbers.decode .f32 (t.rv o.b).toNat]) ∨
       (i = .fsubShort g o ∧
         x = Numbers.exactSum [Numbers.decode .f32 (t.rv o.a).toNat, Numbers.neg (Numbers.decode .f32 (t.rv o.b).toNat)]) ∨
       (i = .fmulShort g o ∧ x = Numbers.mul (Numbers.decode .f32 (t.rv o.a).toNat) (Numbers.decode .f32 (t.rv o.b).toNat)) ∨
       (i = .ffmaShort g o ∧ x = Numbers.exactSum [Numbers.mul (Numbers.decode .f32 (t.rv o.a).toNat)
         (Numbers.decode .f32 (t.rv o.b).toNat), Numbers.decode .f32 (t.rv o.d).toNat]) →
       Ready g i s t → exec i s = .next (finish i s s.cur
         ((t.setV o.d (BitVec.ofNat 32 (Numbers.round .f32 .rn 0 x).1)).addFlags (Numbers.round .f32 .rn 0 x).2)))) ∧
  (∀ (s : State) (t : Thread) (g : Guard) (i : Instr) (f : FFmt) (d : VReg) (a b : Nat) (big : Bool),
     (∃ o : Flt3, o.x2 = false ∧ f = o.fmt ∧ d = o.d ∧ a = srcNat s t (fwidth f) o.a ∧ b = fopbNat s t f false o.b ∧
       ((i = .fmin g o ∧ big = false) ∨ (i = .fmax g o ∧ big = true))) ∨
     (∃ o : Rrr, f = .f32 ∧ d = o.d ∧ a = (t.rv o.a).toNat ∧ b = (t.rv o.b).toNat ∧
       ((i = .fminShort g o ∧ big = false) ∨ (i = .fmaxShort g o ∧ big = true))) →
     a < 2 ^ fwidth f → b < 2 ^ fwidth f → Ready g i s t →
     ∃ (x : Nat) (fl : BitVec 5), exec i s = .next (finish i s s.cur ((t.setF f d x).addFlags fl)) ∧
       (Numbers.isNan f a = true → Numbers.isNan f b = true → x = Numbers.nanBits f) ∧
       (Numbers.isNan f a = true → Numbers.isNan f b = false → x = b) ∧
       (Numbers.isNan f a = false → Numbers.isNan f b = true → x = a) ∧
       (Numbers.isNan f a = false → Numbers.isNan f b = false → (x = a ∨ x = b) ∧
         (big = false → Numbers.orderKey f x ≤ Numbers.orderKey f a ∧ Numbers.orderKey f x ≤ Numbers.orderKey f b) ∧
         (big = true → Numbers.orderKey f a ≤ Numbers.orderKey f x ∧ Numbers.orderKey f b ≤ Numbers.orderKey f x)) ∧
       fl = (if Numbers.isSnan f a ∨ Numbers.isSnan f b then Numbers.fInvalid else 0#5))

/-- 07 R209 to R212: FCLASS writes its one-hot class, each of the ten, and sets no flag. FCVT rounds the decoded source
to the destination format, under RS with the draw of element 0. FTOI rounds to an integer and ITOF from one. FRND rounds
to an integer in its own format, its sign kept, inexact where the result differs. Each sets the flags of its rounding.
-/
def Obligations.FloatConversions : Prop :=
  ∀ (s : State) (t : Thread) (g : Guard),
    (∀ o, Ready g (.fclass g o) s t → ∀ a k : Nat, a = srcNat s t (fwidth o.fmt) o.a →
      k = (match Numbers.decode o.fmt a with
        | .snan => 0
        | .qnan => 1
        | .inf z => if z then 2 else 9
        | .zero z => if z then 5 else 6
        | x => if a % Numbers.signBit o.fmt < 2 ^ (fprec o.fmt - 1) then (if x.sign then 4 else 7)
            else (if x.sign then 3 else 8)) →
      exec (.fclass g o) s = .next (finish (.fclass g o) s s.cur (t.setV o.d (BitVec.ofNat 32 (2 ^ k))))) ∧
    (∀ o, Ready g (.fcvt g o) s t → ∀ r, r = Numbers.round o.fmt o.rnd
        (if o.rnd = .rs then (Numbers.rand (drawKey s t) t.ctr (drawPos s s.cur t) 0).toNat / 2 ^ 32 else 0)
        (Numbers.decode o.src (srcNat s t (fwidth o.src) o.a)) →
      exec (.fcvt g o) s = .next (finish (.fcvt g o) s s.cur ((t.setF o.fmt o.d r.1).addFlags r.2))) ∧
    (∀ o, Ready g (.ftoi g o) s t → ∀ r, r = Numbers.roundInt o.int o.rnd
        (Numbers.decode o.fmt (srcNat s t (fwidth o.fmt) o.a)) →
      exec (.ftoi g o) s = .next (finish (.ftoi g o) s s.cur ((t.setI o.int o.d (modulo o.int r.1)).addFlags r.2))) ∧
    (∀ o, Ready g (.itof g o) s t → ∀ r, r = Numbers.round o.fmt o.rnd 0 (Numbers.ofInt (intA s t o.int o.a)) →
      exec (.itof g o) s = .next (finish (.itof g o) s s.cur ((t.setF o.fmt o.d r.1).addFlags r.2))) ∧
    (∀ o, Ready g (.frnd g o) s t → ∀ a : Nat, a = srcNat s t (fwidth o.fmt) o.a → ∃ (x : Nat) (fl : BitVec 5),
      exec (.frnd g o) s = .next (finish (.frnd g o) s s.cur ((t.setF o.fmt o.d x).addFlags fl)) ∧
      (Numbers.isNan o.fmt a = true → x = Numbers.nanBits o.fmt ∧
        fl = if Numbers.isSnan o.fmt a then Numbers.fInvalid else 0#5) ∧
      (∀ z, Numbers.decode o.fmt a = .inf z ∨ Numbers.decode o.fmt a = .zero z → x = a ∧ fl = 0#5) ∧
      (∀ z n e k, Numbers.decode o.fmt a = .fin z n e → k = Numbers.roundAt z o.rnd 0 n 1 e 0 →
        x = (if k.1 = 0 then (if z then Numbers.signBit o.fmt else 0) else (Numbers.roundPos o.fmt .rz 0 z k.1 1 0).1) ∧
        fl = if k.2 then Numbers.fInexact else 0#5))

/-- 06 R161, R169, Table 3: the operations of the long-latency floating forms on NaNs and on special operands, row by
row of Table 3, and the logarithm of 1. A NaN gives the default NaN, with invalid where one is signalling. 07 R213; 06
R169, Table 3: FDIV, its special operands and its rounding: 0/0 and inf/inf give NaN and invalid, a finite nonzero
number over 0 a signed infinity and division by zero, and a quotient of finite numbers is rounded once. -/
def Obligations.FloatSpecials : Prop :=
  (∀ (s : State) (t : Thread) (g : Guard) (la : BitVec 4) (o : Flt2) (x : Numbers.Val),
     x = Numbers.decode o.fmt (srcNat s t (fwidth o.fmt) o.a) →
     ∀ i : Instr, (i = .fsqrt g la o ∨ i = .frcp g la o ∨ i = .frsq g la o ∨ i = .fexp2 g la o ∨ i = .flog2 g la o ∨
       i = .fsin g la o ∨ i = .fcos g la o ∨ i = .ftanh g la o) →
     Ready g i s t → ∃ (r : Nat) (fl : BitVec 5),
       exec i s = .next (finish i s s.cur ((t.setF o.fmt o.d r).addFlags fl)) ∧
       (x = .snan → r = Numbers.nanBits o.fmt ∧ fl = Numbers.fInvalid) ∧
       (x = .qnan → r = Numbers.nanBits o.fmt ∧ fl = 0#5) ∧
       (∀ n e, x = .fin true n e → i = .fsqrt g la o ∨ i = .frsq g la o ∨ i = .flog2 g la o →
         r = Numbers.nanBits o.fmt ∧ fl = Numbers.fInvalid) ∧
       (∀ z, x = .zero z → i = .fsqrt g la o ∨ i = .fsin g la o ∨ i = .ftanh g la o →
         r = (if z then Numbers.signBit o.fmt else 0) ∧ fl = 0#5) ∧
       (∀ z, x = .zero z → i = .flog2 g la o → r = Numbers.signBit o.fmt + Numbers.infBits o.fmt ∧ fl = Numbers.fDiv) ∧
       (∀ z, x = .zero z → i = .frcp g la o ∨ i = .frsq g la o → Numbers.hasInf o.fmt = true →
         r = (if z then Numbers.signBit o.fmt else 0) + Numbers.infBits o.fmt ∧ fl = Numbers.fDiv) ∧
       (∀ z, x = .inf z → i = .fsin g la o ∨ i = .fcos g la o → r = Numbers.nanBits o.fmt ∧ fl = Numbers.fInvalid) ∧
       (x = .inf false → i = .fsqrt g la o ∨ i = .fexp2 g la o ∨ i = .flog2 g la o → Numbers.hasInf o.fmt = true →
         r = Numbers.infBits o.fmt ∧ fl = 0#5) ∧
       (x = .inf true → i = .fexp2 g la o → r = 0 ∧ fl = 0#5) ∧
       (∀ z, x = .inf z → i = .frcp g la o → r = (if z then Numbers.signBit o.fmt else 0) ∧ fl = 0#5) ∧
       (x = .inf true → i = .fsqrt g la o ∨ i = .frsq g la o ∨ i = .flog2 g la o →
         r = Numbers.nanBits o.fmt ∧ fl = Numbers.fInvalid) ∧
       (x = .inf false → i = .frsq g la o → r = 0 ∧ fl = 0#5) ∧
       (∀ one, (o.fmt = .f32 ∧ one = 0x3F800000) ∨ (o.fmt = .f16 ∧ one = 0x3C00) →
         (∀ z, x = .zero z → i = .fcos g la o ∨ i = .fexp2 g la o → r = one ∧ fl = 0#5) ∧
         (∀ z, x = .inf z → i = .ftanh g la o → r = (if z then Numbers.signBit o.fmt else 0) + one ∧ fl = 0#5) ∧
         (srcNat s t (fwidth o.fmt) o.a = one → i = .flog2 g la o → r = 0 ∧ fl = 0#5)) ∧
       (∀ z n e, x = .fin z n e → i = .frcp g la o → (r, fl) = Numbers.round o.fmt o.rnd 0 (.frac z 1 n (0 - e)))) ∧
  (∀ (s : State) (t : Thread) (g : Guard) (la : BitVec 4) (o : Flt3) (x y : Numbers.Val), o.x2 = false →
     x = Numbers.decode o.fmt (srcNat s t (fwidth o.fmt) o.a) → y = Numbers.decode o.fmt (fopbNat s t o.fmt false o.b) →
     Ready g (.fdiv g la o) s t → ∃ (r : Nat) (fl : BitVec 5),
       exec (.fdiv g la o) s = .next (finish (.fdiv g la o) s s.cur ((t.setF o.fmt o.d r).addFlags fl)) ∧
       (x = .snan ∨ y = .snan → r = Numbers.nanBits o.fmt ∧ fl = Numbers.fInvalid) ∧
       (x ≠ .snan → y ≠ .snan → x = .qnan ∨ y = .qnan → r = Numbers.nanBits o.fmt ∧ fl = 0#5) ∧
       (∀ a b, (x = .zero a ∧ y = .zero b) ∨ (x = .inf a ∧ y = .inf b) → r = Numbers.nanBits o.fmt ∧ fl = Numbers.fInvalid) ∧
       (∀ a n e b, x = .fin a n e → y = .zero b → Numbers.hasInf o.fmt = true →
         r = (if a != b then Numbers.signBit o.fmt else 0) + Numbers.infBits o.fmt ∧ fl = Numbers.fDiv) ∧
       (∀ a b, x = .inf a → (y = .zero b ∨ ∃ n e, y = .fin b n e) → Numbers.hasInf o.fmt = true →
         r = (if a != b then Numbers.signBit o.fmt else 0) + Numbers.infBits o.fmt ∧ fl = 0#5) ∧
       (∀ a b, (x = .zero a ∨ ∃ n e, x = .fin a n e) → y = .inf b →
         r = (if a != b then Numbers.signBit o.fmt else 0) ∧ fl = 0#5) ∧
       (∀ a b n e, x = .zero a → y = .fin b n e → r = (if a != b then Numbers.signBit o.fmt else 0) ∧ fl = 0#5) ∧
       (∀ a n e b m k, x = .fin a n e → y = .fin b m k →
         (r, fl) = Numbers.round o.fmt o.rnd 0 (.frac (a != b) n m (e - k))))

/-- 07 R215, R216: BXD writes the FP32 value of the element under its exponent pair and sets no flag; BXEX puts bits
[15:0] of va into the half of the register of the exponent block that j and bs name, and keeps the other half. 07 R214;
06 R176: BXQ gives every member the element the quantiser finds for its value, the exponent pair in half h of its ve,
the other half as it was, and its own flags. That both halves of ve hold so also where vd is ve, the pair's half being
written after the element, is the model's choice: log 104 (DESIGN CHOICE, unsafe). -/
def Obligations.BlockForms : Prop :=
  (∀ (s : State) (t : Thread) (g : Guard),
     (∀ o, Ready g (.bxd g o) s t → ∀ e : Nat, e = (t.rv o.e).toNat / (if o.hi then 65536 else 1) % 65536 →
       exec (.bxd g o) s = .next (finish (.bxd g o) s s.cur (t.setV o.d (BitVec.ofNat 32
         (Numbers.round .f32 .rn 0 (Numbers.bxDecode o.bx4 (t.rv o.a).toNat (e % 256) (e / 256))).1)))) ∧
     (∀ o, Ready g (.bxex g o) s t → ∃ (r : VReg) (x : Word),
       r.toNat = (o.base.toNat + (if o.bs then 4 else 0) + o.j.toNat / 2) % 128 ∧
       exec (.bxex g o) s = .next (finish (.bxex g o) s s.cur (t.setV r x)) ∧
       (o.j.getLsbD 0 = true → x.extractLsb' 16 16 = (t.rv o.a).extractLsb' 0 16 ∧
         x.extractLsb' 0 16 = (t.rv r).extractLsb' 0 16) ∧
       (o.j.getLsbD 0 = false → x.extractLsb' 0 16 = (t.rv o.a).extractLsb' 0 16 ∧
         x.extractLsb' 16 16 = (t.rv r).extractLsb' 16 16))) ∧
  (∀ (s : State) (g : Guard) (ps : List Nat) (la : BitVec 4) (o : BxOps) (xs : List Nat),
     GatheredWhole false g (.bxq g la o) s ps →
     xs = (List.range 32).map (fun k => ((memberAt s ps k).map fun t => (t.rv o.a).toNat).getD 0) →
     ∃ s', exec (.bxq g la o) s = .next s' ∧ GroupDone (.bxq g la o) g s s' ps ∧
       ∀ k t e, memberAt s ps k = some t → (Numbers.quantise o.bx4 xs).2.2[k]? = some e →
         ∃ t', memberAt s' ps k = some t' ∧ (o.d ≠ o.e → t'.rv o.d = BitVec.ofNat 32 e.1) ∧ t'.fpflags = t.fpflags ||| e.2 ∧
           getHalf o.hi (t'.rv o.e) = BitVec.ofNat 16 ((Numbers.quantise o.bx4 xs).2.1 * 256 + (Numbers.quantise o.bx4 xs).1) ∧
           getHalf (!o.hi) (t'.rv o.e) = getHalf (!o.hi) (t.rv o.e))

/-! Control transfer and the system instructions. -/

/-- 07 R186 to R188, R190; 02 R57, R69: a transfer goes to its target once the target passes the check of 02 R68: pc
plus four times the displacement, or the value of a register pair, or ln. A call writes the address of the next
instruction to ln; NOP only goes on. 07 R187: BRC compares its registers in its format and branches when the comparison
holds, to pc plus four times the displacement; else it goes on. A floating comparison sets its flags either way. -/
def Obligations.ControlTransfers : Prop :=
  (∀ (s : State) (t : Thread) (g : Guard) (i : Instr) (v : DWord),
     checkTarget s (coreOf s.cur) (ctxOf s t) t.pri v = .ok () → Ready g i s t →
     ((∃ d : BitVec 21, i = .braShort g d ∧ v = t.pc + 4#64 * d.signExtend 64) ∨
      (∃ d : BitVec 28, i = .bra g (.d28 d) ∧ v = t.pc + 4#64 * d.signExtend 64) ∨
      (∃ d : Word, i = .bra g (.d32 d) ∧ v = t.pc + 4#64 * d.signExtend 64) ∨
      (∃ a, i = .brx g a ∧ v = srcDWord s t a) ∨ ((i = .ret g ∨ i = .retShort g) ∧ v = t.ln) →
       exec i s = .next (goOn i s s.cur t v)) ∧
     ((∃ d : BitVec 21, i = .callShort g d ∧ v = t.pc + 4#64 * d.signExtend 64) ∨
      (∃ d : BitVec 28, i = .call g (.d28 d) ∧ v = t.pc + 4#64 * d.signExtend 64) ∨
      (∃ d : Word, i = .call g (.d32 d) ∧ v = t.pc + 4#64 * d.signExtend 64) ∨
      (∃ a, i = .callx g a ∧ v = srcDWord s t a) →
       exec i s = .next (goOn i s s.cur { t with ln := nextPc t.pc (encode i).length } v)) ∧
     (i = .nop g ∨ i = .nopShort g → exec i s = .next (finish i s s.cur t))) ∧
  (∀ (s : State) (t : Thread) (g : Guard) (o : BrcOps) (c : Bool) (fl : BitVec 5) (v : DWord),
     (v = t.pc + 4#64 * (match o.disp with | .d18 d => d.signExtend 64 | .d32 d => d.signExtend 64)) →
     (match o.fmt with
      | .int f => fl = 0#5 ∧ c = Numbers.cmpKeys o.cmp (valueOf f (if ipair f then (t.rv64 o.a).toNat else (t.rv o.a).toNat))
           (valueOf f (if ipair f then (t.rv64 o.b).toNat else (t.rv o.b).toNat))
      | .flt f => (c, fl) = Numbers.fcompare f o.cmp
           (if f = .f64 then (t.rv64 o.a).toNat else (t.rv o.a).toNat % 2 ^ fwidth f)
           (if f = .f64 then (t.rv64 o.b).toNat else (t.rv o.b).toNat % 2 ^ fwidth f)) →
     Ready g (.brc g o) s t →
     (c = true → checkTarget s (coreOf s.cur) (ctxOf s t) t.pri v = .ok () →
       exec (.brc g o) s = .next (goOn (.brc g o) s s.cur (t.addFlags fl) v)) ∧
     (c = false → exec (.brc g o) s = .next (finish (.brc g o) s s.cur (t.addFlags fl))))

/-- 02 R68: a target whose bits [1:0] are not zero, whose bits [5:0] lie from 60 to 63, whose bit of the target mask is
clear or at which no instruction starts raises the bad-target fault, with the target as its address; a fault met while
the target's line is fetched is that fetch's. The transferring thread takes it with its pc and ln as they were: every
branch and call, BRC where it branches, and the return from an emulation handler. The model's readings of its own in it:
log 24, log 32. -/
def Obligations.BadTargets : Prop :=
  ∀ (s : State) (t : Thread) (v : DWord) (core ctx pri : Nat),
    (v.toNat % 4 ≠ 0 ∨ 60 ≤ v.toNat % 64 → checkTarget s core ctx pri v = .trap (mkTrap .badTarget 0 v)) ∧
    (∀ line, v.toNat % 4 = 0 → v.toNat % 64 < 60 → fetchLine s core ctx pri v = .ok line →
      ((lineWord line).getLsbD (v.toNat % 64 / 4) = false ∨ startsAt line (v.toNat % 64 / 4) 16 0 = false →
        checkTarget s core ctx pri v = .trap (mkTrap .badTarget 0 v)) ∧
      ((lineWord line).getLsbD (v.toNat % 64 / 4) = true → startsAt line (v.toNat % 64 / 4) 16 0 = true →
        checkTarget s core ctx pri v = .ok ())) ∧
    (∀ tr, v.toNat % 4 = 0 → v.toNat % 64 < 60 → fetchLine s core ctx pri v = .trap tr →
      checkTarget s core ctx pri v = .trap tr) ∧
    (∀ (g : Guard) (i : Instr) (tr : Trap), (i = .ret g ∨ i = .retShort g) ∧ v = t.ln ∨
        (∃ a, (i = .brx g a ∨ i = .callx g a) ∧ v = srcDWord s t a) ∨
        (∃ d : BitVec 21, (i = .braShort g d ∨ i = .callShort g d) ∧ v = t.pc + 4#64 * d.signExtend 64) ∨
        (∃ d : BitVec 28, (i = .bra g (.d28 d) ∨ i = .call g (.d28 d)) ∧ v = t.pc + 4#64 * d.signExtend 64) ∨
        (∃ d : Word, (i = .bra g (.d32 d) ∨ i = .call g (.d32 d)) ∧ v = t.pc + 4#64 * d.signExtend 64) ∨
        (∃ o : BrcOps, i = .brc g o ∧ (brcTaken o t).1 = true ∧
          v = t.pc + 4#64 * (match o.disp with | .d18 d => d.signExtend 64 | .d32 d => d.signExtend 64)) ∨
        (∃ (l : List (Nat × Nat)) (q : Nat → DWord), i = .emuret g ∧ t.emu = some (groupTids s t) ∧ t.sp.toNat % 8 = 0 ∧
          locateRange s s.cur t false t.sp 64 Access.load = .ok l ∧ piecesPoisoned s l = false ∧
          (∀ k, q k = BitVec.ofNat 64 (leNat (((readPieces s l).drop (8 * k)).take 8))) ∧ (q 7).toNat < 3 ∧
          v = nextPc (q 1) (emuLen (q 0))) →
      Ready g i s t → checkTarget s (coreOf s.cur) (ctxOf s t) t.pri v = .trap tr →
      exec i s = .next (takeTrap s s.cur t tr))

/-- 19 R396, R400; 02 R75: taking an exception. The thread's record is produced, last among those its core holds; with
no instruction of the thread incomplete it is parked and marked replayable, its pc and every register as they were, and
else it stalls with its exception; nothing else changes. As the last of the incomplete ones completes, it is parked. 19
R401, Table 4: the record of a thread's exception, field by field; the system-call record carries v0 to v7 in bytes 32
to 63. -/
def Obligations.ExceptionEntry : Prop :=
  (∀ (s : State) (p : Nat) (t : Thread) (tr : Trap),
     (∃ r : HeldRecord, (∀ u, u = (if t.board = [] then { t with status := .parked (.trap tr false), replay := true }
           else { t with status := .stalled (.trap tr) }) → takeTrap s p t tr =
         { s with threads := mset s.threads p u, records := s.records ++ [r], serial := s.serial + 1 }) ∧
       r.unit = coreOf p ∧ r.ctx = ctxOf s t ∧ r.place = some p ∧ r.bytes = threadRecord s p t tr ∧
       r.kind = (if tr.cause = .systemCall then 4 else 1)) ∧
     (t.board = [] →
       (takeTrap s p t tr).thr p = some { t with status := .parked (.trap tr false), replay := true }) ∧
     (∀ q, q ≠ p → (takeTrap s p t tr).thr q = s.thr q) ∧
     (∀ e, t.board = [e] → s.thr p = some t → t.status = .stalled (.trap tr) →
       exec (.longLatencyCompletion p e.id) s = .next { s with threads := mset s.threads p { t with
         board := [], status := .parked (.trap tr false), replay := true } })) ∧
  (∀ (s : State) (p : Nat) (t : Thread) (tr : Trap) (w : Nat → DWord), p < 144 * 2048 → ctxOf s t < 4096 → tr.sub < 16 →
     (∀ k, w k = BitVec.ofNat 64 (leNat (((threadRecord s p t tr).drop (8 * k)).take 8))) →
     (threadRecord s p t tr).length = 64 ∧
     (w 0).extractLsb' 0 4 = (if tr.cause = .systemCall then 4#4 else 1#4) ∧
     ((w 0).extractLsb' 4 6).toNat = tr.cause.number ∧ ((w 0).extractLsb' 10 4).toNat = tr.sub ∧
     ((w 0).extractLsb' 14 12).toNat = ctxOf s t ∧ ((w 0).extractLsb' 26 8).toNat = p / 2048 ∧
     ((w 0).extractLsb' 34 7).toNat = p / 16 % 128 ∧ ((w 0).extractLsb' 41 4).toNat = p % 16 ∧
     (w 0).getLsbD 45 = t.gang.isNone ∧ (w 0).extractLsb' 46 11 = t.tag ∧ (w 0).extractLsb' 57 7 = 0#7 ∧
     (w 1).extractLsb' 32 32 = t.tid ∧ (∀ tm, s.team t.team = some tm → (w 1).extractLsb' 0 32 = tm.serial) ∧
     (w 2).extractLsb' 0 57 = (tr.at_.getD t.pc).extractLsb' 0 57 ∧ w 3 = tr.addr ∧
     (tr.cause ≠ .systemCall → (w 4).extractLsb' 0 57 = t.region ∧ ((w 4).extractLsb' 57 7).toNat = min t.replays 127 ∧
       w 5 = tr.info0 ∧ w 6 = tr.info1 ∧ w 7 = tr.info2) ∧
     (tr.cause = .systemCall → ∀ k, k < 4 → w (4 + k) = pair (t.rv (BitVec.ofNat 7 (2 * k))) (t.rv (BitVec.ofNat 7 (2 * k + 1)))))

/-- 19 R408, R410, R409: TRAP takes the system-call exception with its code in the address field, BKPT the breakpoint
exception with its immediate in info0; REGION sets the region entry to the next instruction, the tag, and the replay
count 0. -/
def Obligations.SystemInstructions : Prop :=
  ∀ (s : State) (t : Thread) (g : Guard) (x : BitVec 11),
    (Ready g (.trap g x) s t → exec (.trap g x) s =
      .next (takeTrap s s.cur t ⟨.systemCall, 0, x.setWidth 64, 0#64, 0#64, 0#64, none, none⟩)) ∧
    (Ready g (.bkpt g x) s t → exec (.bkpt g x) s =
      .next (takeTrap s s.cur t ⟨.breakpoint, 0, 0#64, x.setWidth 64, 0#64, 0#64, none, none⟩)) ∧
    (∀ v, v = nextPc t.pc (encode (.region g x)).length →
      checkTarget s (coreOf s.cur) (ctxOf s t) t.pri v = .ok () → Ready g (.region g x) s t →
      exec (.region g x) s = .next (finish (.region g x) s s.cur
        { t with region := v.extractLsb' 0 57, tag := x, replays := 0 }))

/-- 02 R47, R63; 19 R395, Table 1: a reserved word takes the illegal-instruction exception, subcause 0, with its first
two parcels in info0, in every active thread, and does nothing in an inactive one (02 R64); a word that its line does
not hold takes it, subcause 3, whatever its guard. The model's readings of its own in it: log 22. 17 R389, Table 5; 02
R60; 03 R105: a retired word stores the 64-byte emulation record below sp, moves sp down by 64 and goes on at the
context's emulation entry, when the entry is set, the stack has room, the record's bytes are writable and hold no live
ordered cell, and the thread is not yet in emulation. The record holds the word, pc, ln, the operands its fields name (a
pair, a register zero-extended, or 0; a short word has no third), the result 0 and the mode 0. With no entry it takes
the retired-opcode exception, inside emulation the illegal-instruction one, at a live cell the ordered-cell one, and
where a register that it would store is poisoned the poison one (19 R398). The model's readings of its own in it: the
order of the last (log 115). 19 R411; 12 R281; 17 R390: EMURET outside emulation is illegal. Inside, it reads the record
at sp. Reserved fields that are not 0 are illegal; another bound group than at the entry, as a set of threads, is
illegal convergence; a destination at or above the allotment is illegal whatever the mode. Then the result is written,
by mode 1 to the register and by mode 2 to the pair that the word names, ln comes from the record, sp moves up by 64,
emulation ends, and the thread goes on behind the emulated word. The model's readings of its own in it: log 32. -/
def Obligations.EmulatedWords : Prop :=
  (∀ (s : State) (t : Thread) (g : Guard) (w : RawWord) (x : DWord), s.thr s.cur = some t →
     x = (if w.len = 1#2 then w.p0.setWidth 64 else pair w.p0 w.p1) → w.len ≠ 0#2 →
     (Ready g (.reservedEncoding g .reserved w) s t → w.len ≠ 1#2 ∨ w.p0 ≠ 0x70000000#32 →
       exec (.reservedEncoding g .reserved w) s =
         .next (takeTrap s s.cur t ⟨.illegalInstruction, 0, 0#64, x, 0#64, 0#64, none, none⟩)) ∧
     (∀ i, i = .reservedEncoding g .reserved w ∨ i = .retiredOpcode g w → (t.pred g.q ^^ g.neg) = false →
       ∃ s' t', exec i s = .next s' ∧ s'.thr s.cur = some t' ∧ s' = { s with threads := mset s.threads s.cur t' } ∧
         t' = { t with pc := nextPc t.pc (encode i).length, status := .ready s.cycle, issued := t.issued + 1, pri := 0, trail := none }) ∧
     exec (.reservedEncoding g .lineCrossing w) s =
       .next (takeTrap s s.cur t ⟨.illegalInstruction, 3, 0#64, x, 0#64, 0#64, none, none⟩)) ∧
  (∀ (s : State) (t : Thread) (g : Guard) (i : Instr) (entry : Nat) (a b : VReg) (c : Option VReg) (val : VReg → DWord) (taken : Nat → Prop),
     (∃ w, i = .retiredOpcodeShort g w ∧ a = w.extractLsb' 14 7 ∧ b = w.extractLsb' 21 7 ∧ c = none) ∨
     (∃ w, i = .retiredOpcode g w ∧ w.len ≠ 1#2 ∧ a = w.p0.extractLsb' 17 7 ∧ b = w.p0.extractLsb' 24 7 ∧
       c = some (w.p1.extractLsb' 0 6 ++ w.p0.extractLsb' 31 1)) →
     (∀ f, val f = (if f.getLsbD 0 = false ∧ f.toNat + 1 < t.allot then t.rv64 f
       else if f.toNat < t.allot then (t.rv f).setWidth 64 else 0#64)) →
     (∀ n, taken n ↔ n < t.allot ∧ ∃ f, (f = a ∨ f = b ∨ c = some f) ∧
       (n = f.toNat ∨ f.getLsbD 0 = false ∧ n = f.toNat + 1)) →
     Ready g i s t → entry = cfield s (ctxOf s t) 704 57 →
     (t.emu ≠ none → exec i s = .next (takeTrap s s.cur t (mkTrap .illegalInstruction 4 0#64 (wordInfo i)))) ∧
     (t.emu = none → entry = 0 → exec i s = .next (takeTrap s s.cur t (mkTrap .retiredOpcode 0 0#64 (wordInfo i)))) ∧
     (∀ n, t.emu = none → entry ≠ 0 → taken n → t.isPoisoned (BitVec.ofNat 7 n) = true → t.sp.toNat < t.stklim.toNat + 64 ∨
         (∃ l, locateRange s s.cur t false (t.sp - 64#64) 64 Access.store = .ok l) →
       ∃ tr, exec i s = .next (takeTrap s s.cur t tr) ∧ tr.cause = .poison) ∧
     (t.emu = none → entry ≠ 0 → (∀ n, taken n → t.isPoisoned (BitVec.ofNat 7 n) = false) →
       t.sp.toNat < t.stklim.toNat + 64 →
       exec i s = .next (takeTrap s s.cur t (mkTrap .stackLimit 0 (t.sp - 64#64) t.stklim))) ∧
     (∀ l, t.emu = none → entry ≠ 0 → (∀ n, taken n → t.isPoisoned (BitVec.ofNat 7 n) = false) →
       t.stklim.toNat + 64 ≤ t.sp.toNat →
       locateRange s s.cur t false (t.sp - 64#64) 64 Access.store = .ok l →
       ((∀ e ∈ l, ∀ x ∈ s.ordered, e.1 + e.2 ≤ x.loc ∨ x.loc + 16 ≤ e.1) →
         ∃ s' t' bs, exec i s = .next s' ∧ s'.thr s.cur = some t' ∧ t'.pc = BitVec.ofNat 64 entry ∧ t'.sp = t.sp - 64#64 ∧
           t'.emu = some (groupTids s t) ∧ t'.status = .ready s.cycle ∧ t'.v = t.v ∧ t'.q = t.q ∧ t'.ln = t.ln ∧
           bs = toBytes 8 (wordInfo i).toNat ++ toBytes 8 t.pc.toNat ++ toBytes 8 t.ln.toNat ++ toBytes 8 (val a).toNat ++
             toBytes 8 (val b).toNat ++ toBytes 8 ((c.map val).getD 0#64).toNat ++ List.replicate 16 0#8 ∧
           (s.choices.mesh = false → (∀ e ∈ l, isLost s e.1 = false) → s'.mem = (writePieces s l bs).mem) ∧
           OthersStay s s') ∧
       (∀ e x, l = [e] → s.ordered.find? (fun x => decide (e.1 < x.loc + 16) && decide (x.loc < e.1 + e.2)) = some x →
         ∃ tr, exec i s = .next (takeTrap s s.cur t tr) ∧ tr.cause = .orderedCell ∧ tr.sub = 0 ∧
           tr.info2 = BitVec.ofNat 64 x.e))) ∧
  (∀ (s : State) (t : Thread) (g : Guard) (l : List (Nat × Nat)) (q : Nat → DWord) (m : Nat) (v : DWord) (d : VReg),
     Ready g (.emuret g) s t →
     (t.emu = none → exec (.emuret g) s = .next (takeTrap s s.cur t (mkTrap .illegalInstruction 4 0#64 (wordInfo (.emuret g))))) ∧
     (∀ e, t.emu = some e → t.sp.toNat % 8 = 0 → locateRange s s.cur t false t.sp 64 Access.load = .ok l →
       piecesPoisoned s l = false →
       (∀ k, q k = BitVec.ofNat 64 (leNat (((readPieces s l).drop (8 * k)).take 8))) →
       m = (q 7).toNat → v = nextPc (q 1) (emuLen (q 0)) →
       d = (if emuLen (q 0) = 1 then (q 0).extractLsb' 7 7 else (q 0).extractLsb' 10 7) →
       (3 ≤ m → exec (.emuret g) s = .next (takeTrap s s.cur t (mkTrap .illegalInstruction 4 0#64 (wordInfo (.emuret g))))) ∧
       (m < 3 → e ≠ groupTids s t → ∃ mask, exec (.emuret g) s = .next (takeTrap s s.cur t
         ⟨.illegalConvergence, 0, 0#64, wordInfo (.emuret g), mask, 0#64, none, none⟩)) ∧
       (m < 3 → e = groupTids s t → checkTarget s (coreOf s.cur) (ctxOf s t) t.pri v = .ok () →
         (t.allot ≤ d.toNat ∨ (m = 2 ∧ (d.getLsbD 0 = true ∨ t.allot ≤ d.toNat + 1)) → exec (.emuret g) s =
           .next (takeTrap s s.cur t (mkTrap .illegalInstruction 1 0#64 (wordInfo (.emuret g))))) ∧
         (d.toNat < t.allot → (m = 2 → d.getLsbD 0 = false ∧ d.toNat + 1 < t.allot) →
           exec (.emuret g) s = .next (goOn (.emuret g) s s.cur
             { (if m = 1 then t.setV d ((q 6).setWidth 32) else if m = 2 then t.setV64 d (q 6) else t) with
               ln := q 2, sp := t.sp + 64#64, emu := none } v)))))

/-! The checks that come before an instruction's own effect. -/

/-- 12 R283; 19 R395: an active instruction that names a register at or above its thread's allotment takes the
illegal-instruction exception, subcause 1, whatever else is wrong with it, and has no effect: every instruction word, a
group instruction in a thread that is not bound among them. 12 R282, Table 2; 19 R395: an active instruction of another
role's class takes the illegal-role exception, with the role's number in info1. A general gang and a thread in emulation
issue it. Of a group instruction whose members have all come, every active member of such a gang takes it. -/
def Obligations.IssueRules : Prop :=
  (∀ (s : State) (t : Thread) (g : Guard) (i : Instr) (n : Nat), s.thr s.cur = some t → (t.pred g.q ^^ g.neg) = true →
     guardOf i = some g → isWord i = true → t.allot ≤ n →
     (groupInstr i = false ∧ n ∈ vreads i ++ vwrites i ++ vnamed i ∨
       groupInstr i = true ∧ t.group = none ∧ n ∈ vreads i ++ laneReads i ++ vwrites i ++ vnamed i) →
     exec i s = .next (takeTrap s s.cur t (mkTrap .illegalInstruction 1 0#64 (wordInfo i)))) ∧
  (∀ (s : State) (g : Guard) (i : Instr) (r : Role), guardOf i = some g → roleOf i = some r →
     (∀ t, s.thr s.cur = some t → (t.pred g.q ^^ g.neg) = true → groupInstr i = false →
       (∀ n ∈ vreads i ++ vwrites i ++ vnamed i, n < t.allot) → t.emu = none → threadRole s t ≠ .general →
       threadRole s t ≠ r →
       exec i s = .next (takeTrap s s.cur t ⟨.illegalRole, 0, 0#64, wordInfo i, BitVec.ofNat 64 (threadRole s t).number,
         0#64, none, none⟩)) ∧
     (∀ ps, groupInstr i = true → ps.length = 32 → ps.Nodup → s.cur ∈ ps →
       (∀ p ∈ ps, ∃ t, s.thr p = some t ∧ groupMembers s t = some ps ∧ (t.pred g.q ^^ g.neg) = true ∧ t.board = [] ∧
         (p ≠ s.cur → t.status = .stalled .meet) ∧ ∀ n ∈ vreads i ++ laneReads i ++ vwrites i, n < t.allot) →
       (∃ pc, ∀ p ∈ ps, (s.thr p).map (·.pc) = some pc) →
       ∃ s', exec i s = .next s' ∧ ∀ p ∈ ps, ∀ t, s.thr p = some t → t.emu = none → threadRole s t ≠ .general →
         threadRole s t ≠ r → (s'.thr p).map (fun u => (u.pc, u.v, u.status)) = some (t.pc, t.v, .parked (.trap
           ⟨.illegalRole, 0, 0#64, wordInfo i, BitVec.ofNat 64 (threadRole s t).number, 0#64, none, none⟩ false))))

/-- 02 R62; 06 R179: an instruction whose guard is false leaves the state of its thread, its flags and memory as they
are, and the thread proceeds; only the generator's counter moves, under an instruction that draws. So with every word
but the group instructions, BIND and UNBIND, which first meet the other threads (07 R217; 13 R310). -/
def Obligations.InactiveThreads : Prop :=
  ∀ (s : State) (t : Thread) (g : Guard) (i : Instr), s.thr s.cur = some t → (t.pred g.q ^^ g.neg) = false →
    guardOf i = some g → isWord i = true → groupInstr i = false → binds i = false →
    ∃ t', exec i s = .next { s with threads := mset s.threads s.cur t' } ∧
      t' = { t with pc := nextPc t.pc (encode i).length, status := .ready s.cycle, issued := t.issued + 1, pri := 0, trail := none, ctr := if draws i then t.ctr + 1#64 else t.ctr }

/-! Bound groups and cross-lane operations. -/

/-- 07 R218, R219: SHFL gives every present member the va of the member at its source position modulo W, READL that of
the member at the position the least present member names; where that member is absent, its own va. 07 R219: VOTE gives
whether qa is true in all, in any, or alike in all present members; BALLOT the mask of the present members in which it
is true; ELECT true in the present member of least position alone. -/
def Obligations.CrossLaneForms : Prop :=
  (∀ (s : State) (g : Guard) (ps : List Nat) (la : BitVec 4),
     (∀ o, Gathered false g (.shfl g la o) s ps → ∃ s', exec (.shfl g la o) s = .next s' ∧
       GroupDone (.shfl g la o) g s s' ps ∧
       ∀ k t, presentAt g s ps k = some t → ∀ (d j : Nat), d = opbNat s t 32 o.b →
         j = (match o.mode with
           | .idx => d % ps.length
           | .up => (((k : Int) - d) % ps.length).toNat
           | .dn => (k + d) % ps.length
           | .xor => (k ^^^ d) % ps.length) →
         ∃ t', memberAt s' ps k = some t' ∧
           readW (ipair o.fmt) t' o.d = (match presentAt g s ps j with
             | some u => readW (ipair o.fmt) u o.a
             | none => readW (ipair o.fmt) t o.a)) ∧
     (∀ o, Gathered false g (.readl g la o) s ps → ∃ s', exec (.readl g la o) s = .next s' ∧
       GroupDone (.readl g la o) g s s' ps ∧
       ∀ k m t u, presentAt g s ps k = some t → presentAt g s ps m = some u → (∀ j, j < m → presentAt g s ps j = none) →
         ∃ t', memberAt s' ps k = some t' ∧
           readW (ipair o.fmt) t' o.d = (match presentAt g s ps (opbNat s u 32 o.b % ps.length) with
             | some x => readW (ipair o.fmt) x o.a
             | none => readW (ipair o.fmt) t o.a))) ∧
  (∀ (s : State) (g : Guard) (ps : List Nat),
     (∀ m d a, Gathered false g (.vote g m d a) s ps → ∃ s' b, exec (.vote g m d a) s = .next s' ∧
       GroupDone (.vote g m d a) g s s' ps ∧
       (∀ k t, presentAt g s ps k = some t → ∃ t', memberAt s' ps k = some t' ∧ (d ≠ 7#3 → t'.pred d = b)) ∧
       (b = true ↔ match m with
         | .all => ∀ k t, presentAt g s ps k = some t → t.pred a = true
         | .any => ∃ k t, presentAt g s ps k = some t ∧ t.pred a = true
         | .uni => ∀ j k t u, presentAt g s ps j = some t → presentAt g s ps k = some u → t.pred a = u.pred a)) ∧
     (∀ d a, ps.length ≤ 32 → Gathered false g (.ballot g d a) s ps → ∃ (s' : State) (x : Word),
       exec (.ballot g d a) s = .next s' ∧ GroupDone (.ballot g d a) g s s' ps ∧
       (∀ k t, presentAt g s ps k = some t → ∃ t', memberAt s' ps k = some t' ∧ t'.rv d = x) ∧
       (∀ k, x.getLsbD k = true ↔ ∃ t, presentAt g s ps k = some t ∧ t.pred a = true)) ∧
     (∀ d, Gathered false g (.elect g d) s ps → ∃ s', exec (.elect g d) s = .next s' ∧
       GroupDone (.elect g d) g s s' ps ∧
       ∀ k t, presentAt g s ps k = some t → ∃ t', memberAt s' ps k = some t' ∧
         (d ≠ 7#3 → (t'.pred d = true ↔ ∀ j, j < k → presentAt g s ps j = none))))

/-- 07 R220, R221; 06 R161: LRED gives every present member the root of the tree over the present members' values, and
the union of the flags of its steps; LSCAN gives member i that of the tree in which the members above it, and under .exc
itself, are absent, or the identity. An integer sum is the sum modulo 2^w of the values, whatever the tree. A NaN is
delivered as the default NaN: also one that a lone present member passes up the tree, with invalid where it is
signalling, which is the model's reading (redOut, log 103). -/
def Obligations.Reductions : Prop :=
  ∀ (s : State) (g : Guard) (ps : List Nat) (la : BitVec 4) (o : RedOps) (w64 : Bool) (l : List (Option Nat)),
    l = (List.range ps.length).map (fun k => (presentAt g s ps k).map (redRead o)) →
    w64 = (match o.fmt with | .int f => ipair f | .flt f => fpair f) → ps.length ≤ 32 →
    (Gathered false g (.lred g la o) s ps → ∃ s' r fl, exec (.lred g la o) s = .next s' ∧
      GroupDone (.lred g la o) g s s' ps ∧ redOut o (redTree o 5 l) = (some r, fl) ∧
      (∀ k t, presentAt g s ps k = some t → ∃ t', memberAt s' ps k = some t' ∧
        readW w64 t' o.d = r % 2 ^ (if w64 then 64 else 32) ∧ t'.fpflags = t.fpflags ||| fl) ∧
      (∀ f, o.fmt = .flt f → Numbers.isNan f r = true → r = Numbers.nanBits f) ∧
      (∀ f, o.fmt = .int f → o.op = .add → iwidth f ≤ 64 →
        (r : Int) % 2 ^ iwidth f = (((l.filterMap id).map (valueOf f)).sum) % 2 ^ iwidth f)) ∧
    (Gathered false g (.lscan g la o) s ps → ∃ s', exec (.lscan g la o) s = .next s' ∧
      GroupDone (.lscan g la o) g s s' ps ∧
      ∀ k t m, presentAt g s ps k = some t →
        m = redOut o (redTree o 5 ((List.range ps.length).map fun j =>
          if j < k ∨ (j = k ∧ o.exc = false) then (presentAt g s ps j).map (redRead o) else none)) →
        ∃ t', memberAt s' ps k = some t' ∧
          readW w64 t' o.d = (m.1.getD (redIdentity o)) % 2 ^ (if w64 then 64 else 32) ∧
          t'.fpflags = t.fpflags ||| m.2)

/-- 07 R217; 08 R233; 19 R395, Table 1: an active thread that is not bound takes the illegal-convergence exception,
subcause 0, at every group instruction whose registers it is allotted; an inactive one goes on. A member that finds
others not yet arrived waits for them. -/
def Obligations.GroupsMeet : Prop :=
  ∀ (s : State) (t : Thread) (g : Guard) (i : Instr), s.thr s.cur = some t → guardOf i = some g → groupInstr i = true →
    (t.group = none → active g t = true → (∀ n ∈ vreads i ++ laneReads i ++ vwrites i ++ vnamed i, n < t.allot) →
      exec i s = .next (takeTrap s s.cur t ⟨.illegalConvergence, 0, 0#64, wordInfo i, 0#64, 0#64, none, none⟩)) ∧
    (t.group = none → active g t = false → exec i s = .next (skip i s s.cur t)) ∧
    (∀ ps p u, groupMembers s t = some ps → p ∈ ps → p ≠ s.cur → s.thr p = some u → waitsAt u = false →
      (∀ n ∈ vreads i ++ vwrites i ++ laneReads i, n < t.allot) → exec i s = .next (stall s s.cur t .meet))

/-! Memory. -/

/-- 01 R27; 04 R106, R107: in the g space an address is base, shifted index and offset modulo 2^64; in the w space an
offset modulo 2^32. 04 R110; 19 R395, Table 1: an access whose address is not a multiple of its size takes the alignment
exception, with the address and the size, before permission and translation are looked at; the address of an operand is
base plus index plus offset. -/
def Obligations.Addresses : Prop :=
  (∀ (s : State) (t : Thread) (m : MemOp) (ix off : Nat),
     ix = (match m.idx with | some n => (t.rv n).toNat * 2 ^ m.shift.toNat | none => 0) →
     off = (match m.off with | .imm7 x => (x.signExtend 64).toNat | .lit x => (x.signExtend 64).toNat) →
     (m.win = false → (memEa s t m).toNat = ((match m.base with
         | .v n => (t.rv64 n).toNat | .s n => (sread64 s t n).toNat | .sp => t.sp.toNat) + ix + off) % 2 ^ 64) ∧
     (m.win = true → (memEa s t m).toNat = ((match m.base with
         | .v n => (t.rv n).toNat | .s n => (sread s t n).toNat | .sp => t.sp.toNat % 2 ^ 32) + ix + off) % 2 ^ 32)) ∧
  (∀ (s : State) (t : Thread) (g : Guard) (ea : DWord) (n : Nat) (i : Instr),
     ((∃ la o, i = .ld g la o ∧ ea = memEa s t o.m ∧ n = iwidth o.fmt / 8) ∨
      (∃ o, i = .st g o ∧ ea = memEa s t o.m ∧ n = iwidth o.fmt / 8) ∨
      (∃ la o, i = .atom g la o ∧ ea = memEa s t o.m ∧ n = iwidth o.fmt / 8) ∨
      (∃ o, (i = .ordinit g o ∨ i = .aaddf g o) ∧ ea = memEa s t o.m ∧ n = 16) ∨
      (∃ o, (i = .tbinit g o ∨ i = .tbexp g o ∨ i = .tbarr g o ∨ i = .tbwait g o ∨ i = .sleepto g o) ∧
         ea = memEa s t o.m ∧ n = 16)) →
     ea.toNat % n ≠ 0 → Ready g i s t →
     exec i s = .next (takeTrap s s.cur t ⟨.alignment, 0, ea, BitVec.ofNat 64 n, 0#64, 0#64, none, none⟩))

/-- 04 R112; 00 R7; 19 R398: a load writes its destination with the bytes at the place its address translates to, the
lowest byte lowest, extended as its format says; poisoned bytes poison the destination. Memory stays as it is. That a
.b128 load reads its 16 bytes in one step is the model's choice: log 58 (unsafe). 04 R112, R113; 03 R93, R97: a store
writes the register's low bytes, a pair or a quad at the place its address translates to, and no other byte of memory;
no register changes. A store that touches a live ordered cell takes the ordered-cell exception instead. Where the device
lets the mesh carry writes (log 10), one to another die waits in the mesh, in units of at most 8 bytes, each with its
place, its bytes, its thread and its die's vector. The model's readings of its own in it: log 41; 16 bytes in one step,
with no other access between the two halves: log 58. -/
def Obligations.LoadsAndStores : Prop :=
  (∀ (s : State) (t : Thread) (g : Guard) (la : BitVec 4) (o : MemOps) (pl : Machine.Place),
     Ready g (.ld g la o) s t → locate s s.cur t o.m.win (memEa s t o.m) (iwidth o.fmt / 8) Access.load = .ok pl →
     ∃ s' u, exec (.ld g la o) s = .next s' ∧ Onward (.ld g la o) s s' t u ∧ OthersStay s s' ∧ s'.mem = s.mem ∧
       s'.poison = s.poison ∧
       (o.fmt ≠ .b128 → u.v = (t.setI o.fmt o.d (leNat (s.read pl.loc (iwidth o.fmt / 8)))).v) ∧
       (o.fmt = .b128 → u.v = ((t.setV64 o.d (BitVec.ofNat 64 (leNat (s.read pl.loc 8)))).setV64 (o.d + 2#7)
         (BitVec.ofNat 64 (leNat (s.read (pl.loc + 8) 8)))).v) ∧
       (∀ n ∈ vwrites (.ld g la o), u.isPoisoned (BitVec.ofNat 7 n) =
         (s.poisoned pl.loc (iwidth o.fmt / 8) || isLost s pl.loc)) ∧
       u.q = t.q ∧ u.sp = t.sp ∧ u.ln = t.ln ∧ u.fpflags = t.fpflags) ∧
  (∀ (s : State) (t : Thread) (g : Guard) (o : MemOps) (pl : Machine.Place) (n : Nat) (bs : List Byte),
     n = iwidth o.fmt / 8 → MemOk s →
     bs = (if o.fmt = .b128 then toBytes 8 (t.rv64 o.d).toNat ++ toBytes 8 (t.rv64 (o.d + 2#7)).toNat
       else if iwidth o.fmt = 64 then toBytes 8 (t.rv64 o.d).toNat else toBytes n (t.rv o.d).toNat) →
     Ready g (.st g o) s t → locate s s.cur t o.m.win (memEa s t o.m) n Access.store = .ok pl →
     isLost s pl.loc = false →
     ((∀ c ∈ s.ordered, pl.loc + n ≤ c.loc ∨ c.loc + 16 ≤ pl.loc) →
       s.choices.mesh = false ∨ dieAt s pl.loc = none ∨ dieAt s pl.loc = some (dieOf (coreOf s.cur)) →
       ∃ s', exec (.st g o) s = .next s' ∧ Onward (.st g o) s s' t t ∧ OthersStay s s' ∧ OnlyBytes s s' pl.loc n ∧
         s'.read pl.loc n = bs) ∧
     (∀ d, (∀ c ∈ s.ordered, pl.loc + n ≤ c.loc ∨ c.loc + 16 ≤ pl.loc) → s.choices.mesh = true → dieAt s pl.loc = some d →
       d ≠ dieOf (coreOf s.cur) →
       ∃ s' ws, exec (.st g o) s = .next s' ∧ Onward (.st g o) s s' t t ∧ OthersStay s s' ∧ s'.mem = s.mem ∧
         s'.mesh = s.mesh ++ ws ∧ ws.length = (n + 7) / 8 ∧
         ∀ k w, ws[k]? = some w → w.loc = pl.loc + 8 * k ∧ w.bytes = (bs.drop (8 * k)).take 8 ∧
           w.die = dieOf (coreOf s.cur) ∧ w.dest = d ∧ w.place = some s.cur ∧ w.ctx = ctxOf s t ∧
           w.stamp = dieVector s (dieOf (coreOf s.cur)) ∧ w.poison = false) ∧
     (∀ c, s.ordered.find? (fun c => decide (pl.loc < c.loc + 16) && decide (c.loc < pl.loc + n)) = some c →
       exec (.st g o) s = .next (takeTrap s s.cur t ⟨.orderedCell, 0, memEa s t o.m - BitVec.ofNat 64 ((memEa s t o.m).toNat % 16),
         0#64, 0#64, BitVec.ofNat 64 c.e, none, none⟩)))

/-- 04 R112 to R114; 19 R396: the frame of loads, stores and atomics, whatever they answer. Only a store or an atomic
changes memory, and only the bytes at the place its address translates to; only the destination of a load or an atomic
changes among the registers; no other thread changes. -/
def Obligations.MemoryFrame : Prop :=
  ∀ (s s' : State) (t : Thread) (g : Guard) (i : Instr) (m : MemOp) (n : Nat) (a : Access),
    (∃ la o, i = .ld g la o ∧ m = o.m ∧ n = iwidth o.fmt / 8 ∧ a = Access.load) ∨
    (∃ o, i = .st g o ∧ m = o.m ∧ n = iwidth o.fmt / 8 ∧ a = Access.store) ∨
    (∃ la o, i = .atom g la o ∧ m = o.m ∧ n = iwidth o.fmt / 8 ∧ a = Access.both) →
    MemOk s → s.thr s.cur = some t → exec i s = .next s' →
    OthersStay s s' ∧
    (∃ t', s'.thr s.cur = some t' ∧ (∀ r : VReg, r.toNat ∉ vwrites i → t'.rv r = t.rv r) ∧ t'.q = t.q ∧ t'.sp = t.sp ∧
      t'.ln = t.ln ∧ t'.fpflags = t.fpflags ∧ t'.tok = t.tok ∧ t'.stklim = t.stklim ∧ t'.region = t.region ∧
      t'.chip = t.chip) ∧
    (∀ pl, locate s s.cur t m.win (memEa s t m) n a = .ok pl → isLost s pl.loc = false → OnlyBytes s s' pl.loc n) ∧
    ((∀ pl, locate s s.cur t m.win (memEa s t m) n a ≠ .ok pl) ∨ a = Access.load ∨ active g t = false → s'.mem = s.mem) ∧
    s'.teams = s.teams ∧ s'.groups = s.groups ∧ s'.ordered = s.ordered ∧ s'.msgs = s.msgs ∧ s'.cores = s.cores

/-- 04 R114, Table 2: an atomic returns the old value of its location and leaves there the sum, the lesser, the greater,
the bitwise function, the operand, or for .cas the operand if the old value equals the compare value. Other bytes keep
their values. -/
def Obligations.Atomics : Prop :=
  ∀ (s : State) (t : Thread) (g : Guard) (la : BitVec 4) (o : AtomOps) (pl : Machine.Place) (n old b c : Nat),
    n = iwidth o.fmt / 8 → n = 4 ∨ n = 8 → MemOk s → Ready g (.atom g la o) s t →
    locate s s.cur t o.m.win (memEa s t o.m) n Access.both = .ok pl → isLost s pl.loc = false →
    (2 ^ 53 ≤ pl.loc → o.op = .add ∨ o.op = .exch ∨ o.op = .cas) → (∀ x ∈ s.ordered, pl.loc + n ≤ x.loc ∨ x.loc + 16 ≤ pl.loc) →
    old = leNat (s.read pl.loc n) → b = (if n = 8 then (t.rv64 o.b).toNat else (t.rv o.b).toNat) →
    c = (if n = 8 then (t.rv64 o.c).toNat else (t.rv o.c).toNat) →
    ∃ s' u, exec (.atom g la o) s = .next s' ∧ Onward (.atom g la o) s s' t u ∧ OthersStay s s' ∧
      OnlyBytes s s' pl.loc n ∧ u.v = (t.setI o.fmt o.d old).v ∧
      leNat (s'.read pl.loc n) = (match o.op with
        | .add => (old + b) % 2 ^ (8 * n)
        | .min => if valueOf o.fmt old ≤ valueOf o.fmt b then old else b
        | .max => if valueOf o.fmt old ≤ valueOf o.fmt b then b else old
        | .and => old &&& b
        | .or => old ||| b
        | .xor => old ^^^ b
        | .exch => b
        | .cas => if old = c then b else old)

/-- 04 R115, R116, R117, R440; 03 R103: ORDINIT makes a cell live with its value, its rank count and e = 0; a count of 0
or of 2^24 and more, a live cell and a seventeenth at the owner are ordered-cell exceptions, which name the e of the
live cell, else 0. An add whose rank is the cell's e is applied at once under RN, and after it, in the order of their
ranks, the held adds whose turn comes: the cell holds the sum rounded add by add, its e has moved on by the spans, the
flags of the roundings are added to its sticky ones, its count and its format stay, and it is live, to the owner and in
its bits, unless e = n. An add of a later rank is held, and memory stays; with 64 held it stalls. An add of another
format, of no span, past n, before e or over a held one is the exception. The model's readings of its own in it: log 48.
-/
def Obligations.OrderedCells : Prop :=
  ∀ (s : State) (t : Thread) (g : Guard) (o : OrdOps) (pl : Machine.Place), MemOk s →
    locate s s.cur t o.m.win (memEa s t o.m) 16 Access.cell = .ok pl → pl.loc < 2 ^ 53 → isLost s pl.loc = false →
    (∀ n, Ready g (.ordinit g o) s t → n = (t.rv o.b).toNat →
      (1 ≤ n → n < 2 ^ 24 → (∀ c ∈ s.ordered, c.loc ≠ pl.loc) →
        (s.ordered.filter fun c => ownerOf s c.loc == ownerOf s pl.loc).length < 16 →
        ∃ s', exec (.ordinit g o) s = .next s' ∧ Onward (.ordinit g o) s s' t t ∧ OthersStay s s' ∧
          OnlyBytes s s' pl.loc 16 ∧ s'.ordered = s.ordered ++ [⟨pl.loc, n, 0, o.f64, ctxOf s t, []⟩] ∧
          leNat (s'.read pl.loc 8) = (if o.f64 then (t.rv64 o.d).toNat else (t.rv o.d).toNat) ∧
          leNat (s'.read (pl.loc + 8) 8) = n * 2 ^ 24 + (if o.f64 then 2 ^ 53 else 0) + 2 ^ 54) ∧
      (n = 0 ∨ 2 ^ 24 ≤ n ∨ (∃ c ∈ s.ordered, c.loc = pl.loc) ∨
        16 ≤ (s.ordered.filter fun c => ownerOf s c.loc == ownerOf s pl.loc).length →
        exec (.ordinit g o) s = .next (takeTrap s s.cur t ⟨.orderedCell, 0, memEa s t o.m, BitVec.ofNat 64 n, 0#64,
          BitVec.ofNat 64 (((s.ordered.find? (·.loc == pl.loc)).map (·.e)).getD 0), none, none⟩))) ∧
    (∀ (c : LiveCell) (k n : Nat) (x h : DWord), Ready g (.aaddf g o) s t → s.ordered.find? (·.loc == pl.loc) = some c →
      c.f64 = o.f64 → k = (t.rv o.d).toNat → n = (t.rv (o.d + 1#7)).toNat →
      x = (if o.f64 then t.rv64 o.b else (t.rv o.b).setWidth 64) → h = BitVec.ofNat 64 (leNat (s.read (pl.loc + 8) 8)) →
      1 ≤ n → k + n ≤ c.n → (∀ y ∈ c.window, y.rank + y.span ≤ k ∨ k + n ≤ y.rank) →
      (∀ (f : FFmt) (w : Nat), k = c.e → f = (if o.f64 then .f64 else .f32) → w = (if o.f64 then 64 else 32) →
        c.window.length ≤ 64 → (c.window.map (·.rank)).Nodup → (∀ y ∈ c.window, 1 ≤ y.span ∧ y.rank + y.span ≤ c.n) →
        ∃ (s' : State) (l rest : List HeldAdd) (e : Nat) (r : Nat × BitVec 5) (h' : DWord),
        exec (.aaddf g o) s = .next s' ∧ Onward (.aaddf g o) s s' t t ∧ OthersStay s s' ∧ OnlyBytes s s' pl.loc 16 ∧
        c.window.Perm (l ++ rest) ∧ e = k + n + (l.map (·.span)).sum ∧ (∀ y ∈ rest, y.rank ≠ e) ∧
        (∀ j y, l[j]? = some y → y.rank = k + n + ((l.take j).map (·.span)).sum) ∧
        r = (x :: l.map (·.x)).foldl (fun a y =>
          let z := Numbers.round f .rn 0 (Numbers.exactSum
            [Numbers.decode f (a.1 % 2 ^ w), Numbers.decode f (y.toNat % 2 ^ w)])
          (z.1, a.2 ||| z.2)) (leNat (s.read pl.loc 8), 0#5) ∧
        leNat (s'.read pl.loc 8) = r.1 % 2 ^ 64 ∧ h' = BitVec.ofNat 64 (leNat (s'.read (pl.loc + 8) 8)) ∧
        (c.n < 2 ^ 24 → (h'.extractLsb' 0 24).toNat = e) ∧ h'.extractLsb' 24 24 = h.extractLsb' 24 24 ∧
        h'.extractLsb' 48 5 = h.extractLsb' 48 5 ||| r.2 ∧ h'.getLsbD 53 = h.getLsbD 53 ∧
        h'.getLsbD 54 = decide (e < c.n) ∧ h'.extractLsb' 55 9 = 0#9 ∧
        (e < c.n → s'.ordered.find? (·.loc == pl.loc) = some { c with e := e, window := rest }) ∧
        (e = c.n → ∀ y ∈ s'.ordered, y.loc ≠ pl.loc)) ∧
      (c.e < k → c.window.length < 64 → ∃ s', exec (.aaddf g o) s = .next s' ∧ Onward (.aaddf g o) s s' t t ∧
        OthersStay s s' ∧ s'.mem = s.mem ∧ s'.ordered = s.ordered.map (fun y =>
          if y.loc == pl.loc then { c with window := c.window ++ [⟨some s.cur, isAcquire o.ord o.scope, k, n, x⟩] } else y)) ∧
      (c.e < k → 64 ≤ c.window.length → exec (.aaddf g o) s = .next (stall s s.cur t (.window pl.loc)))) ∧
    (∀ k n e : Nat, Ready g (.aaddf g o) s t → k = (t.rv o.d).toNat → n = (t.rv (o.d + 1#7)).toNat →
      (s.ordered.find? (·.loc == pl.loc) = none ∧ e = leNat (s.read (pl.loc + 8) 3)) ∨
      (∃ c, s.ordered.find? (·.loc == pl.loc) = some c ∧ e = c.e ∧ (c.f64 ≠ o.f64 ∨ n = 0 ∨ c.n < k + n ∨ k < c.e ∨
        ∃ y ∈ c.window, k < y.rank + y.span ∧ y.rank < k + n)) →
      exec (.aaddf g o) s = .next (takeTrap s s.cur t ⟨.orderedCell, 0, memEa s t o.m, BitVec.ofNat 64 k, BitVec.ofNat 64 n,
        BitVec.ofNat 64 e, none, none⟩))

/-- 04 R122, R124, R125, R126; 22 R432: a copy whose operands pass their checks joins the line operation of its issue
group between the same two lines, behind the last marker, where that keeps its promised time, with that time, or enters
the tail of its queue, when the queue has room; its thread goes on with the time in its pair, later than the
chronometer, and than the next beat when the budget of this one does not carry it behind what is queued, with room for
the 32 elements its group may bring; nothing is copied yet. CPYS enters all its sectors as one operation, those toward
transport windows in queue egr and beside it those that go elsewhere in the queue named. With no room the thread stalls.
The promised time is a free value beyond that bound (log 11). The model's readings of its own in it: log 92. 04 R118 to
R120: FENCE changes nothing, and PREF nothing but what the device keeps of translations and lines, and the bytes it is
charged. QFENCE puts one marker, with its set, at the tail of every named queue that has room; with all of them entered
it goes on, and else it stalls for the queues left. A marker with an operation ahead of it stays, and no operation of a
queue is lost. The model's readings of its own in it: log 29, log 40, log 41. -/
def Obligations.CopiesAndFences : Prop :=
  (∀ (s : State) (t : Thread) (g : Guard) (la : BitVec 4) (core key : Nat), core = coreOf s.cur →
     key = issueKey s s.cur t →
     (∀ (o : CpyOps) (d c b : Machine.Place) (q n : Nat) (x : CopyElem), Ready g (.cpy g la o) s t →
       cpyChecks s s.cur t o = .ok [d, c, b] → q = (if (connOf d.loc).isSome then 7 else o.queue.toNat) →
       n = iwidth o.fmt / 8 → 
       x = ⟨d.loc, c.loc, n, some b.loc, false, connOf d.loc, false, t.team, false, d.key (ctxOf s t), c.key (ctxOf s t)⟩ →
       ((sinceMarker s core q).find? (fun e => sameLine key x e && keepsTime s core q e x) = none →
         ((queueAt s core q).length < 64 →
           ∃ s' time e, exec (.cpy g la o) s = .next s' ∧ Onward (.cpy g la o) s s' t (t.setV64 o.d time) ∧ OthersStay s s' ∧
             s'.mem = s.mem ∧ (s.chron + 2 ^ 32 < 2 ^ 63 → s.nextBeat < 2 ^ 62 → s.chron < time.toNat ∧
               (carries s core q (ctxOf s t) (queuedBytes s core q (ctxOf s t)) (32 * n) = false → s.nextBeat < time.toNat)) ∧
             queueAt s' core q = queueAt s core q ++ [e] ∧ e.kind = .copy [(0, x)] none ∧ e.bytes = n ∧ e.started = false ∧
             e.ctx = ctxOf s t ∧ e.line = some (key, time)) ∧
         (64 ≤ (queueAt s core q).length →
           exec (.cpy g la o) s = .next (stall (keepHost s [(d.loc, n), (c.loc, n)]) s.cur t (.room q key)))) ∧
       (∀ e l pk k time, (sinceMarker s core q).find? (fun e => sameLine key x e && keepsTime s core q e x) = some e →
         e.kind = .copy l pk →
         e.line = some (k, time) →
         ∃ s', exec (.cpy g la o) s = .next s' ∧ Onward (.cpy g la o) s s' t (t.setV64 o.d time) ∧ OthersStay s s' ∧
           s'.mem = s.mem ∧ queueAt s' core q = (queueAt s core q).map fun y => if y.id == e.id && !y.isMarker then
             { e with bytes := e.bytes + n, kind := .copy (l ++ [(l.length, x)]) pk } else y)) ∧
     (∀ (o : CpysOps) (ds ss : List Machine.Place) (b : Nat) (l : List CopyElem) (h : State), Ready g (.cpys g la o) s t →
       cpysChecks s s.cur t o = .ok (ds, ss, b) →
       l = (ds.zip ss).map (fun e => ⟨e.1.loc, e.2.loc, 32, some b, false, connOf e.1.loc, false, t.team, false,
         e.1.key (ctxOf s t), e.2.key (ctxOf s t)⟩) →
       h = keepHost s ((ds ++ ss).map fun e => (e.loc, 32)) →
       (∀ q, ((∀ x ∈ l, x.conn = none) ∧ q = o.queue.toNat) ∨ (l ≠ [] ∧ (∀ x ∈ l, x.conn ≠ none) ∧ q = 7) →
         ((queueAt s core q).length < 64 →
           ∃ s' time e, exec (.cpys g la o) s = .next s' ∧ Onward (.cpys g la o) s s' t (t.setV64 o.d time) ∧
             OthersStay s s' ∧ s'.mem = s.mem ∧ (s.chron + 2 ^ 32 < 2 ^ 63 → s.nextBeat < 2 ^ 62 → s.chron < time.toNat ∧
               (carries s core q (ctxOf s t) (queuedBytes s core q (ctxOf s t)) (32 * l.length) = false →
                 s.nextBeat < time.toNat)) ∧
             queueAt s' core q = queueAt s core q ++ [e] ∧ e.kind = .copy (asElems l) none ∧ e.bytes = 32 * l.length ∧
             e.started = false ∧ e.ctx = ctxOf s t ∧ e.line = none) ∧
         (64 ≤ (queueAt s core q).length → exec (.cpys g la o) s = .next (stall h s.cur t (.room q key)))) ∧
       (∀ here away, here = l.filter (·.conn.isNone) → away = l.filter (·.conn.isSome) → here ≠ [] → away ≠ [] →
         ((queueAt s core 7).length < 64 → (queueAt s core o.queue.toNat).length < 64 →
           ∃ s' time e f, exec (.cpys g la o) s = .next s' ∧ Onward (.cpys g la o) s s' t (t.setV64 o.d time) ∧
             OthersStay s s' ∧ s'.mem = s.mem ∧ (s.chron + 2 ^ 32 < 2 ^ 63 → s.nextBeat < 2 ^ 62 → s.chron < time.toNat ∧
               (carries s core 7 (ctxOf s t) (queuedBytes s core 7 (ctxOf s t)) (32 * away.length) = false ∨
                 carries s core o.queue.toNat (ctxOf s t) (queuedBytes s core o.queue.toNat (ctxOf s t))
                   (32 * here.length) = false → s.nextBeat < time.toNat)) ∧
             queueAt s' core 7 = queueAt s core 7 ++ [f] ∧
             queueAt s' core o.queue.toNat = queueAt s core o.queue.toNat ++ [e] ∧ f.kind = .copy (asElems away) none ∧
             e.kind = .copy (asElems here) none ∧ f.ctx = ctxOf s t ∧ e.ctx = ctxOf s t) ∧
         (64 ≤ (queueAt s core 7).length → exec (.cpys g la o) s = .next (stall h s.cur t (.room 7 key))) ∧
         ((queueAt s core 7).length < 64 → 64 ≤ (queueAt s core o.queue.toNat).length →
           exec (.cpys g la o) s = .next (stall h s.cur t (.room o.queue.toNat key)))))) ∧
  (∀ (s : State) (t : Thread) (g : Guard),
     (∀ ord sc, Ready g (.fence g ord sc) s t →
       exec (.fence g ord sc) s = .next (finish (.fence g ord sc) s s.cur t)) ∧
     (∀ sc c m, Ready g (.pref g sc c m) s t → ∃ tl ln cx at_,
       exec (.pref g sc c m) s = .next (finish (.pref g sc c m) { s with tlb := tl, lines := ln, ctxs := cx, ats := at_ } s.cur t)) ∧
     (∀ (sc : Scope) (m left : Byte) (id : Nat) (e : QEntry) (new : Nat → List QEntry), Ready g (.qfence g sc m) s t →
       (id, left) = (match t.status with | .stalled (.markers k l) => (k, l) | _ => (s.serial, m)) →
       e = ⟨id, ctxOf s t, t.team, 0, true, .marker m, none⟩ →
       (∀ k, new k = queueAt s (coreOf s.cur) k ++
         (if left.getLsbD k = true ∧ (queueAt s (coreOf s.cur) k).length < 64 then [e] else [])) →
       ((∀ k, k < 8 → left.getLsbD k = true → (queueAt s (coreOf s.cur) k).length < 64) →
         ∃ s', exec (.qfence g sc m) s = .next s' ∧ Onward (.qfence g sc m) s s' t t ∧ OthersStay s s' ∧ s'.mem = s.mem ∧
           (∀ k, k < 8 → (queueAt s' (coreOf s.cur) k).filter (fun e => !e.isMarker) =
             (queueAt s (coreOf s.cur) k).filter (fun e => !e.isMarker)) ∧
           (ripeMarker s (coreOf s.cur) = none →
             (∀ k, k < 8 → left.getLsbD k = true → ∀ x ∈ queueAt s (coreOf s.cur) k, x.id ≠ id) →
             (∃ k, k < 8 ∧ left.getLsbD k = true ∧ m.getLsbD k = true ∧
               ∃ x ∈ queueAt s (coreOf s.cur) k, x.isMarker = false) →
             ∀ k, k < 8 → queueAt s' (coreOf s.cur) k = new k)) ∧
       ((∃ k, k < 8 ∧ left.getLsbD k = true ∧ 64 ≤ (queueAt s (coreOf s.cur) k).length) →
         ∃ s' l, exec (.qfence g sc m) s = .next s' ∧ OthersStay s s' ∧ s'.mem = s.mem ∧
           s'.thr s.cur = some { t with status := .stalled (.markers id l) } ∧
           ∀ k, k < 8 → l.getLsbD k = (left.getLsbD k && decide (64 ≤ (queueAt s (coreOf s.cur) k).length)) ∧
             queueAt s' (coreOf s.cur) k = new k)))

/-- 04 R133, R134: SRPUT fills the entry at put and moves put on, SRGET empties the entry at get and moves get on, one
thread after another in the order they came; a put at a full entry and a get at an empty one stall. So does a thread
that comes behind another on the same ring, whatever the entry holds. A thread that stalls stands in the order from then
on, at its end if it was not in it. The model's readings of its own in it: log 33. -/
def Obligations.StageRings : Prop :=
  ∀ (s : State) (t : Thread) (g : Guard) (sc : Scope) (r : BitVec 3) (tm : Team) (x : Ring),
    s.team t.team = some tm → x = tm.ring r →
    (∀ a, Ready g (.srput g sc r a) s t →
      (x.putq.head? = none ∨ x.putq.head? = some s.cur → x.entries[x.put.toNat].full = false →
        ∃ s', exec (.srput g sc r a) s = .next s' ∧ Onward (.srput g sc r a) s s' t t ∧ OthersStay s s' ∧ s'.mem = s.mem ∧
          (s'.team t.team).map (·.ring r) = some { x with
            entries := x.entries.set x.put.toNat ⟨t.rv a, true⟩, put := x.put + 1#4, putq := x.putq.drop 1 }) ∧
      ((∃ p, x.putq.head? = some p ∧ p ≠ s.cur) ∨ x.entries[x.put.toNat].full = true →
        ∃ s', exec (.srput g sc r a) s = .next s' ∧ s'.thr s.cur = some { t with status := .stalled (.ring r.toNat) } ∧
          OthersStay s s' ∧ s'.mem = s.mem ∧ (s'.team t.team).map (·.ring r) = some { x with
            putq := if s.cur ∈ x.putq then x.putq else x.putq ++ [s.cur] })) ∧
    (∀ la d, Ready g (.srget g la sc r d) s t →
      (x.getq.head? = none ∨ x.getq.head? = some s.cur → x.entries[x.get.toNat].full = true →
        ∃ s', exec (.srget g la sc r d) s = .next s' ∧
          Onward (.srget g la sc r d) s s' t (t.setV d x.entries[x.get.toNat].value) ∧ OthersStay s s' ∧ s'.mem = s.mem ∧
          (s'.team t.team).map (·.ring r) = some { x with
            entries := x.entries.set x.get.toNat { x.entries[x.get.toNat] with full := false }, get := x.get + 1#4,
            getq := x.getq.drop 1 }) ∧
      ((∃ p, x.getq.head? = some p ∧ p ≠ s.cur) ∨ x.entries[x.get.toNat].full = false →
        ∃ s', exec (.srget g la sc r d) s = .next s' ∧ s'.thr s.cur = some { t with status := .stalled (.ring r.toNat) } ∧
          OthersStay s s' ∧ s'.mem = s.mem ∧ (s'.team t.team).map (·.ring r) = some { x with
            getq := if s.cur ∈ x.getq then x.getq else x.getq ++ [s.cur] }))

/-- 04 R127 to R130, Tables 6 and 7: the barrier instructions on the 16 bytes of a barrier. TBINIT sets its counts, 0
counting as 1; TBEXP adds to the sectors pending, TBARR takes one arrival. A change that leaves no arrival and no sector
pending completes the phase: the phase moves on and the arrivals are reloaded. TBWAIT and TBTEST ask whether the named
phase is completed: another phase stands in the barrier. The model's readings of its own in it: log 34, log 35, log 37;
that operations on poisoned bytes go on without a fault: log 39 (unsafe). -/
def Obligations.Barriers : Prop :=
  ∀ (s : State) (t : Thread) (g : Guard) (o : CellOps) (loc : Nat) (x : BitVec 128), MemOk s →
    locateBar s s.cur t o.m = .ok loc → x = BitVec.ofNat 128 (leNat (s.read loc 16)) →
    (∀ n, Ready g (.tbinit g o) s t → n = (if (t.rv o.b).toNat % 2 ^ 20 = 0 then 1 else (t.rv o.b).toNat % 2 ^ 20) →
      ∃ s', exec (.tbinit g o) s = .next s' ∧ Onward (.tbinit g o) s s' t t ∧ OthersStay s s' ∧ OnlyBytes s s' loc 16 ∧
        leNat (s'.read loc 16) = n * 2 ^ 64 + n * 2 ^ 4) ∧
    (∀ (i : Instr) (arr : Nat) (sec : Word),
      (i = .tbexp g o ∧ arr = barArrivals x ∧ sec = barSectors x + t.rv o.b) ∨
      (i = .tbarr g o ∧ barArrivals x ≠ 0 ∧ arr = barArrivals x - 1 ∧ sec = barSectors x) →
      Ready g i s t →
      ∃ s' y, exec i s = .next s' ∧ Onward i s s' t t ∧ (arr ≠ 0 ∨ sec.msb = false → OnlyBytes s s' loc 16) ∧
        ((arr ≠ 0 ∨ sec.msb = false) → y = BitVec.ofNat 128 (leNat (s'.read loc 16)) ∧ barReload y = barReload x ∧
          (arr = 0 ∧ sec = 0#32 → barPhase y = barPhase x + 1#4 ∧ barArrivals y = barReload x ∧ barSectors y = 0#32) ∧
          (¬(arr = 0 ∧ sec = 0#32) → barPhase y = barPhase x ∧ barArrivals y = arr ∧ barSectors y = sec))) ∧
    (Ready g (.tbarr g o) s t → barArrivals x = 0 →
      exec (.tbarr g o) s = .next (stall s s.cur t (.arrival loc (barPhase x)))) ∧
    (∀ p, p = (t.rv o.b).extractLsb' 0 4 → Ready g (.tbwait g o) s t →
      (barPhase x ≠ p → exec (.tbwait g o) s = .next (finish (.tbwait g o) s s.cur t)) ∧
      (barPhase x = p → barRoom s loc = true → ∃ s', exec (.tbwait g o) s = .next s' ∧ s'.mem = s.mem ∧
        s'.barWaiters = s.barWaiters ++ [⟨loc, p, s.cur, none⟩] ∧
        (s'.thr s.cur).map (·.status) = some (.parked (.barrier loc p)))) ∧
    (∀ la q, Ready g (.tbtest g la q o) s t → exec (.tbtest g la q o) s = .next (finish (.tbtest g la q o) s s.cur
      (t.setPred q (barPhase x != (t.rv o.b).extractLsb' 0 4)))) ∧
    (Ready g (.sleepto g o) s t →
      ((t.rv64 o.d).toNat ≤ s.chron → barPhase x ≠ (t.rv o.b).extractLsb' 0 4 →
        exec (.sleepto g o) s = .next (finish (.sleepto g o) s s.cur t)) ∧
      ((t.rv64 o.d).toNat ≤ s.chron → barPhase x = (t.rv o.b).extractLsb' 0 4 → cfield s (ctxOf s t) 920 1 = 1 →
        exec (.sleepto g o) s = .next (takeTrap s s.cur t ⟨.promiseMiss, 0, memEa s t o.m,
          ((t.rv o.b).extractLsb' 0 4).setWidth 64, t.rv64 o.d, 0#64, none, some loc⟩)) ∧
      ((t.rv64 o.d).toNat ≤ s.chron → barPhase x = (t.rv o.b).extractLsb' 0 4 → cfield s (ctxOf s t) 920 1 ≠ 1 →
        barRoom s loc = true → ∃ s', exec (.sleepto g o) s = .next s' ∧ s'.mem = s.mem ∧ OthersStay s s' ∧
        (s'.thr s.cur).map (·.status) = some (.parked (.barrier loc ((t.rv o.b).extractLsb' 0 4)))) ∧
      (s.chron < (t.rv64 o.d).toNat → ∃ s', exec (.sleepto g o) s = .next s' ∧ s'.mem = s.mem ∧ OthersStay s s' ∧
        (s'.thr s.cur).map (·.status) =
          some (.parked (.sleep (memEa s t o.m) loc ((t.rv o.b).extractLsb' 0 4) (t.rv64 o.d)))))

/-! Threads, frames, groups and lists. -/

/-- 07 R189; 13 R307, R312 to R314; 12 R283: a thread that ends with no frame is gone, and its place is free; a bound
one takes the convergence exception. One with frames joins the newest: an unpromoted task frame, and a range with
indices left, runs inline, with the EXIT's own address in ln, or 0 under TDONE.r; at a promoted one whose cell is FULL
the frame is popped and the ending goes on. TDONE.r outside a frame run ends, inside one it returns to ln. RECONV goes
on at once, and with it all that are held at its address in the bank, when no other thread of its gang runs in the bank,
and is held when one runs elsewhere. YIELD goes on, or parks until the beat. ACQUIRE raises the allotment to the
kernel's with zeroed registers once the pool supplies them, and else waits. The model's readings of its own in it: log
61. -/
def Obligations.ThreadLife : Prop :=
  ∀ (s : State) (t : Thread) (g : Guard), (s.threads.map (·.1)).Nodup →
    (∀ i, i = .exit g ∨ i = .exitShort g ∨ (i = .tdoneR g ∧ t.ln = 0#64) → Ready g i s t →
      (t.group = none → t.spilled = [] → t.chip = [] → ∃ s', exec i s = .next s' ∧ s'.thr s.cur = none ∧
        OthersStay s s' ∧ s'.mem = s.mem ∧ s'.teams = s.teams ∧ s'.records = s.records) ∧
      (∀ k, t.group = some k → ∃ m, exec i s = .next (takeTrap s s.cur t
        ⟨.illegalConvergence, 3, 0#64, wordInfo i, m, 0#64, none, none⟩))) ∧
    (∀ (i : Instr) (l v : DWord) (c : List Frame) (f : Frame),
      ((i = .exit g ∨ i = .exitShort g) ∧ l = t.pc) ∨ (i = .tdoneR g ∧ t.ln = 0#64 ∧ l = 0#64) → Ready g i s t →
      t.group = none → t.chip = c ++ [f] → f.poison = false → t.spilled = [] → v = f.entry.setWidth 64 →
      ((f.range = false ∧ f.promoted = false ∧ f.args.length = 6) ∨
          (f.range = true ∧ f.lo.toInt < f.hi.toInt ∧ f.args.length = 4) →
        checkTarget s (coreOf s.cur) (ctxOf s t) t.pri v = .ok () →
        ∃ s' t', exec i s = .next s' ∧ s'.thr s.cur = some t' ∧ t'.pc = v ∧ t'.ln = l ∧ t'.status = .ready s.cycle ∧
          t'.chip = (if f.range then t.chip else c) ∧ OthersStay s s' ∧ s'.mem = s.mem ∧
          (∀ k, k < f.args.length → some (t'.rv (BitVec.ofNat 7 k)) = f.args[k]?) ∧
          ∀ n : VReg, f.args.length ≤ n.toNat → t'.rv n = t.rv n) ∧
      (∀ loc x, f.range = false → f.promoted = true → s.choices.mesh = false → CellsFit s (ctxOf s t) [f.join.toNat] →
        reachCell s (ctxOf s t) f.join.toNat f.join.toNat Access.load = .ok (loc, x) → cellState x = .full →
        ∃ s' t', exec i s = .next s' ∧ s'.thr s.cur = some t' ∧ t'.pc = t.pc ∧ t'.status = .ready s.cycle ∧ t'.chip = c ∧
          t'.v = (t.setV64 0#7 (cellBody x)).v ∧ OthersStay s s' ∧ s'.mem = s.mem)) ∧
    (Ready g (.tdoneR g) s t → t.ln ≠ 0#64 → checkTarget s (coreOf s.cur) (ctxOf s t) t.pri t.ln = .ok () →
      exec (.tdoneR g) s = .next (goOn (.tdoneR g) s s.cur t t.ln)) ∧
    (Ready g (.reconv g) s t →
      (t.gang = none ∨ (∀ e ∈ s.threads, e.1 ≠ s.cur → coreOf e.1 = coreOf s.cur → bankOf e.1 = bankOf s.cur →
          e.2.team = t.team → e.2.gang = t.gang → running e.2 = false) → ∃ s', exec (.reconv g) s = .next s' ∧
        Onward (.reconv g) s s' t t ∧ s'.mem = s.mem ∧ ∀ p u, p ≠ s.cur → s.thr p = some u →
          ((∃ c, coreOf p = coreOf s.cur ∧ bankOf p = bankOf s.cur ∧ u.pc = t.pc ∧ u.status = .held c) →
            s'.thr p = some { u with
              pc := u.npc, status := .ready s.cycle, issued := u.issued + 1, pri := 0, trail := none }) ∧
          (¬(∃ c, coreOf p = coreOf s.cur ∧ bankOf p = bankOf s.cur ∧ u.pc = t.pc ∧ u.status = .held c) →
            s'.thr p = some u)) ∧
      (∀ p u, p ≠ s.cur → s.thr p = some u → running u = true → coreOf p = coreOf s.cur → bankOf p = bankOf s.cur →
        u.team = t.team → u.gang = t.gang → t.gang ≠ none →
        (∀ e ∈ s.threads, ∀ c, e.1 ≠ s.cur → e.2.pc = t.pc → e.2.status ≠ .held c) →
        ∃ s' t', exec (.reconv g) s = .next s' ∧ s'.thr s.cur = some t' ∧ t'.status = .held s.cycle ∧ t'.pc = t.pc ∧
          t'.v = t.v ∧ OthersStay s s' ∧ s'.mem = s.mem)) ∧
    (Ready g (.yield g false) s t → exec (.yield g false) s = .next (finish (.yield g false) s s.cur t)) ∧
    (Ready g (.yield g true) s t → exec (.yield g true) s = .next (park (.yield g true) s s.cur t .beat)) ∧
    (∀ gg, homeGang s t = some gg → Ready g (.acquire g) s t →
      (gg.allot ≤ t.allot → exec (.acquire g) s = .next (finish (.acquire g) s s.cur t)) ∧
      (t.allot < gg.allot → (∀ e ∈ laneThreads s (coreOf s.cur) (laneOf s.cur), poolOrder e.2 = none) →
        (gg.allot - t.allot ≤ poolOfLane s s.cur → ∃ s' u, exec (.acquire g) s = .next s' ∧
          Onward (.acquire g) s s' t u ∧ OthersStay s s' ∧ s'.mem = s.mem ∧
          (s'.thr s.cur).map (·.allot) = some gg.allot ∧
          ∀ n : VReg, u.rv n = (if t.allot ≤ n.toNat then 0#32 else t.rv n)) ∧
        (poolOfLane s s.cur < gg.allot - t.allot → ∃ s' t', exec (.acquire g) s = .next s' ∧ s'.thr s.cur = some t' ∧
          t'.status = .stalled (.pool s.serial) ∧ t'.pc = t.pc ∧ t'.allot = t.allot ∧ OthersStay s s' ∧ s'.mem = s.mem)))

/-- 13 R303, R304, R308, R309; 12 R284: FORK and FORKR push a frame and make its join cell EMPTY, or COUNT 1 for a
range, set their predicate and the region entry; with 64 frames they push none and clear it, FORK making the cell EMPTY
all the same and FORKR leaving it. ITER takes the next index of the newest range frame, whatever task frames stand above
it. FDROP pops the newest frame unless it is promoted; FDEPTH counts the frames and tells the newest one's kind. At a
frame that was read back poisoned they, and the joins, take the poison exception, with the frame's address: the model's
choice (log 112). The model's readings of its own in it: log 54, log 112. -/
def Obligations.Frames : Prop :=
  ∀ (s : State) (t : Thread) (g : Guard), MemOk s →
    (∀ (o : ForkOps) (range : Bool) (i : Instr) (pl : Machine.Place) (v : DWord),
      i = (if range then .forkr g o else .fork g o) → Ready g i s t → v = nextPc t.pc (encode i).length →
      checkTarget s (coreOf s.cur) (ctxOf s t) t.pri v = .ok () →
      locate s s.cur t false (upairVal s t o.join) 16 Access.store = .ok pl → pl.loc < 2 ^ 53 → isLost s pl.loc = false →
      waitersAt s pl.loc = [] →
      (t.spilled = [] → t.chip.length < 4 → 16 ≤ poolOfLane s s.cur → ∃ s' f, exec i s = .next s' ∧ OthersStay s s' ∧
        OnlyBytes s s' pl.loc 16 ∧ Onward i s s' t { t.setPred o.q true with chip := t.chip ++ [f] } ∧
        (s'.thr s.cur).map (fun u => (u.region, u.replays)) = some (v.extractLsb' 0 57, 0) ∧
        cellState (cellAt s' pl.loc) = (if range then .count else .empty) ∧
        cellBody (cellAt s' pl.loc) = (if range then 1#64 else 0#64) ∧
        f.range = range ∧ f.promoted = false ∧ f.entry = (upairVal s t o.entry).extractLsb' 0 57 ∧
        f.join = upairVal s t o.join ∧ f.site = t.pc.extractLsb' 0 57 ∧
        (range = false → f.args = [t.rv o.r, t.rv (o.r + 1#7), t.rv (o.r + 2#7), t.rv (o.r + 3#7), t.rv (o.r + 4#7),
          t.rv (o.r + 5#7)]) ∧
        (range = true → f.lo = t.rv o.r ∧ f.hi = t.rv (o.r + 1#7) ∧
          f.grain = (if (t.rv (o.r + 2#7)).toInt < 1 then 1#32 else t.rv (o.r + 2#7)) ∧
          f.args = [t.rv (o.r + 3#7), t.rv (o.r + 4#7), t.rv (o.r + 5#7), t.rv (o.r + 6#7)])) ∧
      (t.spilled.length + t.chip.length = 64 → ∃ s', exec i s = .next s' ∧ OthersStay s s' ∧ OnlyBytes s s' pl.loc 16 ∧
        Onward i s s' t (t.setPred o.q false) ∧
        (range = false → cellState (cellAt s' pl.loc) = .empty ∧ cellBody (cellAt s' pl.loc) = 0#64) ∧
        (range = true → s'.mem = s.mem))) ∧
    (∀ (q : PReg) (d : VReg), Ready g (.iter g q d) s t →
      (∀ c f e, t.chip = c ++ f :: e → f.range = true → f.poison = false → (∀ x ∈ e, x.range = false ∧ x.poison = false) →
        (f.lo.toInt < f.hi.toInt → ∃ s', exec (.iter g q d) s = .next s' ∧ OthersStay s s' ∧ s'.mem = s.mem ∧
          Onward (.iter g q d) s s' t
            { (t.setV d f.lo).setPred q true with chip := c ++ { f with lo := f.lo + 1#32 } :: e }) ∧
        (f.hi.toInt ≤ f.lo.toInt →
          exec (.iter g q d) s = .next (finish (.iter g q d) s s.cur (t.setPred q false)))) ∧
      (t.spilled = [] → (∀ f ∈ t.chip, f.range = false ∧ f.poison = false) →
        exec (.iter g q d) s = .next (finish (.iter g q d) s s.cur (t.setPred q false)))) ∧
    (∀ q, Ready g (.fdrop g q) s t →
      (∀ c f, t.chip = c ++ [f] → f.promoted = false → f.poison = false → t.spilled = [] →
        exec (.fdrop g q) s = .next (finish (.fdrop g q) s s.cur
          ({ t with chip := c, recv := t.recv && (c.length != 0) }.setPred q true))) ∧
      ((∃ c f, t.chip = c ++ [f] ∧ f.promoted = true ∧ f.poison = false) ∨ (t.chip = [] ∧ t.spilled = []) →
        exec (.fdrop g q) s = .next (finish (.fdrop g q) s s.cur (t.setPred q false)))) ∧
    (∀ d, Ready g (.fdepth g d) s t →
      (∀ c f, t.chip = c ++ [f] → f.poison = false → exec (.fdepth g d) s = .next (finish (.fdepth g d) s s.cur (t.setV d (BitVec.ofNat 32
        (t.spilled.length + t.chip.length + (if f.range then 256 else 128) + (if f.promoted then 512 else 0)))))) ∧
      (t.chip = [] → t.spilled = [] →
        exec (.fdepth g d) s = .next (finish (.fdepth g d) s s.cur (t.setV d 0#32)))) ∧
    (∀ (i : Instr) (c : List Frame) (f : Frame), i = .join g ∨ i = .joinr g ∨ (∃ q, i = .fdrop g q) ∨ (∃ d, i = .fdepth g d) →
      Ready g i s t → t.chip = c ++ [f] → f.poison = true → t.ending = false →
      exec i s = .next (takeTrap s s.cur t ⟨.poison, 0,
        BitVec.ofNat 64 (t.block.base + 64 * (t.spilled.length + t.chip.length - 1)), 0#64, 0#64, 0#64, none, none⟩))

/-- 13 R305, R306: JOIN runs an unpromoted frame inline: it is popped, the thread goes to its entry with its words in v0
to v5 and the next address in ln. At a promoted frame JOIN waits at the frame's cell: a filled cell gives v0:v1 its
value and the frame is popped; else the thread parks. JOINR runs a range inline while indices are left, with its own
address in ln and the frame kept; at the end of a range it takes 1 from the cell's count, and pops: a count that reaches
0 is FULL with 0, and the thread of a promoted frame of its own waits for that. Without such a frame both are illegal.
Promise-cell messages as the device takes them at once (log 10), its budget admitting them (log 91). The model's
readings of its own in it: log 53. -/
def Obligations.Joins : Prop :=
  ∀ (s : State) (t : Thread) (g : Guard) (c : List Frame) (f : Frame) (v : DWord), MemOk s → t.chip = c ++ [f] →
    t.spilled = [] → f.poison = false → v = f.entry.setWidth 64 →
    (f.range = false → Ready g (.join g) s t →
      (f.promoted = false → checkTarget s (coreOf s.cur) (ctxOf s t) t.pri v = .ok () → f.args.length = 6 →
        ∃ s' t', exec (.join g) s = .next s' ∧ s'.thr s.cur = some t' ∧ t'.pc = v ∧ t'.status = .ready s.cycle ∧
          t'.ln = nextPc t.pc (encode (.join g)).length ∧ t'.chip = c ∧ OthersStay s s' ∧ s'.mem = s.mem ∧
          (∀ k, k < 6 → some (t'.rv (BitVec.ofNat 7 k)) = f.args[k]?) ∧ ∀ n : VReg, 6 ≤ n.toNat → t'.rv n = t.rv n) ∧
      (∀ loc x, f.promoted = true → s.choices.mesh = false → CellsFit s (ctxOf s t) [f.join.toNat] →
        reachCell s (ctxOf s t) f.join.toNat f.join.toNat Access.load = .ok (loc, x) →
        (cellState x = .full → ∃ s', exec (.join g) s = .next s' ∧ OthersStay s s' ∧ s'.mem = s.mem ∧
          Onward (.join g) s s' t { t.setV64 0#7 (cellBody x) with chip := c }) ∧
        (cellState x = .empty ∨ cellState x = .count → recordRoom s loc (none, coreOf s.cur) 0 = true → ∃ s' t', exec (.join g) s = .next s' ∧
          OthersStay s s' ∧ s'.thr s.cur = some t' ∧ t'.status = .parked (.cell .join) ∧ t'.chip = c ∧
          s'.cellWaiters = s.cellWaiters ++ [⟨loc, f.join.toNat, ctxOf s t, s.cur, none, none, coreOf s.cur⟩]))) ∧
    (f.range = true → Ready g (.joinr g) s t →
      (f.lo.toInt < f.hi.toInt → checkTarget s (coreOf s.cur) (ctxOf s t) t.pri v = .ok () → f.args.length = 4 →
        ∃ s' t', exec (.joinr g) s = .next s' ∧ s'.thr s.cur = some t' ∧ t'.pc = v ∧ t'.status = .ready s.cycle ∧
          t'.ln = t.pc ∧ t'.chip = t.chip ∧ OthersStay s s' ∧ s'.mem = s.mem ∧
          (∀ k, k < 4 → some (t'.rv (BitVec.ofNat 7 k)) = f.args[k]?) ∧ ∀ n : VReg, 4 ≤ n.toNat → t'.rv n = t.rv n) ∧
      (∀ loc x, f.hi.toInt ≤ f.lo.toInt → s.choices.mesh = false → CellsFit s (ctxOf s t) [f.join.toNat] →
        reachCell s (ctxOf s t) f.join.toNat f.join.toNat Access.both = .ok (loc, x) → waitersAt s loc = [] →
        cellState x = .count →
        (f.promoted = false → 2 ≤ (cellBody x).toNat → (cellBody x).toNat ≤ 2 ^ 63 →
          ∃ s', exec (.joinr g) s = .next s' ∧ OthersStay s s' ∧ OnlyBytes s s' loc 16 ∧
            Onward (.joinr g) s s' t { t with chip := c } ∧ cellState (cellAt s' loc) = .count ∧
            cellBody (cellAt s' loc) = cellBody x - 1#64) ∧
        (cellBody x = 1#64 → ∃ s', exec (.joinr g) s = .next s' ∧ OthersStay s s' ∧ OnlyBytes s s' loc 16 ∧
          Onward (.joinr g) s s' t { t with chip := c } ∧ cellState (cellAt s' loc) = .full ∧
          cellBody (cellAt s' loc) = 0#64) ∧
        (f.promoted = true → t.recv = false → 2 ≤ (cellBody x).toNat → (cellBody x).toNat ≤ 2 ^ 63 →
          recordRoom s loc (none, coreOf s.cur) 0 = true → ∃ s' t', exec (.joinr g) s = .next s' ∧ OthersStay s s' ∧
            OnlyBytes s s' loc 16 ∧ s'.thr s.cur = some t' ∧ t'.status = .parked (.cell .joinr) ∧ t'.chip = c ∧
            cellState (cellAt s' loc) = .count ∧ cellBody (cellAt s' loc) = cellBody x - 1#64 ∧
            s'.cellWaiters = s.cellWaiters ++ [⟨loc, f.join.toNat, ctxOf s t, s.cur, none, none, coreOf s.cur⟩]))) ∧
    (f.range = true → Ready g (.join g) s t → exec (.join g) s =
      .next (takeTrap s s.cur t ⟨.illegalInstruction, 2, 0#64, wordInfo (.join g), 0#64, 0#64, none, none⟩)) ∧
    (f.range = false → Ready g (.joinr g) s t → exec (.joinr g) s =
      .next (takeTrap s s.cur t ⟨.illegalInstruction, 2, 0#64, wordInfo (.joinr g), 0#64, 0#64, none, none⟩))

/-- 13 R310, R311; 08 R239: BIND, once every thread of the block has come to it, all active and unbound, one in each
lane, forms a group of them by lane, with no operation behind it and every token complete; UNBIND, once every member has
come to it, active, dissolves the group. All go on. -/
def Obligations.Binding : Prop :=
  ∀ (s : State) (t : Thread) (g : Guard) (ps : List Nat) (k : Nat), s.thr s.cur = some t → ps.Nodup →
    (∀ p ∈ ps, ∃ u, s.thr p = some u ∧ (u.pred g.q ^^ g.neg) = true ∧ u.pc = t.pc ∧
      (p ≠ s.cur → u.status = .stalled .meet)) →
    (∀ w : BitVec 2, ps = blockThreads s s.cur t (4 * 2 ^ w.toNat) → ps.length = 4 * 2 ^ w.toNat → t.gang ≠ none →
      isLegacy s t = false → (∀ p ∈ ps, (s.thr p).map (·.group) = some none) → k = s.serial →
      ∃ s', exec (.bind g w) s = .next s' ∧ s'.group k = some ⟨t.team, ps, [], true⟩ ∧ s'.mem = s.mem ∧
        (∀ p, p ∉ ps → s'.thr p = s.thr p) ∧
        ∀ p ∈ ps, ∀ u, s.thr p = some u → ∃ u', s'.thr p = some u' ∧ u'.group = some k ∧ u'.v = u.v ∧ u'.q = u.q ∧
          u'.pc = nextPc u.pc (encode (.bind g w)).length ∧ u'.status = .ready s.cycle ∧
          ∀ n : BitVec 4, u'.token n = ⟨none, 0#5⟩) ∧
    (t.group = some k → groupMembers s t = some ps →
      ∃ s', exec (.unbind g) s = .next s' ∧ s'.mem = s.mem ∧ (∀ p, p ∉ ps → s'.thr p = s.thr p) ∧
        (s'.group k).map (·.live) = some false ∧
        ∀ p ∈ ps, ∀ u, s.thr p = some u → ∃ u', s'.thr p = some u' ∧ u'.group = none ∧ u'.v = u.v ∧ u'.q = u.q ∧
          u'.pc = nextPc u.pc (encode (.unbind g)).length ∧ u'.status = .ready s.cycle)

/-- 13 R315 to R317; 14 R334: WLPUSH and WLINS place an entry on the unit of the thread's core when it has room; WLINS
does not place one that its filter has seen, on chip or in its bitmap, and sets the bit of one that it places; at a live
ordered cell the atomic on that word is the ordered-cell fault (03 R105). WLPOP takes the oldest entry of its list, and
at an empty list sets starve. WLCNT counts entries on chip and in the ring. SPAWN writes the packet into the next three
slots of its queue, and no other byte, and rings the doorbell by three, when the ring has room. The model's readings of
its own in it: log 63, log 64, log 65. -/
def Obligations.WorkListsAndSpawn : Prop :=
  ∀ (s : State) (t : Thread) (g : Guard) (h : WlHead) (va : DWord) (wl : List WlEntry), MemOk s →
    wl = (s.core (coreOf s.cur)).wl → locateHead s s.cur t va = .ok h →
    (∀ (o : SpawnOps) (i : Instr), va = upairVal s t o.a →
      (i = .wlpush g o ∨ i = .wlins g o ∧ h.flog2 = 0 ∧ ∀ e ∈ wl, e.team = t.team → e.header = va → e.value ≠ t.rv o.b) →
      Ready g i s t → wl.length < 4096 →
      ∃ s', exec i s = .next s' ∧ Onward i s s' t (t.setPred o.q true) ∧ OthersStay s s' ∧ s'.mem = s.mem ∧
        (s'.core (coreOf s.cur)).wl = wl ++ [⟨t.team, ctxOf s t, va, t.rv o.b⟩]) ∧
    (∀ (o : SpawnOps) (i : Instr), va = upairVal s t o.a → Ready g i s t →
      (i = .wlins g o ∧ h.flog2 = 0 ∧ (∃ e ∈ wl, e.team = t.team ∧ e.header = va ∧ e.value = t.rv o.b)) ∨
      (i = .wlpush g o ∧ 4096 ≤ wl.length ∧ ∀ e ∈ wl, e.team = t.team → e.header ≠ va) →
      exec i s = .next (finish i s s.cur (t.setPred o.q false))) ∧
    (∀ (o : SpawnOps) (loc : Nat) (old : Word), va = upairVal s t o.a → Ready g (.wlins g o) s t → isLost s loc = false →
      planFilter s (coreOf s.cur) (ctxOf s t) t.team t.pri h (t.rv o.b) = .ok (.word loc old) →
      (∀ x, s.ordered.find? (fun x => decide (loc < x.loc + 16) && decide (x.loc < loc + 4)) = some x →
        old.getLsbD ((t.rv o.b).toNat % 32) = true ∨ wl.length < 4096 → ∃ tr,
        exec (.wlins g o) s = .next (takeTrap s s.cur t tr) ∧ tr.cause = .orderedCell ∧ tr.sub = 0 ∧
          tr.info2 = BitVec.ofNat 64 x.e) ∧
      ((∀ x ∈ s.ordered, loc + 4 ≤ x.loc ∨ x.loc + 16 ≤ loc) →
      (old.getLsbD ((t.rv o.b).toNat % 32) = true → ∃ s', exec (.wlins g o) s = .next s' ∧
        Onward (.wlins g o) s s' t (t.setPred o.q false) ∧ OthersStay s s' ∧ OnlyBytes s s' loc 4 ∧
        (s'.core (coreOf s.cur)).wl = wl) ∧
      (old.getLsbD ((t.rv o.b).toNat % 32) = false → wl.length < 4096 → ∃ s', exec (.wlins g o) s = .next s' ∧
        Onward (.wlins g o) s s' t (t.setPred o.q true) ∧ OthersStay s s' ∧ OnlyBytes s s' loc 4 ∧
        (∀ k, k < 32 → (BitVec.ofNat 32 (leNat (s'.read loc 4))).getLsbD k =
          (old.getLsbD k || decide (k = (t.rv o.b).toNat % 32))) ∧
        (s'.core (coreOf s.cur)).wl = wl ++ [⟨t.team, ctxOf s t, va, t.rv o.b⟩]))) ∧
    (∀ (la : BitVec 4) (o : WlpopOps), va = upairVal s t o.a → Ready g (.wlpop g la o) s t →
      (∀ e, wl.find? (fun e => e.team == t.team && e.header == va) = some e →
        ∃ s', exec (.wlpop g la o) s = .next s' ∧
          Onward (.wlpop g la o) s s' t ((t.setV o.d e.value).setPred o.q true) ∧ OthersStay s s' ∧ s'.mem = s.mem ∧
          (s'.core (coreOf s.cur)).wl = wl.erase e) ∧
      ((∀ e ∈ wl, e.team = t.team → e.header ≠ va) → h.head = h.tail →
        ∃ s', exec (.wlpop g la o) s = .next s' ∧ Onward (.wlpop g la o) s s' t (t.setPred o.q false) ∧
          OthersStay s s' ∧ OnlyBytes s s' (h.loc + 24) 17 ∧ s'.read (h.loc + 40) 1 = [1#8])) ∧
    (∀ (la : BitVec 4) (o : WlcntOps), va = upairVal s t o.a → Ready g (.wlcnt g la o) s t →
      exec (.wlcnt g la o) s = .next (finish (.wlcnt g la o) s s.cur (t.setV64 o.d (BitVec.ofNat 64
        ((wl.filter fun e => e.team == t.team && e.header == va).length + (2 ^ 64 + h.tail - h.head)))))) ∧
    (∀ (o : SpawnOps) (q : Nat), q = (t.rv o.b).toNat → Ready g (.spawn g o) s t →
      (∀ bs l, spawnPlan s s.cur t (upairVal s t o.a) q = .ok (some (bs, l)) → ∃ s', exec (.spawn g o) s = .next s' ∧
        Onward (.spawn g o) s s' t (t.setPred o.q true) ∧ OthersStay s s' ∧
        qfield s' q 128 32 = (qfield s q 128 32 + 3) % 2 ^ 32 ∧ bs.length = 192 ∧ l.length = 3 ∧
        ((∀ e ∈ l, isLost s e.loc = false) →
          (∀ a, (∀ e ∈ l, a < e.loc ∨ e.loc + 64 ≤ a) → memByte s'.mem a = memByte s.mem a) ∧
          ((l.map (·.loc)).Pairwise (fun a b => a + 64 ≤ b ∨ b + 64 ≤ a) →
            ∀ k e, l[k]? = some e → s'.read e.loc 64 = (bs.drop (64 * k)).take 64))) ∧
      (spawnPlan s s.cur t (upairVal s t o.a) q = .ok none →
        exec (.spawn g o) s = .next (finish (.spawn g o) s s.cur (t.setPred o.q false))))

/-! Promise cells. -/

/-- 05 R135, R139, R144, R149, R150; 13 R307: the cell instructions at an unlinked cell without waiters, with messages
that the device performs at once (log 10), its budget admitting them (log 91). CINIT makes it EMPTY, or COUNT m, or FULL
0 for m = 0; CFILL fills an EMPTY cell and leaves a FULL one of the same value; CFILL.cnt adds to a count; CWAIT gives
the value of a FULL cell, and else parks, with a record; CTEST and CPEEK read, an EMPTY cell as 0; TDONE fills and
returns to ln with the value in v0:v1. The model's readings of its own in it: log 49. -/
def Obligations.PromiseCells : Prop :=
  ∀ (s : State) (t : Thread) (g : Guard) (o : CellOps) (va loc l0 : Nat) (x : BitVec 128), MemOk s → s.choices.mesh = false →
    cellState x ≠ .linked → waitersAt s loc = [] →
    (∀ (i : Instr) (m : DWord), locateCell s s.cur t o.m Access.store = .ok (va, loc) → isLost s loc = false →
      allFit s (ctxOf s t) [(loc, 16)] = true →
      i = .cinit g o ∨ (i = .cinitCount g o ∧ m = t.rv64 o.d ∧ m.msb = false) → Ready g i s t →
      ∃ s', exec i s = .next s' ∧ Onward i s s' t t ∧ OthersStay s s' ∧ OnlyBytes s s' loc 16 ∧
        (i = .cinit g o → cellState (cellAt s' loc) = .empty ∧ cellBody (cellAt s' loc) = 0#64) ∧
        (i = .cinitCount g o → cellState (cellAt s' loc) = (if m = 0#64 then .full else .count) ∧
          cellBody (cellAt s' loc) = m)) ∧
    (locateCell s s.cur t o.m Access.both = .ok (va, l0) → CellsFit s (ctxOf s t) [va] →
      reachCell s (ctxOf s t) va va Access.both = .ok (loc, x) →
      (cellState x = .empty → Ready g (.cfill g o) s t → ∃ s', exec (.cfill g o) s = .next s' ∧
        Onward (.cfill g o) s s' t t ∧ OthersStay s s' ∧ OnlyBytes s s' loc 16 ∧ cellState (cellAt s' loc) = .full ∧
        cellBody (cellAt s' loc) = t.rv64 o.d) ∧
      (cellState x = .full → cellBody x = t.rv64 o.d → Ready g (.cfill g o) s t → ∃ s', exec (.cfill g o) s = .next s' ∧
        Onward (.cfill g o) s s' t t ∧ OthersStay s s' ∧ s'.mem = s.mem) ∧
      (∀ n : Int, cellState x = .count → n = (cellBody x).toNat + (t.rv64 o.d).toInt → 0 < n → n < 2 ^ 63 →
        Ready g (.cfillCnt g o) s t → ∃ s', exec (.cfillCnt g o) s = .next s' ∧ Onward (.cfillCnt g o) s s' t t ∧
        OthersStay s s' ∧ OnlyBytes s s' loc 16 ∧ cellState (cellAt s' loc) = .count ∧
        ((cellBody (cellAt s' loc)).toNat : Int) = n)) ∧
    (locateCell s s.cur t o.m Access.load = .ok (va, l0) → CellsFit s (ctxOf s t) [va] →
      reachCell s (ctxOf s t) va va Access.load = .ok (loc, x) →
      (cellState x = .full → Ready g (.cwait g o) s t → ∃ s', exec (.cwait g o) s = .next s' ∧
        Onward (.cwait g o) s s' t (t.setV64 o.d (cellBody x)) ∧ OthersStay s s' ∧ s'.mem = s.mem) ∧
      (cellState x = .empty ∨ cellState x = .count → recordRoom s loc (none, coreOf s.cur) 0 = true → Ready g (.cwait g o) s t →
        ∃ s', exec (.cwait g o) s = .next s' ∧ OthersStay s s' ∧ OnlyBytes s s' loc 16 ∧
        (s'.thr s.cur).map (·.status) = some (.parked (.cell (.wait o.d))) ∧
        s'.cellWaiters = s.cellWaiters ++ [⟨loc, va, ctxOf s t, s.cur, none, none, coreOf s.cur⟩] ∧
        cellState (cellAt s' loc) = cellState x ∧ cellBody (cellAt s' loc) = cellBody x) ∧
      (∀ la q, Ready g (.ctest g la q o) s t → ∃ s', exec (.ctest g la q o) s = .next s' ∧ OthersStay s s' ∧
        s'.mem = s.mem ∧ Onward (.ctest g la q o) s s' t (if cellState x = .full
          then (t.setPred q true).setV64 o.d (cellBody x) else (t.setPred q false).setV64 o.d 0#64)) ∧
      (∀ la, Ready g (.cpeek g la o) s t → ∃ s', exec (.cpeek g la o) s = .next s' ∧ OthersStay s s' ∧ s'.mem = s.mem ∧
        Onward (.cpeek g la o) s s' t (t.setQuad o.d (if cellState x = .empty then 0#64 else cellBody x)
          (BitVec.ofNat 64 (va % 2 ^ 57 + (cellState x).code * 2 ^ 62))))) ∧
    (∀ (a : UPair) (d : VReg) (pl : Machine.Place), va = (upairVal s t a).toNat → Ready g (.tdone g a d) s t →
      t.ln ≠ 0#64 → checkTarget s (coreOf s.cur) (ctxOf s t) t.pri t.ln = .ok () →
      locate s s.cur t false (upairVal s t a) 16 Access.store = .ok pl → pl.loc < 2 ^ 53 →
      CellsFit s (ctxOf s t) [va] → reachCell s (ctxOf s t) va va Access.both = .ok (loc, x) → cellState x = .empty →
      ∃ s' t', exec (.tdone g a d) s = .next s' ∧ s'.thr s.cur = some t' ∧ t'.pc = t.ln ∧ t'.status = .ready s.cycle ∧
        t'.v = (t.setV64 0#7 (t.rv64 d)).v ∧ OthersStay s s' ∧ OnlyBytes s s' loc 16 ∧
        cellState (cellAt s' loc) = .full ∧ cellBody (cellAt s' loc) = t.rv64 d)

/-- 05 R144, R150, R152: CEQU joins the classes of two unlinked cells, messages performed at once (log 10), the budget
admitting them (log 91): two cells of one root stay; of two EMPTY cells the higher address becomes LINKED to the lower;
an EMPTY cell takes the value of a FULL one, and becomes LINKED to a COUNT; two FULL cells of one value stay. Two FULL
cells of two values conflict, subcause 0, with the values; a COUNT conflicts with a FULL cell and with a COUNT, subcause
1, with the codes of the states; the record names the cell and its own root. A fill wakes the thread that waits at its
cell, with the value. The model's readings of its own in it: log 50, log 51. -/
def Obligations.CellClasses : Prop :=
  ∀ (s : State) (t : Thread) (g : Guard) (o : CellOps) (va vb la lb l0 : Nat) (x y : BitVec 128), MemOk s →
    s.choices.mesh = false → (s.threads.map (·.1)).Nodup → locateCell s s.cur t o.m Access.both = .ok (va, l0) →
    reachCell s (ctxOf s t) va va Access.both = .ok (la, x) →
    (∀ pl, vb = (t.rv64 o.b).toNat → locate s s.cur t false (t.rv64 o.b) 16 Access.both = .ok pl → pl.loc < 2 ^ 53 →
      reachCell s (ctxOf s t) va vb Access.both = .ok (lb, y) → CellsFit s (ctxOf s t) [va, vb] →
      waitersAt s la = [] → waitersAt s lb = [] → cellState x ≠ .linked → cellState y ≠ .linked → Ready g (.cequ g o) s t →
      (la = lb ∨ (cellState x = .full ∧ cellState y = .full ∧ cellBody x = cellBody y) → ∃ s',
        exec (.cequ g o) s = .next s' ∧ Onward (.cequ g o) s s' t t ∧ OthersStay s s' ∧ s'.mem = s.mem) ∧
      (la + 16 ≤ lb ∨ lb + 16 ≤ la →
        (∀ (l : Nat) (v : DWord), (cellState x = .full ∧ cellState y = .empty ∧ l = lb ∧ v = cellBody x) ∨
            (cellState x = .empty ∧ cellState y = .full ∧ l = la ∧ v = cellBody y) → ∃ s',
          exec (.cequ g o) s = .next s' ∧ Onward (.cequ g o) s s' t t ∧ OthersStay s s' ∧ OnlyBytes s s' l 16 ∧
          cellState (cellAt s' l) = .full ∧ cellBody (cellAt s' l) = v) ∧
        (∀ parent l : Nat, (cellState x = .empty ∧ cellState y = .empty ∧ va < vb ∧ l = lb ∧ parent = va) ∨
            (cellState x = .empty ∧ cellState y = .empty ∧ vb < va ∧ l = la ∧ parent = vb) ∨
            (cellState x = .count ∧ cellState y = .empty ∧ l = lb ∧ parent = va) ∨
            (cellState x = .empty ∧ cellState y = .count ∧ l = la ∧ parent = vb) → va < 2 ^ 57 → vb < 2 ^ 57 → ∃ s',
          exec (.cequ g o) s = .next s' ∧ Onward (.cequ g o) s s' t t ∧ OthersStay s s' ∧ OnlyBytes s s' l 16 ∧
          cellState (cellAt s' l) = .linked ∧ cellParent (cellAt s' l) = parent) ∧
        (∀ (sub : Nat) (a b : DWord), (sub = 0 ∧ cellState x = .full ∧ cellState y = .full ∧ cellBody x ≠ cellBody y ∧
              a = cellBody x ∧ b = cellBody y) ∨
            (sub = 1 ∧ ((cellState x = .count ∧ cellState y ≠ .empty) ∨ (cellState y = .count ∧ cellState x ≠ .empty)) ∧
              a = BitVec.ofNat 64 (cellState x).code ∧ b = BitVec.ofNat 64 (cellState y).code) → t.board = [] → ∃ s' r,
          exec (.cequ g o) s = .next s' ∧ OthersStay s s' ∧ s'.mem = s.mem ∧ (s'.thr s.cur).map (fun u => (u.pc, u.v, u.status)) =
            some (t.pc, t.v, .parked (.trap ⟨.conflictingFill, sub, BitVec.ofNat 64 va, BitVec.ofNat 64 va, a, b, none, none⟩
              false)) ∧ s'.records = s.records ++ [r]))) ∧
    (∀ (w : CellWaiter) (u : Thread) (d : VReg), cellState x = .empty → s.cellWaiters.filter (·.loc == la) = [w] →
      w.team = none → w.module = none → w.place ≠ s.cur → s.thr w.place = some u → u.status = .parked (.cell (.wait d)) →
      CellsFit s (ctxOf s t) [va] → Ready g (.cfill g o) s t →
      ∃ s' u', exec (.cfill g o) s = .next s' ∧ Onward (.cfill g o) s s' t t ∧ s'.thr w.place = some u' ∧
        u'.status = .ready s.cycle ∧ u'.pc = u.npc ∧ u'.v = (u.setV64 d (t.rv64 o.d)).v ∧
        cellState (cellAt s' la) = .full ∧ s'.cellWaiters = s.cellWaiters.filter (·.loc != la))

/-! The matrix engine and the signature stage. -/

/-- 08 R233, R236, R239, R242 to R246: a matrix instruction of a whole bank, its slots and tiles held and its rows
permitted, enters the queue of its half of the core when the queue has room, and no add of a member is held at an
address it names (03 R96), and its members go on, their token waiting for it; what it will read and write is fixed then:
slots, tiles, places of memory, the members' exponents (MMA), row indices (MPRM) and draws (MST), and its debit (08
R248). A full queue, or a held add, stalls the member that came last. The model's readings of its own in it: log 48, log
58. 09 R254 to R267; 08 R236, R239: a signature instruction of a whole bank, with its windows of slots held, its rows in
range, its map permitted and its buffer neither poisoned nor waiting for a writer, enters queue sig. It captures the
rows it reads and writes, its register words (the seed and R, or R and the members' keys), the signatures and P, or the
whole map, and its debit (09 R258); a full queue, or an add of a member held at an address of its map (03 R96), stalls
the member that came last. The debit of SIGS and SIGG counts an .f64 pair as two tiles: the model's choice (log 106,
unsafe). The model's readings of its own in it: log 48, log 58, log 106. -/
def Obligations.EngineAcceptance : Prop :=
  (∀ (s : State) (g : Guard) (i : Instr) (ps : List Nat) (p q core : Nat) (t : Thread) (k : BitVec 4)
     (sr sw tr tw l : List Nat) (ws : List Word) (ds : List (DWord × DWord × Nat)) (nj : Nat),
     GatheredWhole true g i s ps → ps.head? = some p → s.thr p = some t → core = coreOf p →
     q = (if bankOf p < 2 then 4 else 5) →
     ((∃ o ph, i = .mld g o ∧ k = o.t ∧ slotOf? s core t.team o.slot.toNat = some ph ∧
         locateRows s p t o.a o.stride 256 Access.load = .ok l ∧ sr = [] ∧ sw = [ph] ∧ tr = [] ∧ tw = [] ∧ ws = [] ∧ ds = [] ∧
         nj = 3) ∨
      (∃ o ts, i = .mldc g o ∧ k = o.t ∧ tilesOf s core t.team o.tile.toNat o.acc64 = some ts ∧
         locateRows s p t o.a o.stride (rowBytes o.fmt) Access.load = .ok l ∧ sr = [] ∧ sw = [] ∧ tr = [] ∧ tw = ts ∧ ws = [] ∧
         ds = [] ∧ nj = 3) ∨
      (∃ o ts, i = .mst g o ∧ k = o.t ∧ tilesOf s core t.team o.tile.toNat o.acc64 = some ts ∧
         locateRows s p t o.a o.stride (rowBytes o.fmt) Access.store = .ok l ∧ sr = [] ∧ sw = [] ∧ tr = ts ∧ tw = [] ∧ ws = [] ∧
         ds = ps.filterMap (fun k => (s.thr k).map fun u => (drawKey s u, u.ctr, drawPos s k u)) ∧ nj = 3) ∨
      (∃ a n ts, i = .mzero g k a n ∧ tilesOf s core t.team n.toNat a = some ts ∧ l = [] ∧ sr = [] ∧ sw = [] ∧ tr = [] ∧
         tw = ts ∧ ws = [] ∧ ds = [] ∧ nj = 1) ∨
      (∃ o a b ts, i = .mma g o ∧ k = o.t ∧ slotOf? s core t.team o.a.toNat = some a ∧
         slotOf? s core t.team o.b.toNat = some b ∧ tilesOf s core t.team o.tile.toNat (o.fmt == .f64) = some ts ∧ l = [] ∧
         sr = [a, b] ∧ sw = [] ∧ tr = ts ∧ tw = ts ∧ ds = [] ∧ nj = mmaDebit o.fmt ∧
         ws = ps.flatMap (fun k => ((s.thr k).map fun u => (mmaRegs o).map fun n => u.rv (BitVec.ofNat 7 n)).getD [])) ∨
      (∃ o a ts, i = .mtrn g o ∧ k = o.t ∧ slotOf? s core t.team o.slot.toNat = some a ∧
         tilesOf s core t.team o.tile.toNat (o.fmt == .f64) = some ts ∧ l = [] ∧ sr = [a] ∧ sw = [] ∧ tr = [] ∧ tw = ts ∧
         ws = [] ∧ ds = [] ∧ nj = mmaDebit o.fmt) ∨
      (∃ o a ts, i = .mprm g o ∧ k = o.t ∧ slotOf? s core t.team o.slot.toNat = some a ∧
         tilesOf s core t.team o.tile.toNat (o.fmt == .f64) = some ts ∧ l = [] ∧ sr = [a] ∧ sw = [] ∧ tr = [] ∧ tw = ts ∧
         ws = ps.map (fun k => ((s.thr k).map (·.rv o.p)).getD 0#32) ∧ ds = [] ∧ nj = mmaDebit o.fmt) ∨
      (∃ o a ts, i = .mred g o ∧ k = o.t ∧ slotOf? s core t.team o.slot.toNat = some a ∧
         tilesOf s core t.team o.tile.toNat (o.fmt == .f64) = some ts ∧ l = [] ∧ sr = [a] ∧ sw = [] ∧ tr = ts ∧ tw = ts ∧
         ws = [] ∧ ds = [] ∧ nj = mmaDebit o.fmt)) →
     ((queueAt s core q).length < 64 → (∀ m ∈ ps, addHeldAt s m (l.map (·, 32)) = false) → ∃ s' op, exec i s = .next s' ∧ Accepted i s s' ps q k op ∧ op.slotsR = sr ∧
       op.slotsW = sw ∧ op.tilesR = tr ∧ op.tilesW = tw ∧ op.locs = l ∧ op.words = ws ∧ op.draws = ds ∧ op.debit = nj) ∧
     (64 ≤ (queueAt s core q).length ∨ (∃ m ∈ ps, addHeldAt s m (l.map (·, 32)) = true) → ∀ u, s.thr s.cur = some u → exec i s = .next (stall s s.cur u (.groupRoom q)))) ∧
  (∀ (s : State) (g : Guard) (i : Instr) (ps : List Nat) (p core : Nat) (t : Thread) (k : BitVec 4)
     (sr sw tr tw l : List Nat) (ws : List Word) (nj : Nat),
     GatheredWhole true g i s ps → ps.head? = some p → s.thr p = some t → core = coreOf p →
     ((∃ o r, i = .sighSrp g o ∧ k = o.t ∧ r = (t.rv (o.q + 2#7)).toNat % 512 ∧ 1 ≤ r ∧ r ≤ 256 ∧
         window s core t.team o.w.toNat ((r + 31) / 32) = .ok sr ∧ sw = [] ∧ tr = [] ∧ tw = [] ∧ l = [] ∧
         ws = [t.rv o.q, t.rv (o.q + 1#7), BitVec.ofNat 32 r] ∧ nj = 4 * ((r + 31) / 32)) ∨
      (∃ o r, i = .sighKey g o ∧ k = o.t ∧ r = (t.rv (o.q + 2#7)).toNat % 512 ∧ 1 ≤ r ∧ r ≤ 256 ∧ sr = [] ∧ sw = [] ∧
         tr = [] ∧ tw = [] ∧ l = [] ∧ ws = BitVec.ofNat 32 r :: (memberKeys s ps o.k).take r ∧ nj = 1) ∨
      (∃ o b a, i = .sigb g o ∧ k = o.t ∧ b = getBuf s core t.team o.kb.toNat ∧ b.kpoison = 0 ∧
         partPending s core t.team o.kb.toNat false = false ∧ window s core t.team o.oW.toNat ((b.rows + 31) / 32) = .ok sr ∧
         window s core t.team o.oD.toNat ((b.rows + 31) / 32) = .ok sw ∧ meets sr sw = false ∧
         locateMap s p t o.q Access.store = .ok a ∧ l = [a] ∧ tr = [] ∧ tw = [] ∧
         ws = BitVec.ofNat 32 (sigbP t o.q) :: BitVec.ofNat 32 b.rows :: BitVec.ofNat 32 b.h ::
           (b.sigs.take b.rows).map (·.setWidth 32) ∧ nj = (if o.rule = .mean then 4 else 2) * ((b.rows + 31) / 32)) ∨
      (∃ o b src dst few rows back, (i = .sigs g o ∧ back = false ∨ i = .sigg g o ∧ back = true) ∧ k = o.t ∧
         b = getBuf s core t.team o.kb.toNat ∧ b.mpoison = 0 ∧ partPending s core t.team o.kb.toNat true = false ∧
         src = (t.rv (o.q + 2#7)).toNat % 2048 ∧ dst = (t.rv (o.q + 2#7)).toNat / 65536 % 2048 ∧ rows = mapRows b.map ∧
         few = (if mapRule b.map = 0 then rows else mapBuckets b.map) ∧ (o.f64 = true → src % 2 = 0 ∧ dst % 2 = 0) ∧
         rowTiles s core t.team src (if back then rows else few) o.f64 = .ok tr ∧
         rowTiles s core t.team dst (if back then few else rows) o.f64 = .ok tw ∧ meets tr tw = false ∧ sr = [] ∧ sw = [] ∧
         l = [] ∧ ws = (List.range 528).map (mapWord b.map) ∧ nj = (if back then 2 * tr.length else tw.length)) ∨
      (∃ o a, i = .sigmap g o ∧ k = o.t ∧ locateMap s p t o.q Access.load = .ok a ∧ l = [a] ∧ sr = [] ∧ sw = [] ∧ tr = [] ∧
         tw = [] ∧ ws = [] ∧ nj = 1)) →
     ((queueAt s core 6).length < 64 → (∀ m ∈ ps, addHeldAt s m (l.map (·, 2112)) = false) → ∃ s' op, exec i s = .next s' ∧ Accepted i s s' ps 6 k op ∧ op.slotsR = sr ∧
       op.slotsW = sw ∧ op.tilesR = tr ∧ op.tilesW = tw ∧ op.locs = l ∧ op.words = ws ∧ op.debit = nj) ∧
     (64 ≤ (queueAt s core 6).length ∨ (∃ m ∈ ps, addHeldAt s m (l.map (·, 2112)) = true) → ∀ u, s.thr s.cur = some u → exec i s = .next (stall s s.cur u (.groupRoom 6))))

/-- 08 R228, R239, R242, R247: MCLAIM binds a name of the team to a free physical slot, all zero; MREL frees the name; a
name held already, or not held, is a slot-ownership exception in the member at position 0, whose own instructions are
all complete (02 R75). With no free slot the member that came last stalls. MWAIT writes the flags of its token's
operations once all of them have completed, and else parks; MTEST tells whether they have. -/
def Obligations.SlotsAndTokens : Prop :=
  ∀ (s : State) (g : Guard),
    (∀ (i : Instr) (n : BitVec 6) (ps : List Nat) (p core : Nat) (t : Thread), i = .mclaim g n ∨ i = .mrel g n →
      GatheredWhole true g i s ps → ps.head? = some p → s.thr p = some t → core = coreOf p →
      (∀ ph, i = .mclaim g n → slotOf? s core t.team n.toNat = none → freePhys s core = some ph →
        ∃ s', exec i s = .next s' ∧ s'.mem = s.mem ∧ (∀ p', p' ∉ ps → s'.thr p' = s.thr p') ∧
          (s'.core core).binds = (s.core core).binds ++ [⟨ph, t.team, n.toNat⟩] ∧
          (∀ r, r < 32 → slotLine s' core ph r = List.replicate 256 0#8) ∧
          ∀ p' ∈ ps, ∀ u, s.thr p' = some u → (s'.thr p').map (fun u => (u.pc, u.status)) =
            some (nextPc u.pc (encode i).length, .ready s.cycle)) ∧
      (∀ ph, i = .mrel g n → slotOf? s core t.team n.toNat = some ph →
        ∃ s', exec i s = .next s' ∧ s'.mem = s.mem ∧ (∀ p', p' ∉ ps → s'.thr p' = s.thr p') ∧
          (s'.core core).binds = (s.core core).binds.filter (fun b => !(b.team == t.team && b.name == n.toNat)) ∧
          ∀ p' ∈ ps, ∀ u, s.thr p' = some u → (s'.thr p').map (fun u => (u.pc, u.status)) =
            some (nextPc u.pc (encode i).length, .ready s.cycle)) ∧
      ((i = .mclaim g n ∧ (slotOf? s core t.team n.toNat).isSome) ∨
        (i = .mrel g n ∧ slotOf? s core t.team n.toNat = none) → t.board = [] →
        ∃ s', exec i s = .next s' ∧ s'.mem = s.mem ∧ s'.cores = s.cores ∧ (s'.thr p).map (fun u => (u.pc, u.status)) =
          some (t.pc, .parked (.trap ⟨.slotOwnership, 0, 0#64, n.setWidth 64, 0#64, 0#64, none, none⟩ false))) ∧
      (∀ u, i = .mclaim g n → slotOf? s core t.team n.toNat = none → freePhys s core = none → s.thr s.cur = some u →
        exec i s = .next (stall s s.cur u .slot))) ∧
    (∀ (t : Thread) (d : VReg) (q : PReg) (k : BitVec 4) (o : Option (BitVec 5)),
      (((t.token k).pend = none ∧ o = some (t.token k).flags) ∨
       (∃ gg n gr a f b, (t.token k).pend = some (gg, n) ∧ s.group gg = some gr ∧ gr.log = a ++ (n, f) :: b ∧
          (∀ e ∈ a, e.1 ≠ n ∧ e.2 ≠ none) ∧ o = f.map fun x => (a.filterMap (·.2)).foldl (· ||| ·) 0#5 ||| x)) →
      (Ready g (.mwait g d k) s t → exec (.mwait g d k) s = .next (match o with
        | some fl => finish (.mwait g d k) s s.cur (t.setV d (fl.setWidth 32))
        | none => park (.mwait g d k) s s.cur t (.token k d))) ∧
      (Ready g (.mtest g q k) s t →
        exec (.mtest g q k) s = .next (finish (.mtest g q k) s s.cur (t.setPred q o.isSome))))

/-- 08 R236 to R239, R244, R245, R248, R249; 09 R257, R260; 16 R357: an operation of m0, m1 or sig starts when the
earlier ones that it depends on are done, its array is idle, or it moves rows beside the array, and its debit is
covered; the debit is taken from the account when that is its context's. An array that a reset left held is released
before. When an operation completes, the mesh taking its writes, it leaves its queue and its token's flags stand in its
group's log; an array goes idle, or quiet when it is held. MZERO leaves zeros, and MMA adds to each element the exact
sum of products, rounded once; SIGH.key keeps its keys. The model's readings of its own in it: log 57, log 58, log 80.
-/
def Obligations.EngineOperations : Prop :=
  ∀ (s : State) (core q : Nat) (e : QEntry) (op : EngOp), e.kind = .eng op →
    (∀ i, (i = .tileOpStart core q ∧ (q = 4 ∨ q = 5) ∧ (arrayOf (s.core core) q = .idle ∨
          (arrayOf (s.core core) q = .busy ∧ isTransfer op = true))) ∨
        (i = .sigOpStart core ∧ q = 6 ∧ runningSig s core = none) →
      nextEng s core q = some (e, op) → depsDone s core op = true → covered s core e op = true →
      ∃ s', exec i s = .next s' ∧ s'.mem = s.mem ∧ s'.threads = s.threads ∧
        (s'.core core).energy = (if inPartition s e.ctx core then (s.core core).energy - op.debit else (s.core core).energy) ∧
        (q ≠ 6 → arrayOf (s'.core core) q = (if isTransfer op then arrayOf (s.core core) q else .busy)) ∧
        queueAt s' core q = (queueAt s core q).map (fun x => if x.id == e.id && !x.isMarker then { e with started := true } else x)) ∧
    (q = 4 ∨ q = 5 → nextEng s core q = some (e, op) → ∀ h, (arrayOf (s.core core) q = .quiet ∧ h = ArrayState.idle) ∨
        (arrayOf (s.core core) q = .holding ∧ h = .busy) →
      ∃ s', exec (.tileOpStart core q) s = .next s' ∧ arrayOf (s'.core core) q = h ∧ s'.mem = s.mem ∧
        s'.threads = s.threads ∧ queueAt s' core q = queueAt s core q) ∧
    (∀ i, (i = .tileOpComplete core q e.id ∧ (q = 4 ∨ q = 5) ∧ tileMayEnd s core q e.id = true ∧
          findOp s core q e.id = some e) ∨
        (i = .sigOpComplete core ∧ q = 6 ∧ runningSig s core = some (e, op) ∧ writeHeld s core op = false) →
      ∃ s' fl, exec i s = .next s' ∧ (∀ x ∈ queueAt s' core q, x.id = e.id → x.isMarker = true) ∧
        (∀ gr, s.group op.group = some gr → (s'.group op.group).map (·.log) =
          some (gr.log.map fun x => if x.1 == e.id then (x.1, some fl) else x)) ∧
        (q ≠ 6 → isTransfer op = false → arrayOf (s'.core core) q = (match arrayOf (s.core core) q with
          | .holding => .quiet
          | .busy => .idle
          | a => a)) ∧
        (∀ g k a n T, q ≠ 6 → op.instr = .mzero g k a n → op.tilesW.head? = some T →
          ∀ r, r < 32 → tileRow s' core T a r = List.replicate 32 0) ∧
        (∀ g o A B T, q ≠ 6 → op.instr = .mma g o → o.fmt = .f16 ∨ o.fmt = .bf16 ∨ o.fmt = .f32 → op.slotsR = [A, B] →
          op.tilesW = [T] → ∀ r c, r < 32 → c < 32 → (tileRow s' core T false r)[c]? =
            some ((Numbers.round .f32 .rn 0 (Numbers.exactSum
              (Numbers.decode .f32 (((tileRow s core T false r)[c]?).getD 0) ::
                List.zipWith Numbers.mul (lineVals o.fmt (slotLine s core A r) [])
                  (lineVals o.fmt (slotLine s core B c) [])))).1 % 2 ^ 32)) ∧
        (∀ g o tm, q = 6 → op.instr = .sighKey g o → op.bufsW ≠ [] → s.team e.team = some tm → inRect tm core = true →
          (getBuf s' core e.team o.kb.toNat).rows = (op.words.headD 0#32).toNat ∧
          ∀ k w, op.words[k + 1]? = some w → k < 256 →
            (getBuf s' core e.team o.kb.toNat).sigs[k]? = some (w.setWidth 16)))

/-- 08 R239, R243 to R246; 06 R168, R170: what a matrix operation leaves when it completes, and the flags in its group's
log, the union over its elements. MLD: each row of the slot the row of memory, each sector's poison in its line. MLDC:
each element of the tile the element of memory, rounded into the accumulator's format. MST: each element of memory the
rounded element, under RS with its member's draw, and no other byte. (Of memory whose frames are still granted: else log
109.) MMA, of every format: the exact sum of the products of a row of A and a row of B, block formats under their
members' exponents, and the old value, rounded once. MTRN and MPRM: the elements of a 32-wide piece of the slot,
transposed or by the members' row indices, widened. MRED: the exact sum along rows or columns. The model's readings of
its own in it: log 58, log 109. 09 R253, R259, R261 to R267; 08 R239: what a signature operation leaves when it
completes, and its flags. SIGH.srp: bit j of a row's signature says whether the exact sum of the row's values, each with
the sign of its hyperplane, is positive. SIGB: the rows in order of key and number, in buckets of one key of at most P
rows; the map of that, in memory and in the buffer; in the destination's lines the rows in that order, or one line a
bucket: its first row, the row nearest to all, or the mean, and zero beyond. SIGS: each row of the range the row its
bucket names, or under .group its place. SIGG: the rows back at their places, or of each bucket the sum or the mean.
SIGMAP: the map of memory in the buffer, poisoned when its bytes are, or when SIGB could not have written it. The
model's readings of its own in it: log 58; a poisoned SIGH marks the key part of its buffer alone: log 114. -/
def Obligations.EngineResults : Prop :=
  (∀ (s : State) (core q : Nat) (e : QEntry) (op : EngOp) (g : Guard), q = 4 ∨ q = 5 → e.kind = .eng op →
     findOp s core q e.id = some e → tileMayEnd s core q e.id = true → MemOk s →
     ∃ (s' : State) (fl : BitVec 5), exec (.tileOpComplete core q e.id) s = .next s' ∧
       (∀ gr, s.group op.group = some gr → (s'.group op.group).map (·.log) =
         some (gr.log.map fun x => if x.1 == e.id then (x.1, some fl) else x)) ∧
       (∀ o S, op.instr = .mld g o → op.slotsW = [S] → op.locs.length = 256 → op.keys.length = op.locs.length →
         (∀ x ∈ op.locs.zip op.keys, mayStill s x.2 x.1 = true) → fl = 0#5 ∧ s'.mem = s.mem ∧
         ∀ r, r < 32 → (∀ k l, k < 8 → op.locs[8 * r + k]? = some l →
             ((slotLine s' core S r).drop (32 * k)).take 32 = s.read l 32) ∧
           (linePoisoned s' core S r = true ↔ ∃ k l, k < 8 ∧ op.locs[8 * r + k]? = some l ∧
             (s.poisoned l 32 || isLost s l) = true)) ∧
       (∀ o T (w : Nat) (x : Nat → Nat → Nat), op.instr = .mldc g o → op.tilesW.head? = some T → 8 ≤ fwidth o.fmt →
         w = fwidth o.fmt / 8 → op.locs.length = 32 * w → op.keys.length = op.locs.length →
         (∀ x ∈ op.locs.zip op.keys, mayStill s x.2 x.1 = true) →
         (∀ r c l, r < 32 → c < 32 → op.locs[r * w + c * w / 32]? = some l →
           x r c = leNat (((s.read l 32).drop (c * w % 32)).take w)) →
         s'.mem = s.mem ∧
         TileIs s' core T o.acc64 (fun r c => (Numbers.round (accFmt o.acc64) o.rnd 0 (Numbers.decode o.fmt (x r c))).1) ∧
         UnionOf fl (fun r c => (Numbers.round (accFmt o.acc64) o.rnd 0 (Numbers.decode o.fmt (x r c))).2)) ∧
       (∀ o T (w : Nat) (y : Nat → Nat → Nat × BitVec 5), op.instr = .mst g o → op.tilesR.head? = some T →
         8 ≤ fwidth o.fmt → w = fwidth o.fmt / 8 → op.locs.length = 32 * w → op.keys.length = op.locs.length →
         (∀ x ∈ op.locs.zip op.keys, mayStill s x.2 x.1 = true) →
         op.locs.Pairwise (fun a b => a + 32 ≤ b ∨ b + 32 ≤ a) → (∀ l ∈ op.locs, isLost s l = false) →
         (∀ r c, y r c = Numbers.round o.fmt o.rnd (match op.draws[r]? with
             | some (k, ctr, p) => Numbers.draw32 k ctr p c
             | none => 0)
           (Numbers.decode (accFmt o.acc64) (((tileRow s core T o.acc64 r)[c]?).getD 0))) →
         (∀ r c l, r < 32 → c < 32 → op.locs[r * w + c * w / 32]? = some l →
           leNat (((s'.read l 32).drop (c * w % 32)).take w) = (y r c).1 % 2 ^ (8 * w)) ∧
         (∀ a, (∀ l ∈ op.locs, a < l ∨ l + 32 ≤ a) → memByte s'.mem a = memByte s.mem a) ∧
         UnionOf fl (fun r c => (y r c).2)) ∧
       (∀ k a n T, op.instr = .mzero g k a n → op.tilesW.head? = some T → fl = 0#5 ∧ s'.mem = s.mem ∧
         TileIs s' core T a (fun _ _ => 0)) ∧
       (∀ o A B T (ex : Bool → Nat → List Word) (y : Nat → Nat → Nat × BitVec 5), op.instr = .mma g o → op.slotsR = [A, B] →
         op.tilesW.head? = some T →
         (∀ i, ex false i = (op.words.drop ((mmaRegs o).length * i)).take ((mmaRegs o).length / 2) ∧
           ex true i = (op.words.drop ((mmaRegs o).length * i + (mmaRegs o).length / 2)).take ((mmaRegs o).length / 2)) →
         (∀ r c, y r c = Numbers.round (accFmt (o.fmt == .f64)) .rn 0 (Numbers.exactSum
           (Numbers.decode (accFmt (o.fmt == .f64)) (((tileRow s core T (o.fmt == .f64) r)[c]?).getD 0) ::
             List.zipWith Numbers.mul (lineVals o.fmt (slotLine s core A r) (ex false r))
               (lineVals o.fmt (slotLine s core B c) (ex true c))))) →
         s'.mem = s.mem ∧ TileIs s' core T (o.fmt == .f64) (fun r c => (y r c).1) ∧ UnionOf fl (fun r c => (y r c).2)) ∧
       (∀ o A T, op.instr = .mtrn g o → op.slotsR = [A] → op.tilesW.head? = some T → fl = 0#5 ∧ s'.mem = s.mem ∧
         TileIs s' core T (o.fmt == .f64) (fun r c =>
           widen o.fmt (((lineElems o.fmt (slotLine s core A c))[32 * o.m.toNat + r]?).getD 0))) ∧
       (∀ o A T, op.instr = .mprm g o → op.slotsR = [A] → op.tilesW.head? = some T → 32 * (o.m.toNat + 1) ≤ lineK o.fmt →
         fl = 0#5 ∧ s'.mem = s.mem ∧ TileIs s' core T (o.fmt == .f64) (fun r c => widen o.fmt
           (((lineElems o.fmt (slotLine s core A (((op.words[r]?).getD 0#32).toNat % 32)))[32 * o.m.toNat + c]?).getD 0))) ∧
       (∀ o A T (y : Nat → Nat → Nat × BitVec 5), op.instr = .mred g o → op.slotsR = [A] → op.tilesW.head? = some T →
         (∀ r c, y r c = Numbers.round (accFmt (o.fmt == .f64)) o.rnd 0 (Numbers.exactSum
           (Numbers.decode (accFmt (o.fmt == .f64)) (((tileRow s core T (o.fmt == .f64) r)[c]?).getD 0) ::
             (if o.col then (List.range 32).map (fun j =>
                 ((lineVals o.fmt (slotLine s core A j) [])[32 * o.m.toNat + c]?).getD .uzero)
               else lineVals o.fmt (slotLine s core A r) [])))) →
         s'.mem = s.mem ∧ TileIs s' core T (o.fmt == .f64) (fun r c => (y r c).1) ∧ UnionOf fl (fun r c => (y r c).2))) ∧
  (∀ (s : State) (core : Nat) (e : QEntry) (op : EngOp) (g : Guard) (tm : Team) (buf : State → BitVec 2 → SigBuf),
     runningSig s core = some (e, op) → writeHeld s core op = false → s.team e.team = some tm → inRect tm core = true → MemOk s →
     (∀ x kb, buf x kb = getBuf x core e.team kb.toNat) →
     ∃ (s' : State) (fl : BitVec 5), exec (.sigOpComplete core) s = .next s' ∧
       (∀ gr, s.group op.group = some gr → (s'.group op.group).map (·.log) =
         some (gr.log.map fun x => if x.1 == e.id then (x.1, some fl) else x)) ∧
       (∀ o (w0 w1 w2 : Word) (vs : Nat → List Numbers.Val) (q : Nat), op.instr = .sighSrp g o → op.bufsW ≠ [] →
         op.words = [w0, w1, w2] →
         w2.toNat ≤ 256 → q = max 1 (lineK o.fmt / 64) →
         (∀ k, vs k = lineVals o.fmt (slotLine s core ((op.slotsR[k / 32]?).getD 0) (k % 32)) []) →
         fl = 0#5 ∧ s'.mem = s.mem ∧ (buf s' o.kb).rows = w2.toNat ∧ (buf s' o.kb).h = o.h.toNat ∧
         ((buf s' o.kb).kpoison = 3 ↔ ∃ k, k < w2.toNat ∧ linePoisoned s core ((op.slotsR[k / 32]?).getD 0) (k % 32) = true) ∧
         ∀ k j, k < w2.toNat → j < 16 → ∃ x y, (buf s' o.kb).sigs[k]? = some x ∧
           y = Numbers.exactSum (((vs k).zipIdx).map fun v =>
             if (Numbers.splitMix (pair w0 w1 + 0x9E3779B97F4A7C15#64 * BitVec.ofNat 64 (q * j + v.2 / 64))).getLsbD (v.2 % 64)
             then Numbers.neg v.1 else v.1) ∧
           (x.getLsbD j = true ↔ y = .inf false ∨ ∃ m z, y = .fin false m z)) ∧
       (∀ o (p n h : Nat) (sig key : Nat → Nat) (m : List Byte) (l : Nat), op.instr = .sigb g o → op.bufsW ≠ [] →
         p = (op.words.headD 0#32).toNat → n = ((op.words[1]?).getD 0#32).toNat → h = ((op.words[2]?).getD 0#32).toNat →
         (∀ r, sig r = ((op.words[3 + r]?).getD 0#32).toNat ∧ key r = sig r % 2 ^ h) → n ≤ 256 →
         n ≤ 32 * op.slotsW.length → op.slotsW.Nodup → op.locs = [l] → (∀ k, k < 2112 → isLost s (l + k) = false) →
         m = s'.read l 2112 → ∃ (order : List Nat) (parts : List (List Nat)) (rep : Nat → Nat),
         order.Perm (List.range n) ∧
         order.Pairwise (fun a b => key a < key b ∨ (key a = key b ∧ a < b)) ∧ parts.flatten = order ∧
         (∀ b ∈ parts, b ≠ [] ∧ (∀ x ∈ b, ∀ y ∈ b, key x = key y) ∧ (p ≠ 0 → b.length ≤ p)) ∧
         (∀ i a b, parts[i]? = some a → parts[i + 1]? = some b → key (a.headD 0) = key (b.headD 0) → p ≠ 0 ∧ a.length = p) ∧
         OnlyBytes s s' l 2112 ∧ (buf s' o.kb).map = m ∧ (buf s' o.kb).mpoison = 0 ∧ mapRows m = n ∧
         mapBuckets m = parts.length ∧
         (∀ i b, parts[i]? = some b → (o.rule = .first ∨ o.rule = .mean → rep i = b.headD 0) ∧
           (o.rule = .mednear → rep i ∈ b ∧ ∀ x ∈ b, spread sig b (rep i) ≤ spread sig b x ∧
             (spread sig b x = spread sig b (rep i) → rep i ≤ x)) ∧
           mapWord m (256 + i) = BitVec.ofNat 32 (key (b.headD 0) +
             (if o.rule = .group then ((parts.take i).map (·.length)).sum else i) * 2 ^ 16 + (b.length - 1) * 2 ^ 24) ∧
           ∀ r ∈ b, mapWord m r = BitVec.ofNat 32 (i +
             (if o.rule = .group then order.findIdx (· == r) else rep i) * 2 ^ 8 + b.length * 2 ^ 16)) ∧
         (∀ k, k < 32 * op.slotsW.length → ∃ line, line = slotLine s' core ((op.slotsW[k / 32]?).getD 0) (k % 32) ∧
           (o.rule = .group → ∀ r, order[k]? = some r → line = slotLine s core ((op.slotsR[r / 32]?).getD 0) (r % 32)) ∧
           (o.rule = .first ∨ o.rule = .mednear → k < parts.length →
             line = slotLine s core ((op.slotsR[rep k / 32]?).getD 0) (rep k % 32)) ∧
           (∀ b, o.rule = .mean → 8 ≤ fwidth o.fmt → parts[k]? = some b → line = (meanRow o.fmt (b.map fun r =>
             slotLine s core ((op.slotsR[r / 32]?).getD 0) (r % 32))).1) ∧
           ((if o.rule = .group then n else parts.length) ≤ k → line = List.replicate 256 0#8)) ∧
         (o.rule ≠ .mean → fl = 0#5) ∧
         (o.rule = .mean → ∀ j, fl.getLsbD j = true ↔ ∃ b ∈ parts, (meanRow o.fmt (b.map fun r =>
           slotLine s core ((op.slotsR[r / 32]?).getD 0) (r % 32))).2.getLsbD j = true)) ∧
       (∀ o m b c, op.instr = .sigs g o → m = op.words.flatMap (fun w => toBytes 4 w.toNat) →
         op.tilesW = (List.range c).map (b + ·) → mapRows m ≤ 32 * (c / (if o.f64 then 2 else 1)) → fl = 0#5 ∧
         s'.mem = s.mem ∧ ∀ r, r < mapRows m →
           tileRow s' core (rangeRow op.tilesW o.f64 r).1 o.f64 (r % 32) = tileRow s core
             (rangeRow op.tilesR o.f64 (if mapRule m = 0 then mapRep m r else mapBucket m r)).1 o.f64
             ((if mapRule m = 0 then mapRep m r else mapBucket m r) % 32)) ∧
       (∀ o m b c, op.instr = .sigg g o → m = op.words.flatMap (fun w => toBytes 4 w.toNat) →
         op.tilesW = (List.range c).map (b + ·) →
         (mapRule m = 0 → (∀ x y, x < mapRows m → y < mapRows m → mapRep m x = mapRep m y → x = y) →
           (∀ r, r < mapRows m → mapRep m r < 32 * (c / (if o.f64 then 2 else 1))) → fl = 0#5 ∧ s'.mem = s.mem ∧
           ∀ r, r < mapRows m → tileRow s' core (rangeRow op.tilesW o.f64 (mapRep m r)).1 o.f64 (mapRep m r % 32) =
             tileRow s core (rangeRow op.tilesR o.f64 r).1 o.f64 (r % 32)) ∧
         (∀ (mem : Nat → List Nat) (y : Nat → Nat → Nat × BitVec 5), mapRule m ≠ 0 →
           (∀ k, mem k = (List.range (mapRows m)).filter (fun r => mapBucket m r == k)) →
           (∀ k j, y k j = Numbers.round (accFmt o.f64) .rn 0 ((fun v => if o.avg
               then (Numbers.divide v (.fin false (mem k).length 0)).1 else v) (Numbers.exactSum ((mem k).map fun r =>
             Numbers.decode (accFmt o.f64)
               (((tileRow s core (rangeRow op.tilesR o.f64 r).1 o.f64 (r % 32))[j]?).getD 0))))) →
           mapBuckets m ≤ 32 * (c / (if o.f64 then 2 else 1)) → s'.mem = s.mem ∧
           (∀ k j, k < mapBuckets m → j < 32 → (tileRow s' core (rangeRow op.tilesW o.f64 k).1 o.f64 (k % 32))[j]? =
             some ((y k j).1 % 2 ^ (if o.f64 then 64 else 32))) ∧
           ∀ i, fl.getLsbD i = true ↔ ∃ k j, k < mapBuckets m ∧ j < 32 ∧ (y k j).2.getLsbD i = true)) ∧
       (∀ o l m, op.instr = .sigmap g o → op.bufsW ≠ [] → op.locs = [l] → m = s.read l 2112 → fl = 0#5 ∧ s'.mem = s.mem ∧
         (buf s' o.kb).map = m ∧ (buf s' o.kb).rows = mapRows m ∧ (buf s' o.kb).h = field (mapHeader m) 32 5 ∧
         (buf s' o.kb).kpoison = (buf s' o.kb).mpoison ∧
         (buf s' o.kb).mpoison = (if s.poisoned l 2112 || isLost s l then 3 else if wellFormedMap m then 0 else 4)))

/-- 03 R86, R96, R97; 04 R123, R124; 14 R332, R347, R348; 22 R432: a copy's next line starts when its budgets and 2 nJ
cover it; the debit is the account's of the core, where the core is of the copy's context. An element of the first
operation of its queue lands whole: its bytes stand at its destination, and its barrier has one sector fewer, completing
the phase when it was the last; no other byte changes. Toward another die it is put on the mesh first, under its die's
vector, and waits while the buffer there is full. An element of a packet's copy is translated as it lands. The sectors
of a connection that fails, or is no longer valid, are dropped, each with a record. That an element, or a sector, lands
whole in one step is the model's choice (log 58, unsafe), and so is that a landing at a poisoned barrier goes on (log
39, unsafe) and what an access to a frame released since does, which faults with a record and lands nothing (log 109).
Further readings of its own in it: log 41, log 91, log 92, log 93. -/
def Obligations.CopyOperations : Prop :=
  ∀ (s : State) (core q : Nat) (e : QEntry) (left : List (Nat × CopyElem)) (pk : Option Nat), e.kind = .copy left pk →
    (nextCopy s core q = some (e, left, pk) → copyMayStart s core q = true → left ≠ [] →
      (∀ x ∈ left, x.2.conn = none) → ∃ s', exec (.copyOperationStart core q) s = .next s' ∧ s'.mem = s.mem ∧
        s'.threads = s.threads ∧
        (s'.core core).energy = (if inPartition s e.ctx core then (s.core core).energy - 2 else (s.core core).energy) ∧
        queueAt s' core q = (queueAt s core q).map (fun x => if x.id == e.id && !x.isMarker then { e with
          started := true, kind := .copy (left.map fun y =>
            if (lineOf left).contains y.1 then (y.1, { y.2 with going := true }) else y) pk } else x)) ∧
    (copyMayStart s core q = false → exec (.copyOperationStart core q) s = .next s) ∧
    (∀ (k b : Nat) (x : CopyElem) (i : Instr), findOp s core q e.id = some e → left.filter (·.1 == k) = [(k, x)] →
      x.going = true → x.late = false → isFirst s core q e = true → elemAllowed s x = true →
      (i = .copyLanding core q e.id k ∧ x.conn = none ∧ x.sent = false ∧ meshDie s core x.dst = none) ∨
        (i = .transportAck core e.id k ∧ q = 7 ∧ x.conn ≠ none ∧ firstOfConn s core e.id k x.conn = true ∧
          connValid s (x.conn.getD 0) = true) →
      MemOk s → 0 < x.n → (∀ j, j < x.n → isLost s (x.dst + j) = false) → x.bar = some b → x.n ≤ 16 ∨ x.n % 16 = 0 →
      x.dst + x.n ≤ x.src ∨ x.src + x.n ≤ x.dst → b + 16 ≤ x.dst ∨ x.dst + x.n ≤ b →
      1 ≤ (barSectors (barRead s b)).toNat → (barSectors (barRead s b)).msb = false →
      ∃ s', exec i s = .next s' ∧ s'.read x.dst x.n = s.read x.src x.n ∧
        (∀ a, (a < x.dst ∨ x.dst + x.n ≤ a) → (a < b ∨ b + 16 ≤ a) → memByte s'.mem a = memByte s.mem a) ∧
        (barArrivals (barRead s b) = 0 ∧ barSectors (barRead s b) = 1#32 →
          barPhase (barRead s' b) = barPhase (barRead s b) + 1#4) ∧
        (¬(barArrivals (barRead s b) = 0 ∧ barSectors (barRead s b) = 1#32) →
          barPhase (barRead s' b) = barPhase (barRead s b) ∧
          barSectors (barRead s' b) = barSectors (barRead s b) - 1#32)) ∧
    (∀ (k : Nat) (x : CopyElem), findOp s core q e.id = some e → left.filter (·.1 == k) = [(k, x)] → x.going = true →
      x.late = false → x.sent = false → x.conn = none → isFirst s core q e = true → sendHeld s core x.dst = false →
      elemAllowed s x = false → heldCount s (unitCopy core) e.ctx < 16 → ∃ s' r,
      exec (.copyLanding core q e.id k) s = .next s' ∧ s'.mem = s.mem ∧ s'.threads = s.threads ∧
        s'.records = s.records ++ [r] ∧ r.unit = unitCopy core ∧ r.ctx = e.ctx ∧ r.kind = 2) ∧
    (∀ (k d : Nat) (x : CopyElem), findOp s core q e.id = some e → left.filter (·.1 == k) = [(k, x)] → x.going = true →
      x.late = false → x.sent = false → x.conn = none → isFirst s core q e = true → meshDie s core x.dst = some d →
      (bufferFull s d = true → exec (.copyLanding core q e.id k) s = .next s) ∧
      (bufferFull s d = false → elemAllowed s x = true → x.n ≤ 16 ∨ x.n % 16 = 0 → ∃ s' ws, exec (.copyLanding core q e.id k) s = .next s' ∧
        s'.mem = s.mem ∧ s'.threads = s.threads ∧ s'.mesh = s.mesh ++ ws ∧ (ws.map (·.bytes)).flatten = s.read x.src x.n ∧
        (∀ w ∈ ws, w.bytes.length ≤ 8 ∧ w.elem = some (core, q, e.id, k) ∧ w.die = dieOf core ∧ w.dest = d ∧
          w.stamp = dieVector s (dieOf core)) ∧
        queueAt s' core q = (queueAt s core q).map (fun y => if y.id == e.id && !y.isMarker then { e with
          kind := .copy (left.map fun z => if z.1 == k then (k, { x with sent := true }) else z) pk } else y))) ∧
    (∀ (k j : Nat) (x : CopyElem) (d c : Place), findOp s core q e.id = some e → left.filter (·.1 == k) = [(k, x)] →
      x.going = true → x.late = true → x.sent = false → x.conn = none → x.bar = none → pk = some j →
      isFirst s core q e = true → translate s core e.ctx (BitVec.ofNat 64 x.dst) Access.store false 1 = .ok d →
      translate s core e.ctx (BitVec.ofNat 64 x.src) Access.load false 1 = .ok c → meshDie s core d.loc = none →
      mayStill s (d.key e.ctx) d.loc = true → mayStill s (c.key e.ctx) c.loc = true → MemOk s → 0 < x.n →
      x.n ≤ 16 ∨ x.n % 16 = 0 → (∀ n, n < x.n → isLost s (d.loc + n) = false) →
      ∃ s', exec (.copyLanding core q e.id k) s = .next s' ∧ s'.read d.loc x.n = s.read c.loc x.n ∧
        s'.threads = s.threads ∧ ∀ a, (a < d.loc ∨ d.loc + x.n ≤ a) → memByte s'.mem a = memByte s.mem a) ∧
    (∀ (k : Nat) (x : CopyElem) (i : Instr), findOp s core 7 e.id = some e → left.filter (·.1 == k) = [(k, x)] →
      x.going = true → x.conn ≠ none → core < 144 → i = .transportFailed core e.id k ∨
        (i = .transportAck core e.id k ∧ connValid s (x.conn.getD 0) = false) →
      ∃ s' rs, exec i s = .next s' ∧ s'.threads = s.threads ∧ s'.records = s.records ++ rs ∧
        (∀ r ∈ rs, r.unit = 578 ∧ r.kind = 2) ∧ (heldCount s 578 e.ctx < 16 → ∃ r ∈ rs, r.ctx = e.ctx) ∧
        ((∀ c, heldCount s' 578 c < 16) → s'.mem = s.mem) ∧
        ∀ c y l p z, c < 144 → y ∈ queueAt s' c 7 → y.kind = .copy l p → z ∈ l → z.2.going = true → z.2.conn ≠ x.conn)

/-! The device's own steps: threads and cells. -/

/-- 04 R119, R132; 12 R286; 13 R312; 02 R73; 03 R98, R103; 08 R236; 14 R346; 22 R424: what the device does of itself to
one thread. A sleeper whose time has come goes on when its phase is over, and else takes the promise-miss exception or
waits at the barrier; threads held by RECONV go on after 256 cycles, or once all that run of a gang in the bank are
held; a thread that waits for a queue or a window has its instruction tried again; a long-latency instruction leaves the
scoreboard, and a thread whose trap waits for the last of them parks; an acknowledged write is forgotten; a page
response makes its thread ready for its one retry; a gang whose time has come starts, once its team's blocks are zeroed;
a parked thread's lane is lent, its frames written out, as the budget admits. The model's readings of its own in it: log
28, log 31, log 74, log 91, log 96, log 97. -/
def Obligations.ThreadEvents : Prop :=
  ∀ (s : State) (p : Nat) (t : Thread), s.thr p = some t → (s.threads.map (·.1)).Nodup →
    (∀ ea loc ph u, t.status = .parked (.sleep ea loc ph u) →
      (s.chron < u.toNat → exec (.sleeptoExpiry p) s = .next s) ∧
      (u.toNat ≤ s.chron → barPhase (barRead s loc) ≠ ph →
        exec (.sleeptoExpiry p) s = .next (s.setThr p { t with
          pc := t.npc, status := .ready s.cycle, issued := t.issued + 1, pri := 0, trail := none })) ∧
      (u.toNat ≤ s.chron → barPhase (barRead s loc) = ph → cfield s (ctxOf s t) 920 1 = 1 →
        exec (.sleeptoExpiry p) s = .next (takeTrap s p t ⟨.promiseMiss, 0, ea, ph.setWidth 64, u, 0#64, none, some loc⟩)) ∧
      (u.toNat ≤ s.chron → barPhase (barRead s loc) = ph → cfield s (ctxOf s t) 920 1 ≠ 1 → barRoom s loc = true →
        exec (.sleeptoExpiry p) s = .next (State.setThr { s with barWaiters := s.barWaiters ++ [⟨loc, ph, p, none⟩] } p
          { t with status := .parked (.barrier loc ph) }))) ∧
    (∀ c core bank, t.status = .held c → core = coreOf p → bank = bankOf p →
      c + 256 ≤ s.cycle ∨ holdOver s p t = true →
      ∃ s', exec (.reconvTimeout core bank t.pc) s = .next s' ∧ s'.mem = s.mem ∧
        ∀ p' u c', s.thr p' = some u → coreOf p' = core → bankOf p' = bank → u.pc = t.pc → u.status = .held c' →
          s'.thr p' = some { u with
            pc := u.npc, status := .ready s.cycle, issued := u.issued + 1, pri := 0, trail := none }) ∧
    (∀ (p0 p1 : Word) (i : Instr), waitsForEngine t = true → peek s p t = some (p0, p1, i) →
      (engineExec i { s with cur := p }).isSome = true → ∃ s1, exec i { s with cur := p } = .next s1 ∧
        exec (.engineQueueAccept p) s = .next { s1 with cur := s.cur }) ∧
    (∀ (p0 p1 : Word) (g : Guard) (o : OrdOps) (n : Nat), t.status = .stalled (.window n) →
      peek s p t = some (p0, p1, .aaddf g o) → ∃ s1, exec (.aaddf g o) { s with cur := p } = .next s1 ∧
        exec (.orderedAddArrival p) s = .next { s1 with cur := s.cur }) ∧
    (∀ k, exec (.longLatencyCompletion p k) s = .next (match t.status with
      | .stalled (.trap tr) => s.setThr p (if (t.board.filter fun e => e.id != k).isEmpty
          then { t with board := t.board.filter fun e => e.id != k, status := .parked (.trap tr false), replay := true }
          else { t with board := t.board.filter fun e => e.id != k })
      | _ => s.setThr p { t with board := t.board.filter fun e => e.id != k })) ∧
    (∀ k, exec (.writeAcknowledgement k) s = .next { s with unacked := s.unacked.filter fun u => u.id != k }) ∧
    (∀ pas pg ok, t.status = .stalled (.page pas pg) → ∃ s', exec (.pageRequestResponse p ok) s = .next s' ∧
      s'.mem = s.mem ∧ (∀ p', p' ≠ p → s'.thr p' = s.thr p') ∧
      s'.thr p = some { t with status := .ready s.cycle, pri := priCode pas pg (!ok) } ∧
      (ok = true → (pas, pg) ∈ s'.ats) ∧ (ok = false → s'.ats = s.ats)) ∧
    (∀ team gang, zeroing s team = true → exec (.gangStart team gang) s = .next s) ∧
    (∀ team gang, zeroing s team = false → ∃ s', exec (.gangStart team gang) s = .next s' ∧ s'.mem = s.mem ∧
      (t.team = team → t.gang = some gang → ∀ z, t.status = .waiting z →
        s'.thr p = some (if z ≤ s.chron then { t with status := .ready s.cycle } else t)) ∧
      (t.team ≠ team ∨ t.gang ≠ some gang ∨ (∀ z, t.status ≠ .waiting z) → s'.thr p = some t)) ∧
    (∀ w, t.status = .parked w → t.lent = false → t.chip.length ≤ 4 →
      allFit s (ctxOf s t) (framePlaces s t t.spilled.length t.chip.length) = true → ∃ s', exec (.laneLend p) s = .next s' ∧
      (∀ p', p' ≠ p → s'.thr p' = s.thr p') ∧
      s'.thr p = some { t with
        lent := true, lentFrames := t.chip.length, chip := [], spilled := t.spilled ++ t.chip.map (·.dv) })

/-- 05 R139, R144, R146, R147, R150; 14 R348: a message's steps one by one, the device taking the steps of others
between them (log 10), each once its context's budget admits the bytes of its cells. A walk follows a link, rewriting it
where the next cell is another owner's and is LINKED too, breaks off after 1,024 links, or finds the root; its reply
rewrites the links it followed to FULL, and stops at one that was poisoned meanwhile, with the poison fault; its event
acts at the root, and its thread goes on. A query of an EMPTY root answers 0, and CPEEK names the root its walk found.
The model's readings of its own in it: log 49, log 50, log 91. 05 R142, R147; 22 R431; 03 R93, R97; 04 R123: a forwarded
record follows a link, at a FULL cell its thread wakes with the value, at another it is held where there is room for it,
and toward an unreachable module it is lost with its wait. A unit of a write in a causal buffer is performed once its
owner's die covers its stamp and no earlier write of its bytes stands before it, and then counted in every die's vector;
before that it waits. With the last unit of a copy's element the element lands. A unit whose frame was released
meanwhile is not performed and has a permission record: the model's choice (log 109). The model's readings of its own in
it: log 41, log 42, log 49, log 55, log 91. -/
def Obligations.Messages : Prop :=
  (∀ (s : State) (k : Nat) (m : Msg) (u : Thread) (va loc : Nat) (x : BitVec 128), MemOk s → mget s.msgs k = some m →
     s.thr m.place = some u → msgFits s m = true →
     (m.stage = .walk va → reachCell s m.ctx m.cell va m.goal.access = .ok (loc, x) →
       (∀ loc2 y, cellState x = .linked → reachCell s m.ctx m.cell (cellParent x) m.goal.access = .ok (loc2, y) →
         (m.hops < 1024 → ownerOf s loc = ownerOf s loc2 ∨ cellState y ≠ .linked →
           exec (.walkStep k) s = .next { chargeAll s m.ctx (msgCost s m) with msgs := mset s.msgs k { m with
             hops := m.hops + 1, visited := m.visited ++ [(loc, va)], stage := .walk (cellParent x) } }) ∧
         (m.hops < 1024 → ownerOf s loc ≠ ownerOf s loc2 → cellState y = .linked →
           ∃ s', exec (.walkStep k) s = .next s' ∧ OnlyBytes s s' loc 16 ∧ cellState (cellAt s' loc) = .linked ∧
             cellParent (cellAt s' loc) = cellParent y ∧ mget s'.msgs k = some { m with
               hops := m.hops + 1, visited := m.visited ++ [(loc, va)], stage := .walk (cellParent y) }) ∧
         (∀ v, 1024 ≤ m.hops → m.goal = .fill v false → u.board = [] → ∃ s', exec (.walkStep k) s = .next s' ∧
           s'.msgs = mdel s.msgs k ∧ s'.thr m.place = some { u with
             status := .parked (.trap ⟨.conflictingFill, 3, BitVec.ofNat 64 m.cell, BitVec.ofNat 64 va, 2#64, 0#64, none,
               none⟩ false), replay := true })) ∧
       (∀ v, cellState x = .empty → m.goal = .fill v false → exec (.walkStep k) s =
         .next { chargeAll s m.ctx (msgCost s m) with msgs := mset s.msgs k { m with stage := .event (.fill v) va } })) ∧
     (∀ (r : Root) (l a : Nat) (c : CellCont), m.stage = .reply r → m.visited = [(l, a)] → m.result = none →
       m.goal = .wait c → isLost s l = false →
       (s.poisoned l 16 = false → cellState (cellAt s l) = .linked → ∃ s', exec (.walkReply k) s = .next s' ∧
         OnlyBytes s s' l 16 ∧ cellState (cellAt s' l) = .full ∧ cellBody (cellAt s' l) = r.body ∧
         mget s'.msgs k = some { m with visited := [], stage := .event .wait r.va }) ∧
       (s.poisoned l 16 = true → u.board = [] → ∃ s', exec (.walkReply k) s = .next s' ∧ s'.mem = s.mem ∧
         s'.msgs = mdel s.msgs k ∧ (s'.thr m.place).map (·.status) = some (.parked (.trap
           ⟨.poison, 0, BitVec.ofNat 64 a, 0#64, 0#64, 0#64, none, none⟩ false)))) ∧
     (m.visited = [] → m.sent = none → waitersAt s loc = [] → reachCell s m.ctx m.cell va m.goal.access = .ok (loc, x) →
       (∀ v, m.stage = .event (.fill v) va → m.goal = .fill v false → cellState x = .empty →
         ∃ s', exec (.fillEvent k) s = .next s' ∧ OnlyBytes s s' loc 16 ∧ cellState (cellAt s' loc) = .full ∧
           cellBody (cellAt s' loc) = v ∧ s'.thr m.place = some { u with
             pc := u.npc, status := .ready s.cycle, issued := u.issued + 1, pri := 0, trail := none } ∧
           s'.msgs = mdel s.msgs k) ∧
       (∀ v i, m.stage = .event (.fill v) va ∧ i = .fillEvent k ∨ m.stage = .event .wait va ∧ i = .waitEvent k ∨
         m.stage = .event .query va ∧ i = .queryEvent k → cellState x = .linked → (∀ o, m.goal ≠ .equate o) →
         exec i s = .next { chargeAll s m.ctx (msgCost s m) with msgs := mset s.msgs k { m with stage := .walk va } }) ∧
       (∀ d, m.stage = .event (.count d) va → m.goal = .count d none → cellState x = .count →
         0 < ((cellBody x).toNat : Int) + d.toInt → ((cellBody x).toNat : Int) + d.toInt < 2 ^ 63 →
         ∃ s', exec (.countEvent k) s = .next s' ∧ OnlyBytes s s' loc 16 ∧ cellState (cellAt s' loc) = .count ∧
           ((cellBody (cellAt s' loc)).toNat : Int) = (cellBody x).toNat + d.toInt ∧ s'.msgs = mdel s.msgs k) ∧
       (∀ d, m.stage = .event .wait va → m.goal = .wait (.wait d) → cellState x = .full →
         ∃ s', exec (.waitEvent k) s = .next s' ∧ s'.mem = s.mem ∧ s'.msgs = mdel s.msgs k ∧
           s'.thr m.place = some { u.setV64 d (cellBody x) with
             pc := u.npc, status := .ready s.cycle, issued := u.issued + 1, pri := 0, trail := none }) ∧
       (∀ d, m.stage = .event .query va → m.goal = .test 7#3 d → cellState x = .empty →
         ∃ s', exec (.queryEvent k) s = .next s' ∧ s'.mem = s.mem ∧ s'.msgs = mdel s.msgs k ∧
           s'.thr m.place = some { u.setV64 d 0#64 with
             pc := u.npc, status := .ready s.cycle, issued := u.issued + 1, pri := 0, trail := none }) ∧
       (∀ d y, m.stage = .event .query va → m.goal = .peek d → m.roots = [y] → cellState x = .empty →
         ∃ s', exec (.queryEvent k) s = .next s' ∧ s'.mem = s.mem ∧ s'.msgs = mdel s.msgs k ∧
           s'.thr m.place = some { u.setQuad d 0#64 (BitVec.ofNat 64 (y.va % 2 ^ 57 + min y.hops 31 * 2 ^ 57)) with
             pc := u.npc, status := .ready s.cycle, issued := u.issued + 1, pri := 0, trail := none }) ∧
       (∀ o r, m.stage = .event (.link r) va → m.goal = .equate o → cellState x = .empty → r < 2 ^ 57 →
         ∃ s', exec (.linkEvent k) s = .next s' ∧ OnlyBytes s s' loc 16 ∧ cellState (cellAt s' loc) = .linked ∧
           cellParent (cellAt s' loc) = r ∧ s'.msgs = mdel s.msgs k)) ∧
     (m.stage = .event (.init false 0#64) loc → m.goal = .init false 0#64 → isLost s loc = false →
       ∃ s', exec (.initEvent k) s = .next s' ∧ OnlyBytes s s' loc 16 ∧ cellState (cellAt s' loc) = .empty ∧
         cellBody (cellAt s' loc) = 0#64 ∧ s'.msgs = mdel s.msgs k ∧ s'.threads = s.threads)) ∧
  (∀ (s : State) (k : Nat), MemOk s →
     (∀ (f : Forward) (loc : Nat) (gone : State), mget s.forwards k = some f → forwardLoc s f = some loc →
       gone = { chargeAll s f.ctx (forwardCost s f loc) with forwards := mdel s.forwards k } →
       (isLost s loc = false → s.poisoned loc 16 = false → isHost loc = false → ctxMay s f.ctx loc = true →
         allFit s f.ctx (forwardCost s f loc) = true →
         (cellState (cellAt s loc) = .linked → exec (.waiterRecordForward k) s =
           .next { chargeAll s f.ctx (forwardCost s f loc) with forwards := mset s.forwards k { f with
             src := loc, va := cellParent (cellAt s loc), loc := parentLoc s f.ctx loc (cellParent (cellAt s loc)) } }) ∧
         (∀ p u d, cellState (cellAt s loc) = .full → f.module = none → f.who = [(p, none)] → s.thr p = some u →
           u.status = .parked (.cell (.wait d)) → exec (.waiterRecordForward k) s = .next (gone.setThr p
             { u.setV64 d (cellBody (cellAt s loc)) with
               pc := u.npc, status := .ready s.cycle, issued := u.issued + 1, pri := 0, trail := none })) ∧
         (∀ p, cellState (cellAt s loc) = .empty ∨ cellState (cellAt s loc) = .count → f.who = [(p, none)] →
           (recordRoom s loc (f.module, f.core) (if ownerOf s f.src == ownerOf s loc then 1 else 0) = true →
             ∃ s', exec (.waiterRecordForward k) s = .next s' ∧ s'.forwards = mdel s.forwards k ∧ OnlyBytes s s' loc 16 ∧
               s'.cellWaiters = s.cellWaiters ++ [⟨loc, f.va, f.ctx, p, none, f.module, f.core⟩] ∧ s'.threads = s.threads) ∧
           (recordRoom s loc (f.module, f.core) (if ownerOf s f.src == ownerOf s loc then 1 else 0) = false →
             exec (.waiterRecordForward k) s = .next s))) ∧
       (∀ p u c, isLost s loc = true → f.module = none → f.who = [(p, none)] → s.thr p = some u →
         u.status = .parked (.cell c) → exec (.waiterRecordForward k) s = .next (takeTrap gone p u
           ⟨.poison, 0, cellNamed gone p u f.va, 0#64, 0#64, 0#64, none, none⟩))) ∧
     (∀ w, s.mesh.find? (fun w => w.id == k) = some w →
       (aheadOf s w = false → (∀ j, j < 8 → (w.stamp[j]?).getD 0 ≤ ((dieVector s w.dest)[j]?).getD 0) →
         unitAllowed s w = true → isLost s w.loc = false → ∃ s', exec (.causalApply k) s = .next s' ∧
           s'.mesh = s.mesh.filter (fun w => w.id != k) ∧ (∀ d j, d < 8 → j < 8 → ((dieVector s' d)[j]?).getD 0 =
             ((dieVector s d)[j]?).getD 0 + (if j = w.die % 8 then 1 else 0)) ∧
           (w.elem = none → s'.read w.loc w.bytes.length = w.bytes ∧ OnlyBytes s s' w.loc w.bytes.length ∧
             s'.threads = s.threads) ∧
           (∀ core q op j e left pk x b, w.elem = some (core, q, op, j) →
             (∀ y ∈ s.mesh, y.id ≠ k → y.whole.1 ≠ w.whole.1 ∧ y.elem ≠ w.elem) → findOp s core q op = some e →
             e.kind = .copy left pk → left.filter (·.1 == j) = [(j, x)] → x.bar = some b →
             b + 16 ≤ w.loc ∨ w.loc + w.bytes.length ≤ b → 1 ≤ (barSectors (barRead s b)).toNat →
             (barSectors (barRead s b)).msb = false → 1 ≤ barArrivals (barRead s b) →
             s'.read w.loc w.bytes.length = w.bytes ∧ barPhase (barRead s' b) = barPhase (barRead s b) ∧
             barSectors (barRead s' b) = barSectors (barRead s b) - 1#32 ∧
             findOp s' core q op = (if (left.filter (·.1 != j)).isEmpty then none
               else some { e with kind := .copy (left.filter (·.1 != j)) pk }))) ∧
       (aheadOf s w = false → (∀ j, j < 8 → (w.stamp[j]?).getD 0 ≤ ((dieVector s w.dest)[j]?).getD 0) →
         unitAllowed s w = false → w.elem = none → ∀ p, w.place = some p → heldCount s (coreOf p) w.ctx < 16 → ∃ s' r,
           exec (.causalApply k) s = .next s' ∧ s'.mem = s.mem ∧ s'.threads = s.threads ∧
           s'.mesh = s.mesh.filter (fun w => w.id != k) ∧ s'.records = s.records ++ [r] ∧ r.unit = coreOf p ∧ r.ctx = w.ctx ∧
           r.kind = 2) ∧
       (aheadOf s w = true ∨ (∃ j, j < 8 ∧ ((dieVector s w.dest)[j]?).getD 0 < (w.stamp[j]?).getD 0) →
         exec (.causalApply k) s = .next s)))

/-! The command processor, teams and recovery. -/

/-- 14 R320, R321, R324, R325, R336, R338, R348; 22 R423: a doorbell writes its queue's write index; a valid descriptor
written with enable 1 puts an idle or failed queue to running, its counters set, and one whose fields or rank program
are out of range leaves it failed and not enabled; the Piccolo reads the next one-slot packet of a running queue's ring,
once the budget admits its slot and the descriptors it names. The model's readings of its own in it: log 72, log 91. 14
R323, R325, R327, R328, R335 to R337; 05 R156: what a queue's Bassoon does with the packet at its head. A LAUNCH, TASKS
or COPY packet enters the Crumhorn where there is room, with the rank of its program raised to that of the packets of
its queue that are ready; under the default program that is the later of vfin and gvt, and vfin moves on by ceil(W / w);
and every packet not above gvt is dispatched; a packet with a status against it completes; a CALLBUF's packets follow; a
JOIN or QFENCE completes once all earlier packets have, and else is held; a SIGNAL fills its cell; a WAIT completes once
its cell is FULL, and else is held. A packet whose work is over completes. What reads or fills a cell waits until the
context's budget admits it. The model's readings of its own in it: log 67, log 71, log 91. -/
def Obligations.QueuesAndPackets : Prop :=
  (∀ (s : State) (q : Nat), s.stage ≠ 0#2 → q < 8192 →
     (∀ fn off value, (fn = 0 ∧ off = 64 * q ∨ 1 ≤ fn ∧ fn ≤ 63 ∧ q / 128 = fn ∧ off = 64 * (q % 128)) → qstate s q ≠ 2 →
       (qstate s q = 1 → (value.toNat % 2 ^ 32 + 2 ^ 32 - qfield s q 160 32) % 2 ^ 32 ≤ qslots s q) →
       ∃ s', exec (.doorbell fn off value) s = .next s' ∧ qfield s' q 128 32 = value.toNat % 2 ^ 32 ∧
         s'.threads = s.threads ∧ s'.mem = s.mem ∧ ∀ j, j ≠ q → s'.queue j = s.queue j) ∧
     (∀ (desc : BitVec 512) (i : Instr), desc.getLsbD 58 = true →
       (i = .queueEnable q desc ∧ qstate s q = 0 ∧
         qbacklog (s.setQueue q { s.queue q with desc := mergeDesc (s.queue q).desc desc }) q ≤ 2 ^ field desc 64 5) ∨
       (i = .queueRecovery q desc ∧ qstate s q = 2) →
       queueFieldsOk s (mergeDesc (s.queue q).desc desc) = true →
       ∃ s', exec i s = .next s' ∧ qstate s' q = 1 ∧ qfield s' q 58 1 = 1 ∧ (s'.queue q).vfin = s.gvt ∧
         (s'.queue q).scratch = 0#32 ∧ s'.threads = s.threads ∧ s'.mem = s.mem ∧
         (i = .queueRecovery q desc → qfield s' q 160 32 = field desc 128 32)) ∧
     (∀ (desc : BitVec 512) (i : Instr), desc.getLsbD 58 = true →
       (i = .queueEnable q desc ∧ qstate s q = 0) ∨ (i = .queueRecovery q desc ∧ qstate s q = 2) →
       queueFieldsOk s (mergeDesc (s.queue q).desc desc) = false →
       ∃ s', exec i s = .next s' ∧ qstate s' q = 2 ∧ qfield s' q 58 1 = 0 ∧ s'.threads = s.threads ∧ s'.mem = s.mem) ∧
     (∀ (w : Word) (r : List Word), (field w 0 4 = 12 ∨ field w 0 4 = 13 ∨ field w 0 4 = 14 ∨ field w 6 2 ≠ 0) ∨
       ((field w 0 4 = 9 ∨ field w 0 4 = 11 ∨ field w 0 4 = 15) ∧ (field w 4 2 ≠ 0 ∨ field w 8 24 ≠ 0)) ∨
       (field w 0 4 = 10 ∧ field w 8 4 ≠ 0 ∧ field w 8 4 ≠ 7) ∨ (field w 0 4 = 15 ∧ ∃ x ∈ r, x ≠ 0#32) →
       rankOk (w :: r) = false) ∧
     (∀ (first : List Byte) (rd : Nat → Chk (List Byte)) (cost : Nat → List (Nat × Nat)), qstate s q = 1 → qfield s q 58 1 = 1 → (s.queue q).stop = none → (s.queue q).calls = [] →
       (unhanded s q).length < 64 → BitVec.ofNat 32 (qfield s q 128 32) ≠ (s.queue q).seen →
       ringRead s q (s.queue q).seen.toNat = .ok first → packetSlots first = 1 →
       slotsOk (pfield first 0 0 8) 1 (pfield first 24 0 57) (packetWarm first) = true →
       rd = (fun i => ringRead s q ((s.queue q).seen.toNat + i)) →
       cost = (fun i => if qfield s q 57 1 == 1 then []
         else devCost s (qfield s q 96 12) (slotVa s q ((s.queue q).seen.toNat + i)) 64) →
       allFit s (qfield s q 96 12) (packetPlaces s (qfield s q 96 12)
         (BitVec.ofNat 32 (qfield s q 128 32) - (s.queue q).seen).toNat rd cost) = true →
       ∃ s' p, exec (.packetLookahead q) s = .next s' ∧ s'.packet s.serial = some p ∧ p.queue = q ∧ p.bytes = first ∧
         p.typ = pfield first 0 0 8 ∧ p.stage = .read ∧ p.ctx = qfield s q 96 12 ∧
         (s'.queue q).seen = (s.queue q).seen + 1#32 ∧ s'.threads = s.threads ∧ s'.mem = s.mem)) ∧
  (∀ (s : State) (q k : Nat) (p : Packet), headPacket s q = some (k, p) → s.packet k = some p → p.queue = q →
     (s.packets.map (·.1)).Nodup →
     (∀ i, (i = .launchPacket q ∧ p.typ = 1) ∨ (i = .tasksPacket q ∧ p.typ = 2) ∨ (i = .copyPacket q ∧ p.typ = 8) →
       (p.status = 0 → mayInsert s q = true → ∃ s' p', exec i s = .next s' ∧ s'.packet k = some p' ∧
         (p'.stage = .ready ∨ p'.stage = .distributed) ∧ p'.typ = p.typ ∧ p'.bytes = p.bytes ∧ s'.threads = s.threads ∧
         s'.mem = s.mem) ∧
       (p.status = 0 → mayInsert s q = false → (s.queue q).stalled = none → ∃ s', exec i s = .next s' ∧
         (s'.queue q).stalled = some s.serial ∧ s'.packets = s.packets ∧ s'.threads = s.threads ∧ s'.mem = s.mem)) ∧
     (∀ i S, (i = .launchPacket q ∧ p.typ = 1) ∨ (i = .tasksPacket q ∧ p.typ = 2) ∨ (i = .copyPacket q ∧ p.typ = 8) →
       p.status = 0 → mayInsert s q = true → qfield s q 88 8 = 0 → 1 ≤ qfield s q 72 8 →
       S = (if above s (s.queue q).vfin < 0 then s.gvt else (s.queue q).vfin) →
       ∃ s' p', exec i s = .next s' ∧ s'.packet k = some p' ∧ (s'.queue q).vfin = S + BitVec.ofNat 32
           ((((readyQueues s q).map fun j => qfield s j 72 8).sum % 2 ^ 32 + qfield s q 72 8 - 1) / qfield s q 72 8) ∧
         above s S ≤ above s p'.rank ∧
         (∀ e ∈ s.packets, e.2.queue = q → e.2.stage = .ready → above s e.2.rank ≤ above s p'.rank) ∧
         (p'.rank = S ∨ ∃ e ∈ s.packets, e.2.queue = q ∧ e.2.stage = .ready ∧ e.2.rank = p'.rank) ∧
         (∀ e ∈ s'.packets, e.2.stage = .ready → s.packets.length ≤ 1024 → 0 < above s' e.2.rank)) ∧
     (p.status ≠ 0 → endFits s p [] = true → ∀ i, (i = .launchPacket q ∧ p.typ = 1) ∨ (i = .tasksPacket q ∧ p.typ = 2) ∨
         (i = .copyPacket q ∧ p.typ = 8) ∨ (i = .callbufPacket q ∧ p.typ = 3) ∨ (i = .joinPacket q ∧ p.typ = 4) ∨
         (i = .qfencePacket q ∧ p.typ = 5) ∨ (i = .signalPacket q ∧ p.typ = 6) ∨
         (i = .waitPacket q ∧ p.typ = 7 ∧ p.stage = .read) →
       ∃ s', exec i s = .next s' ∧ s'.packet k = none) ∧
     (p.status = 0 → p.typ = 3 → ∃ s', exec (.callbufPacket q) s = .next s' ∧
       s'.packet k = some { p with stage := .resident } ∧ s'.threads = s.threads ∧ s'.mem = s.mem) ∧
     (∀ i, p.status = 0 → (i = .joinPacket q ∧ p.typ = 4) ∨ (i = .qfencePacket q ∧ p.typ = 5) →
       (earlierDone s q k p = true → endFits s p [] = true → ∃ s', exec i s = .next s' ∧ s'.packet k = none) ∧
       (earlierDone s q k p = false → exec i s = .next (s.setPacket k { p with stage := .held }))) ∧
     (p.status = 0 → p.typ = 6 → endFits s p (cellPlaces s p) = true → pfield p.bytes 32 0 1 = 0 →
       ∀ s1 r, devFill (handOver s q p) p.ctx (pfield p.bytes 16 0 64) (BitVec.ofNat 64 (pfield p.bytes 24 0 64)) = .ok s1 r →
         pfield p.bytes 0 11 1 = 0 →
         ∃ s', exec (.signalPacket q) s = .next s' ∧ s'.packet k = none ∧ s'.mem = s1.mem ∧ s'.threads = s1.threads) ∧
     (∀ i s1 r, (i = .waitPacket q ∧ p.stage = .read) ∨ (i = .waitPacketQueryAttempt q ∧ p.stage = .held) → p.typ = 7 →
       p.status = 0 → endFits s p (cellPlaces s p) = true → devQuery s p.ctx (pfield p.bytes 16 0 64) = .ok s1 r →
       (r.st = .full → ∃ s', exec i s = .next s' ∧ s'.packet k = none) ∧
       (r.st ≠ .full → ∃ s', exec i s = .next s' ∧ s'.packet k = some { p with stage := .held })) ∧
     (∀ j u, s.packet j = some u → packetOver s j u = true → endFits s u [] = true → ∃ s', exec (.packetCompletion j) s = .next s' ∧
       s'.packet j = none))

/-- 12 R274, R275, R280, R288, R291, R292; 13 R313; 14 R337, R343 to R349; 16 R374, R375: a beat comes once its time has
come, counts itself, sets the time of the next, makes the budgets whole and replenishes the accounts, moves gvt up and
dispatches, promotes, and wakes what waits for it, in that order. A running thread without a candidate, with a bound
one, or without a place has %pnone, %pskip or %pdefer raised; else its oldest eligible frame starts a thread of its own,
with the upper part of a range and the place its draws have from then on (06 R180), once its budget admits its count;
while the thread's block waits to be zeroed, its frame waits with it. A team is placed on the first rectangle that takes
it; one whose threads have ended is gone with its groups and its packet's count of it; a parked team that is to leave is
saved; a saved one with a woken thread is put back. The model's readings of its own in it: log 10, log 74, log 78, log
79, log 91, log 107, log 110. -/
def Obligations.BeatsAndTeams : Prop :=
  ∀ (s : State),
    (s.chron < s.nextBeat → exec .beat s = .next s) ∧
    (s.nextBeat ≤ s.chron → ∃ s', exec .beat s = .next s' ∧ s'.beat = s.beat + 1#64 ∧
      s'.nextBeat = s.nextBeat + (if s.stage = 1#2 then 4096 else 64 * s.period.toNat) ∧ s'.chron = s.chron ∧
      (s.choices.silent = false → (∀ p t, s'.thr p = some t → t.status ≠ .parked .beat) ∧
        (∀ core r, core < 144 → s.overTemp = false → s.overPower = false →
          r = max 128 (allowance s core * (if s.stage = 1#2 then 4096 else 64 * s.period.toNat) / 1000) →
          (s'.core core).energy = min ((s.core core).energy + r) (2 * r)) ∧
        (∀ c, s.threads = [] → (∀ core, (s.core core).wl = []) → (s'.ctx c).used = []) ∧
        ((s.packets = [] ∨ ∃ e ∈ s.packets, e.2.stage = .distributed ∧ e.2.status = 0) →
          s'.gvt = s.gvt + (if s.step = 0#6 then 64#32 else s.step.setWidth 32)) ∧
        (s.packets.length ≤ 1024 → ∀ e ∈ s'.packets, e.2.stage = .ready → 0 < above s' e.2.rank) ∧
        ∃ z, s' = chooseAnew (wakeBeat ((List.range 144).foldl starveSpill (promotions z))) ∧
          ((∀ e ∈ s.threads, e.2.zero = false ∧ e.2.piece = none) → z.threads = s.threads ∧ z.mem = s.mem) ∧ z.beat = s'.beat ∧ z.gvt = s'.gvt ∧ z.packets = s'.packets)) ∧
    (∀ p t, s.threads = [(p, t)] → examined t = true → t.group = none →
      (candidate s t = none → promotions s = s.setThr p { t with pnone := t.pnone + 1#64 }) ∧
      (∀ i f, candidate s t = some (i, f) → f.bound = true →
        promotions s = s.setThr p { t with pskip := t.pskip + 1#64 }) ∧
      (∀ i f tm, candidate s t = some (i, f) → f.bound = false → teamOf s t = some tm →
        findBlock s tm (coreOf p) 1 = none → promotions s = s.setThr p { t with pdefer := t.pdefer + 1#64 }) ∧
      (∀ i f tm core lane b, candidate s t = some (i, f) → f.bound = false → teamOf s t = some tm → t.spilled = [] →
        findBlock s tm (coreOf p) 1 = some (core, lane) →
        lowestBlock s tm.ctx (takenBlocks s tm.ctx) t.block.kib = some b →
        (blockLocs s tm.ctx b).isSome = true → allFit s tm.ctx (promoteCost s tm.ctx t i f) = true →
        tm.count < 2 ^ 31 → f.args.length ≤ 6 → 32 ≤ poolFree s core lane →
        (f.range = true → 1 ≤ f.grain.toInt ∧ ∃ s2 r, devCount s tm.ctx f.join.toNat 1#64 = .ok s2 r) →
        ∃ (n : Thread) (mid : Word) (kept : Frame), (f.range = true → mid.toInt = f.lo.toInt + f.grain.toInt *
            ((f.hi.toInt - f.lo.toInt + 2 * f.grain.toInt - 1) / (2 * f.grain.toInt))) ∧
          kept = { f with hi := if f.range then mid else f.hi, promoted := true } ∧
          (promotions s).thr p = some { t with chip := t.chip.set i kept } ∧
          (promotions s).thr (placeOf core lane (freeSlot s core lane)) = some n ∧ n.team = t.team ∧ n.gang = none ∧
          n.home = t.home ∧ n.group = none ∧ n.allot = 16 ∧ n.pc = f.entry.setWidth 64 ∧ n.recv = f.range ∧ n.block = b ∧
          n.tid ≠ t.tid ∧ tm.count ≤ n.tid.toNat ∧ n.key = some (drawKey s t) ∧ n.ctr = t.ctr ∧ n.dv = f.dv ∧
          n.pos = some (lanePos s t lane) ∧
          (∀ (k : Nat) (h : k < 128), n.v[k] = (f.args[k]?).getD 0#32) ∧
          (n.zero = false → n.piece = none ∧ n.chip = (if f.range then [{ f with lo := mid, promoted := false }] else [])) ∧
          (n.zero = true → n.chip = [] ∧ n.piece = (if f.range then some { f with lo := mid, promoted := false } else none)))) ∧
    (∀ k p t r blocks, s.packets = [(k, p)] → p.stage = .distributed → p.status = 0 → p.warm = 0 → p.typ = 1 →
      placing s p.ctx = true → copiesOut s k = false → nextTask s p = .ok t →
      canEverFit s p.ctx (packetShape 1 p.bytes) = true → findRect s p.ctx (packetShape 1 p.bytes) = some r →
      takeBlocks s p.ctx (packetShape 1 p.bytes).kib ((packetShape 1 p.bytes).gangs * (packetShape 1 p.bytes).width)
        (takenBlocks s p.ctx) = some blocks →
      (∀ b ∈ blocks, (blockLocs s p.ctx b).isSome = true) →
      ∃ s' id tm p', exec .teamPlacement s = .next s' ∧ s.serial ≤ id ∧ s'.team id = some tm ∧ tm.ctx = p.ctx ∧ tm.x0 = r.1 ∧
        tm.y0 = r.2.1 ∧ tm.packet = k ∧ tm.saved = none ∧ tm.index = BitVec.ofNat 32 p.placed ∧
        tm.gangs.length = (packetShape 1 p.bytes).gangs ∧ s'.packet k = some p' ∧ p'.placed = p.placed + 1 ∧
        p'.live = p.live + 1) ∧
    (∀ k tm p, s.team k = some tm → teamOver s k tm = true → tm.succ = none →
      allFit s tm.ctx (endCost s k tm) = true → s.packet tm.packet = some p →
      ∃ s', exec (.teamEnd k) s = .next s' ∧ s'.team k = none ∧ (∀ e ∈ s'.groups, e.2.team ≠ k) ∧
        (s'.packet tm.packet).map (·.live) = some (p.live - 1)) ∧
    (∀ k tm off l s1, s.team k = some tm → tm.saved = none → teamThreads s k ≠ [] →
      (∀ e ∈ teamThreads s k, isParked e.2 = true) → swapWanted s tm = true → quiescent s k tm = true →
      swapRoom s tm.ctx (swapSize s k tm) = some off →
      swapTargets s tm.ctx off (swapSize s k tm) = some l →
      allFit s tm.ctx (swapFrames s k ++ swapWalks s tm.ctx off (swapSize s k tm) ++ l) = true →
      s1 = swapOut s k tm off (swapSize s k tm) l →
      exec (.teamSwapOut k) s = .next s1 ∧ (∀ e ∈ s1.threads, e.2.team ≠ k) ∧
        ∃ tm', s1.team k = some tm' ∧ tm'.saved.isSome = true ∧ tm'.area = some (off, swapSize s k tm)) ∧
    (∀ k tm sv new l land, s.team k = some tm → tm.saved = some sv → placing s tm.ctx = true → anyWoken s sv = true →
      reserved s = none → allFit s tm.ctx (swapPlaces s tm) = true → resumeRect s tm sv = some (new, l, land) →
      ∃ s' tm', exec (.teamResume k) s = .next s' ∧ s'.team k = some tm' ∧ tm'.saved = none ∧ tm'.area = none ∧
        tm'.x0 = new.x0 ∧ tm'.y0 = new.y0 ∧
        ∀ e ∈ l, (l.map (·.2)).Nodup → ∀ t, mget sv.threads e.1 = some t → ∃ t', s'.thr e.2 = some t' ∧ t'.pc = t.pc ∧
          t'.v = t.v ∧ t'.tid = t.tid)

/-- 00 R9; 14 R324, R348; 19 R399, R400, R404, R405, R412 to R415; 21 R421: a held record is written to its queue's slot
and counted, by the device's own count whatever software has stored in the header, once the budget admits it; one whose
queue faults fails the context, and the queue takes no more. RESUME continues a thread whose record is written in the
mode named: RETRY at its pc, CONTINUE behind its instruction, after a promise-miss waiting for the record's barrier and
phase first, REPLAY at its region's entry, with v0:v1 set when asked; RESUMEALL continues each in its cause's mode.
PREEMPT sets the state and the deadline, once what is over has been retired (19 R415), RESTART clears them; a drained
context is reported; RESET, and a deadline that passes with a team not over, reset the context: none of its threads and
teams is left, its queues have failed, of its records only the reports stay, its own the last, and it is not enabled.
The model's readings of its own in it: log 80, log 81, log 82, log 83, log 91. -/
def Obligations.RecoveryCommands : Prop :=
  ∀ (s : State) (c : Nat), c < 4096 →
    (∀ (r : HeldRecord) (h l n w : Nat), MemOk s → w = (s.ctx r.ctx).frq.write.toNat → s.records.find? (fun r => r.id == n) = some r → recordRipe s r = true →
      r.kind ≠ 4 → r.bytes.length = 64 → r.place = none →
      recordLoc s r.ctx (cfield s r.ctx 768 57) 8 false Access.both = some h →
      recordLoc s r.ctx (cfield s r.ctx 768 57 + 64 + 64 * (w % 2 ^ cfield s r.ctx 825 5)) 64 false
        Access.store = some l →
      h + 8 ≤ l ∨ l + 64 ≤ h → isLost s h = false → isLost s l = false →
      (w + 2 ^ 32 - leNat (s.read (h + 4) 4)) % 2 ^ 32 ≠ 2 ^ cfield s r.ctx 825 5 →
      allFit s r.ctx (recordCost s r h l) = true → ∃ s', exec (.faultRecordWrite n) s = .next s' ∧ s'.records = s.records.filter (fun r => r.id != n) ∧
        s'.read l 64 = r.bytes ∧ leNat (s'.read h 4) = (w + 1) % 2 ^ 32 ∧ (s'.ctx r.ctx).frq.write = BitVec.ofNat 32 (w + 1) ∧
        (∀ a, (a < h ∨ h + 4 ≤ a) → (a < l ∨ l + 64 ≤ a) → memByte s'.mem a = memByte s.mem a)) ∧
    (∀ (r : HeldRecord) (n : Nat), s.records.find? (fun r => r.id == n) = some r → recordRipe s r = true → r.kind ≠ 4 →
      recordLoc s r.ctx (cfield s r.ctx 768 57) 8 false Access.both = none ∨
        (∃ h, recordLoc s r.ctx (cfield s r.ctx 768 57) 8 false Access.both = some h ∧ isLost s h = true) → ∃ s', exec (.faultRecordWrite n) s = .next s' ∧
        cfield s' r.ctx 30 2 = 2 ∧ s'.records = s.records ∧ queueTakes s' r = false ∧ s'.mem = s.mem) ∧
    (∀ (p : Nat) (t u : Thread) (tr : Trap), s.rec_.busy = true → s.rec_.op = 1#4 → namedThread s = some (p, none, t, tr) →
      u = (if s.rec_.setv then t.setV64 0#7 s.rec_.b else t) →
      (s.rec_.mode = 1#2 → ∃ s', exec .resume s = .next s' ∧ s'.thr p = some { u with
        status := .ready s.cycle, replay := false, pri := 0 } ∧ s'.rec_ = { s.rec_ with busy := false, status := 0#2 } ∧
        s'.mem = s.mem ∧ ∀ p', p' ≠ p → s'.thr p' = s.thr p') ∧
      (s.rec_.mode = 0#2 → checkTarget s 144 (ctxOf s t) 1 (t.region.setWidth 64) = .ok () → ∃ s', exec .resume s = .next s' ∧
        s'.thr p = some { u with status := .ready s.cycle, replay := false, pri := 0, pc := t.region.setWidth 64
                                 replays := t.replays + 1, ending := false } ∧ s'.mem = s.mem) ∧
      (∀ p0 p1 i, s.rec_.mode = 2#2 → tr.cause ≠ .promiseMiss → peek s p u = some (p0, p1, i) →
        ∃ s', exec .resume s = .next s' ∧ s'.thr p = some { u with
          status := .ready s.cycle, replay := false, pri := 0, ending := false,
          pc := nextPc t.pc (Decode.parcelCount p0) } ∧ s'.mem = s.mem) ∧
      (∀ p0 p1 i loc, s.rec_.mode = 2#2 → tr.cause = .promiseMiss → tr.bar = some loc → peek s p u = some (p0, p1, i) →
        (barPhase (barRead s loc) ≠ tr.info0.extractLsb' 0 4 → ∃ s', exec .resume s = .next s' ∧ s'.thr p = some { u with
          status := .ready s.cycle, replay := false, pri := 0, pc := nextPc t.pc (Decode.parcelCount p0) }) ∧
        (barPhase (barRead s loc) = tr.info0.extractLsb' 0 4 → barRoom s loc = true → ∃ s', exec .resume s = .next s' ∧
          s'.barWaiters = s.barWaiters ++ [⟨loc, tr.info0.extractLsb' 0 4, p, none⟩] ∧ s'.thr p = some { u with
            status := .parked (.barrier loc (tr.info0.extractLsb' 0 4)), replay := false
            npc := nextPc t.pc (Decode.parcelCount p0) }) ∧
        (barPhase (barRead s loc) = tr.info0.extractLsb' 0 4 → isSlice loc = true → barRoom s loc = false →
          exec .resume s = .next s))) ∧
    (∀ (p : Nat) (t : Thread) (tr : Trap), s.rec_.busy = true → s.rec_.op = 2#4 →
      trapped s s.rec_.ctx.toNat = [(p, none, t, tr)] → s.thr p = some t → tr.cause = .breakpoint →
      ∃ s', exec .resumeall s = .next s' ∧ s'.thr p = some { t with
        status := .ready s.cycle, replay := false, pri := 0 } ∧ s'.rec_.busy = false) ∧
    (s.rec_.busy = true → c = s.rec_.ctx.toNat →
      (s.rec_.op = 3#4 → retiring s c = true → exec .preempt s = .next s) ∧
      (s.rec_.op = 3#4 → retiring s c = false → pstate s c ≠ 1 → ∃ s', exec .preempt s = .next s' ∧ pstate s' c = 1 ∧ s'.rec_.busy = false ∧
        (s'.ctx c).deadline = some (s.chron + (if cfield s c 896 24 = 0 then 2000 else cfield s c 896 24) * 1000)) ∧
      (s.rec_.op = 4#4 → ∃ s', exec .restart s = .next s' ∧ pstate s' c = 0 ∧ (s'.ctx c).deadline = none ∧
        s'.rec_.busy = false)) ∧
    (pstate s c = 1 → (∀ e ∈ s.teams, e.2.ctx = c → e.2.saved ≠ none) → ∃ s' r, exec (.preemptDrained c) s = .next s' ∧
      pstate s' c = 2 ∧ (s'.ctx c).deadline = none ∧ s'.records = s.records ++ [r] ∧ r.kind = 3 ∧ r.ctx = c) ∧
    (∀ i d, i = .forcedReset c ∨ (i = .reset ∧ s.rec_.busy = true ∧ s.rec_.op = 5#4 ∧ c = s.rec_.ctx.toNat) ∨
        (i = .preemptDeadline c ∧ (s.ctx c).deadline = some d ∧ d ≤ s.chron ∧ pstate s c = 1 ∧
          ∃ e ∈ s.teams, e.2.ctx = c ∧ e.2.saved = none ∧ teamOver s e.1 e.2 = false) →
      ∃ s', exec i s = .next s' ∧ (∀ p t, s.thr p = some t → ctxOf s t = c → s'.thr p = none) ∧
        (∀ e ∈ s'.teams, e.2.ctx ≠ c) ∧ ctxEnabled s' c = false ∧ pstate s' c = 3 ∧ cfield s' c 30 2 = 2 ∧
        (∃ r, r.kind = 3 ∧ s'.records.filter (·.ctx == c) = s.records.filter (fun r => r.ctx == c && r.kind == 3) ++ [r]) ∧
        ∀ q, q < 8192 → qfield s q 96 12 = c → qstate s' q = 2 ∧ qfield s' q 58 1 = 0)

/-! Isolation, management and the outside. -/

/-- 16 R354, R356, R363, R368; 17 R382, R383; 19 R399; 22 R428, R435: contexts, partitions and the command blocks that
guard them. Each command ends with status 0 and its effect, or with status 1 and none; FWLOAD's failed verification
gives status 2, and CERTIFY marks every frame of a text it has checked. The model's readings of its own in it: log 12,
log 17, log 20, log 85, log 86, log 87, log 88. -/
def Obligations.IsolationCommands : Prop :=
  ∀ (s : State) (c : Nat), c < 4096 →
    (s.iso.busy = true → s.iso.op = 1#4 → c = s.iso.ctx.toNat → ctxUnderWay s c = false → ∃ s', exec .inval s = .next s' ∧
      s'.iso.busy = false ∧ s'.iso.status = 0#2 ∧ s'.mem = s.mem ∧ s'.threads = s.threads ∧
      (s.iso.size = 3#2 → (∀ e ∈ s'.tlb, e.ctx ≠ c) ∧ ∀ e ∈ s'.lines, e.ctx ≠ c)) ∧
    (∀ a n k, s.iso.busy = true → s.iso.op = 2#4 → a = s.iso.a.toNat % 2 ^ 57 → n = isoSize s → k = s.iso.key.toNat →
      (s.stage = 2#2 → s.iso.size ≠ 3#2 → rangeOwn s a n = true → (mget s.keys k).isSome = true →
        (∀ r ∈ s.frames, r.start + r.count ≤ a / 32768 ∨ a / 32768 + n / 32768 ≤ r.start) →
        ∃ s', exec .grant s = .next s' ∧ s'.iso.busy = false ∧ s'.iso.status = 0#2 ∧
          s'.frames = s.frames ++ [⟨a / 32768, n / 32768, k⟩] ∧ (∀ x, a ≤ x → x < a + n → memByte s'.mem x = 0#8) ∧
          ∀ x, x < a ∨ a + n ≤ x → memByte s'.mem x = memByte s.mem x) ∧
      (s.stage ≠ 2#2 ∨ mget s.keys k = none → exec .grant s =
        .next { s with iso := { s.iso with busy := false, status := 1#2 } })) ∧
    (∀ a n k, s.iso.busy = true → s.iso.op = 3#4 → a = s.iso.a.toNat % 2 ^ 57 → n = isoSize s → s.iso.size ≠ 3#2 →
      rget s.frames (a / 32768) = some k → rcount s.frames (a / 32768) (n / 32768) k = n / 32768 →
      ∃ s', exec .release s = .next s' ∧ s'.iso.busy = false ∧ s'.iso.status = 0#2 ∧ s'.mem = s.mem ∧
        ∀ f, a / 32768 ≤ f → f < a / 32768 + n / 32768 → rget s'.frames f = none) ∧
    (∀ k, s.iso.busy = true → k = s.iso.key.toNat → (∀ r ∈ s.frames, r.tag ≠ k) → (k < 4096 → ctxEnabled s k = false) →
      (s.iso.op = 4#4 → s.iso.key1 ≠ s.iso.key2 → ∃ s', exec .keyload s = .next s' ∧ s'.iso.status = 0#2 ∧
        mget s'.keys k = some (s.iso.key1, s.iso.key2) ∧ s'.isoReg.key1 = 0#256 ∧ s'.isoReg.key2 = 0#256 ∧ s'.mem = s.mem) ∧
      (s.iso.op = 4#4 → s.iso.key1 = s.iso.key2 → ∃ s', exec .keyload s = .next s' ∧ s'.iso.status = 1#2 ∧
        s'.keys = s.keys ∧ s'.isoReg.key1 = 0#256 ∧ s'.isoReg.key2 = 0#256 ∧ s'.mem = s.mem) ∧
      (s.iso.op = 5#4 → s.iso.key1 = s.iso.key2 → ∃ s', exec .keyclear s = .next s' ∧ s'.iso.status = 1#2 ∧
        s'.keys = s.keys ∧ s'.isoReg.key1 = 0#256 ∧ s'.isoReg.key2 = 0#256 ∧ s'.mem = s.mem) ∧
      (s.iso.op = 5#4 → s.iso.key1 ≠ s.iso.key2 → ∃ s', exec .keyclear s = .next s' ∧ s'.iso.status = 0#2 ∧ mget s'.keys k = none ∧
        s'.isoReg.key1 = 0#256 ∧ s'.isoReg.key2 = 0#256 ∧ s'.mem = s.mem)) ∧
    (s.stage = 2#2 → ctxEnabled s c = false →
      (ctxFieldsOk s c = true → ∃ s', exec (.contextEnable c) s = .next s' ∧ ctxEnabled s' c = true ∧
        cfield s' c 30 2 = 1 ∧ (s'.ctx c).serials = 0#32 ∧ (s'.ctx c).frq = ⟨0#32, 0#32⟩ ∧ (s'.ctx c).scr = ⟨0#32, 0#32⟩ ∧ s'.threads = s.threads) ∧
      (ctxFieldsOk s c = false → ∃ s', exec (.contextEnable c) s = .next s' ∧ ctxEnabled s' c = false ∧
        cfield s' c 30 2 = 2 ∧ s'.threads = s.threads ∧ s'.mem = s.mem)) ∧
    (s.stage ≠ 0#2 → (∀ e ∈ s.teams, e.2.ctx ≠ c) →
      (∀ e ∈ s.queues, qfield s e.1 96 12 = c → qfield s e.1 58 1 = 0) → ∃ s', exec (.contextDisable c) s = .next s' ∧
        ctxEnabled s' c = false ∧ cfield s' c 30 2 = 0 ∧ s'.threads = s.threads ∧ s'.mem = s.mem) ∧
    (∀ bits core, s.stage ≠ 0#2 → core < 144 → ∃ s', exec (.partitionWrite c bits) s = .next s' ∧ s'.mem = s.mem ∧
      s'.threads = s.threads ∧
      (bits.getLsbD core = true → coreFree s c core = true → inPartition s' c core = true) ∧
      (bits.getLsbD core = false → residentOn s core = none → inPartition s' c core = false) ∧
      ∀ c', c' ≠ c → s'.ctx c' = s.ctx c') ∧
    (s.inst.busy = true → s.inst.op = 1#4 →
      (∀ fs, certifyFrames s s.inst.ctx.toNat (s.inst.a.toNat % 2 ^ 57) (s.inst.b.toNat % 2 ^ 57) = some fs →
        ∃ s', exec .certify s = .next s' ∧ s'.inst.busy = false ∧ s'.inst.status = 0#2 ∧ s'.mem = s.mem ∧
          ∀ f ∈ fs, (rget s'.certified f).isSome = true) ∧
      (certifyFrames s s.inst.ctx.toNat (s.inst.a.toNat % 2 ^ 57) (s.inst.b.toNat % 2 ^ 57) = none →
        exec .certify s = .next { s with inst := { s.inst with busy := false, status := 1#2 } })) ∧
    (∀ image, s.mail.busy = true → s.mail.op = 1#4 → (∀ e ∈ s.ctxs, ctxEnabled s e.1 = false) →
      image = s.read (hostLoc (2 ^ 20) s.mail.a.toNat) (s.mail.b.toNat % 2 ^ 32) →
      s.poisoned (hostLoc (2 ^ 20) s.mail.a.toNat) (s.mail.b.toNat % 2 ^ 32) = false →
      (imageOk image = true → Config.fwMinVersion ≤ imageVersion image → ∃ s',
        exec .fwload s = .next s' ∧ s'.mail.status = 0#2 ∧ s'.fwVersion = BitVec.ofNat 40 (imageVersion image) ∧
        s'.choices.silent = false ∧
        (s.stage = 0#2 → s'.stage = 1#2 ∧ s'.training = !s.fwFail ∧ s'.checking = s.fwFail ∧ s'.fwFail = false) ∧
        (s.stage ≠ 0#2 → s'.stage = s.stage)) ∧
      (imageOk image = false ∨ imageVersion image < Config.fwMinVersion → ∃ s', exec .fwload s = .next s' ∧ s'.mail.status = 2#2 ∧
        s'.fwVersion = s.fwVersion ∧ s'.stage = s.stage))

/-- 12 R287, R288; 22 R425 to R427, R433, R434, R436 to R438: writes of the management space take effect where they are
in range and the stage serves them; a masked entry signals nothing, nor do vectors 3 to 7 of the PF; trained DRAM raises
the stage, and a core whose channel failed is removed; whatever event brings new readings, firmware throttles at 105 °C
or above 2,800 W and goes on until all read below 95 °C and below 2,600 W, and after a shutdown it recovers below 95 °C;
at 115 °C it shuts down and throttles; a device reset leaves the machine after reset, but for what lies outside the
module. The model's readings of its own in it: log 18, log 90. -/
def Obligations.Management : Prop :=
  ∀ (s : State) (v : Word) (c : Nat) (failed : BitVec 144) (r : Readings),
    (s.stage = 2#2 → (4 ≤ v.toNat % 2 ^ 15 ∧ v.toNat % 2 ^ 15 ≤ 16384 →
        exec (.bellowsWrite v) s = .next { s with period := v.extractLsb' 0 15 }) ∧
      (v.toNat % 2 ^ 15 < 4 ∨ 16384 < v.toNat % 2 ^ 15 → exec (.bellowsWrite v) s = .next s)) ∧
    (MemOk s → v.toNat % 4096 < 3072 → (∀ e ∈ s.ctxs, ctxEnabled s e.1 = false) → ∃ s', exec (.moduleWrite v) s = .next s' ∧
      s'.module = v.extractLsb' 0 12 ∧ s'.threads = s.threads ∧
      ∀ a, a < 2 ^ 40 → memByte s'.mem (s'.module.toNat * 2 ^ 40 + a) = memByte s.mem (s.module.toNat * 2 ^ 40 + a)) ∧
    (s.stage ≠ 0#2 → c < 4096 → (v.toNat / 2048 % 64 = 0 ∨ v.toNat % 2048 < 64) →
      ∃ s', exec (.interruptMapWrite c v) s = .next s' ∧ mget s'.intMap c = some (v &&& 0x8001FFFF#32) ∧
        s'.mem = s.mem ∧ s'.threads = s.threads) ∧
    (s.stage ≠ 0#2 → exec (.registerWrite 0x44 (toBytes 4 v.toNat)) s = .next { s with step := v.extractLsb' 0 6 }) ∧
    (s.stage = 0#2 → exec (.registerWrite 0x44 (toBytes 4 v.toNat)) s = .next s) ∧
    ((intEntry s c).getLsbD 31 = true ∨
      field (intEntry s c) 11 6 = 0 ∧ 3 ≤ field (intEntry s c) 0 11 ∧ field (intEntry s c) 0 11 ≤ 7 →
      signalCtx s c = s) ∧
    (∀ i, (i = .dramTrainingDone failed ∧ s.training = true) ∨ (i = .dramChannelCheckDone failed ∧ s.checking = true) →
      s.stage = 1#2 → s.shut = false → ∃ s', exec i s = .next s' ∧ s'.stage = 2#2 ∧ s'.coreOff = s.coreOff ||| failed ∧
        s'.msi = s.msi ++ [(0, 0)] ∧ s'.threads = s.threads ∧
        (∀ k core, core < 144 → failed.getLsbD core = true → (mget s.ctxs k).isSome = true → inPartition s' k core = false)) ∧
    (MemOk s → ∃ s', exec .deviceReset s = .next s' ∧ s'.stage = 0#2 ∧ s'.threads = [] ∧ s'.teams = [] ∧ s'.ctxs = [] ∧
      s'.queues = [] ∧ s'.keys = [] ∧ s'.period = 64#15 ∧ s'.beat = 0#64 ∧ s'.chron = 0 ∧ s'.module = 0#12 ∧
      ∀ a, a < 2 ^ 40 → memByte s'.mem a = 0#8) ∧
    (∀ i, i = .thermalThrottle r ∨ i = .thermalThrottleEnd r ∨ i = .thermalRecovery r → r.temps.length = 9 → s.stage ≠ 0#2 →
      ∃ s', exec i s = .next s' ∧ s'.sensors.temps = r.temps ∧ s'.sensors.power = r.power ∧
        (s'.overTemp = true ↔ (∃ t ∈ r.temps, (1680 : Int) ≤ t.toInt) ∨
          s.overTemp = true ∧ ∃ t ∈ r.temps, (1520 : Int) ≤ t.toInt) ∧
        (s'.overPower = true ↔ 2800000 < r.power.toNat ∨ s.overPower = true ∧ 2600000 ≤ r.power.toNat) ∧
        (s.shut = true → s.stage = 1#2 → (∀ t ∈ r.temps, t.toInt < (1520 : Int)) →
          s'.shut = false ∧ s'.checking = !s.training) ∧ s'.threads = s.threads) ∧
    (r.temps.length = 9 → s.stage ≠ 0#2 → (∃ t ∈ r.temps, (1840 : Int) ≤ t.toInt) → ∃ s',
      exec (.thermalShutdown r) s = .next s' ∧ s'.shut = true ∧ s'.stage ≠ 2#2 ∧ s'.overTemp = true)

/-- 03 R80, R101, R102; 14 R348; 16 R365, R377; 19 R398; 22 R424, R430, R433, R438: requests of other modules and of the
host write here after their checks, and without them do nothing, nor does another module's before stage 2 or beyond its
context's budget; a lost module takes its records, live cells and acknowledgements with it; an uncorrectable error
poisons both halves of its sector, and is counted. The model's readings of its own in it: log 19, log 47, log 55, log
91. -/
def Obligations.Outside : Prop :=
  ∀ (s : State),
    (∀ ctx key kx addr bs rel, MemOk s → ctx < 4096 → key < 4096 →
      (remoteOk s (if kx then 4096 + key else ctx) addr bs.length = true → s.stage = 2#2 →
        allFit s ctx [(addr, bs.length)] = true → (∀ c ∈ s.ordered, addr + bs.length ≤ c.loc ∨ c.loc + 16 ≤ addr) → ∃ s',
        exec (.remoteAccess ctx key kx addr (.write bs rel)) s = .next s' ∧ s'.read addr bs.length = bs ∧
        OnlyBytes s s' addr bs.length ∧ s'.threads = s.threads) ∧
      (∀ req, remoteOk s (if kx then 4096 + key else ctx) addr (reqSize req) = false ∨ s.stage ≠ 2#2 ∨
        allFit s ctx (reqPlaces s ctx addr req) = false →
        exec (.remoteAccess ctx key kx addr req) s = .next s)) ∧
    (∀ (pasid : BitVec 20) (addr : DWord) (bs : List Byte) (rel : Bool) (c : Nat) (pl : Machine.Place), MemOk s →
      pasidCtx s pasid.toNat = some c → 0 < bs.length → addr.toNat % 32768 + bs.length ≤ 32768 →
      translate s 0 c addr Access.store false 1 = .ok pl → pl.loc < 2 ^ 53 → isLost s pl.loc = false →
      (∀ c ∈ s.ordered, pl.loc + bs.length ≤ c.loc ∨ c.loc + 16 ≤ pl.loc) → ∃ s',
      exec (.hostRequest pasid addr (.write bs rel)) s = .next s' ∧ s'.read pl.loc bs.length = bs ∧
      OnlyBytes s s' pl.loc bs.length ∧ s'.threads = s.threads) ∧
    (∀ (pasid : BitVec 20) addr size, hostUnderWay s pasid.toNat addr size = false → ∃ s',
      exec (.atsInvalidation pasid addr size) s = .next s' ∧ s'.mem = s.mem ∧ s'.threads = s.threads ∧
      (∀ pg, 4096 * pg < addr + size → addr < 4096 * pg + 4096 → (pasid.toNat, pg) ∉ s'.ats)) ∧
    (∀ m : BitVec 12, m ≠ s.module → m.toNat ∉ s.unreachable → ∃ s', exec (.moduleUnreachable m) s = .next s' ∧
      m.toNat ∈ s'.unreachable ∧ s'.mem = s.mem ∧
      (∀ w ∈ s'.cellWaiters, w.loc < 2 ^ 52 → w.loc / 2 ^ 40 ≠ m.toNat) ∧
      (∀ c ∈ s'.ordered, c.loc < 2 ^ 52 → c.loc / 2 ^ 40 ≠ m.toNat) ∧ ∀ u ∈ s'.unacked, u.dest ≠ m.toNat) ∧
    (∀ site, exec (.eccError site true) s = .next { s with sensors := { s.sensors with
      corrected := s.sensors.corrected + 1#64 } }) ∧
    (∀ a, ∃ s', exec (.eccError (.sector a) false) s = .next s' ∧ s'.mem = s.mem ∧ s'.threads = s.threads ∧
      s'.sensors.poisoned = s.sensors.poisoned + 1#64 ∧ s'.poisoned (a / 32 * 32) 16 = true ∧
      s'.poisoned (a / 32 * 32 + 16) 16 = true) ∧
    (∀ port, port < 18 → ∃ s', exec (.holtlinkFlitRetransmit port) s = .next s' ∧ s'.mem = s.mem ∧ s'.threads = s.threads ∧
      ∀ k, k < 18 → s'.sensors.link[k]? = (s.sensors.link[k]?).map fun x => if k = port then x + 1#64 else x) ∧
    (∀ port, port < 8 → ∃ s', exec (.ethernetSectorRetransmit port) s = .next s' ∧ s'.mem = s.mem ∧
      s'.threads = s.threads ∧ ∀ k, k < 8 → s'.sensors.eth[k]? = (s.sensors.eth[k]?).map fun x => if k = port then x + 1#64 else x)

/-! Reset, and invariants. -/

/-- 12 R287, R288; 14 R320, R337, R338, R347; 16 R353; 22 R425, R427, R433: what the spec says of the machine after
reset. The reset state meets the two invariants below: its memory is canonical and its Bellows period admitted (12
R287). -/
def Obligations.ResetState : Prop :=
  (State.reset.chron = 0 ∧ State.reset.beat = 0#64 ∧ State.reset.period = 64#15 ∧ State.reset.nextBeat = 64 * 64 ∧
   State.reset.stage = 0#2 ∧ State.reset.module = 0#12 ∧ State.reset.coreOff = 0#144 ∧ State.reset.step = 1#6 ∧
   State.reset.threads = [] ∧ State.reset.teams = [] ∧ State.reset.packets = [] ∧ State.reset.gvt = 0#32 ∧
   (∀ c, ctxEnabled State.reset c = false ∧ inPartition State.reset c 0 = false ∧ apertureBase State.reset c = 0) ∧
   (∀ q, qstate State.reset q = 0 ∧ qfield State.reset q 58 1 = 0 ∧ qfield State.reset q 64 5 = 4 ∧
     qfield State.reset q 72 8 = 1) ∧
   (∀ c, intEntry State.reset c = BitVec.ofNat 32 (8 + c % 2040)) ∧ (∀ core, allowance State.reset core = 8000)) ∧
  (MemOk State.reset ∧ PeriodOk State.reset)

/-- Every step keeps memory in its canonical form (strictly rising addresses, no zero byte listed; log 6): whatever
instruction a thread issues, whatever the device does of itself and whatever arrives from outside. -/
def Obligations.StepKeepsMemory : Prop :=
  ∀ s s' : State, MemOk s → step s = .next s' → MemOk s'

/-- 12 R287: every step keeps the Bellows period between 4 and 16,384 units of 64 ns: a write outside the range is
ignored. -/
def Obligations.StepKeepsPeriod : Prop :=
  ∀ s s' : State, PeriodOk s → step s = .next s' → PeriodOk s'

end Statements
end

