-- ==== Sys2Proof/Laws/State.lean ====
section
/-! SUPPORT. Each field of the state after each named update, and of a thread after each named update. -/

namespace Sys2Proof.Machine

/-! `State.setThr`. -/
@[simp] theorem State.setThr_chron (s : State) (p : Nat) (t : Thread) : (s.setThr p t).chron = s.chron := rfl
@[simp] theorem State.setThr_cycle (s : State) (p : Nat) (t : Thread) : (s.setThr p t).cycle = s.cycle := rfl
@[simp] theorem State.setThr_beat (s : State) (p : Nat) (t : Thread) : (s.setThr p t).beat = s.beat := rfl
@[simp] theorem State.setThr_nextBeat (s : State) (p : Nat) (t : Thread) : (s.setThr p t).nextBeat = s.nextBeat := rfl
@[simp] theorem State.setThr_period (s : State) (p : Nat) (t : Thread) : (s.setThr p t).period = s.period := rfl
@[simp] theorem State.setThr_step (s : State) (p : Nat) (t : Thread) : (s.setThr p t).step = s.step := rfl
@[simp] theorem State.setThr_stage (s : State) (p : Nat) (t : Thread) : (s.setThr p t).stage = s.stage := rfl
@[simp] theorem State.setThr_fwFail (s : State) (p : Nat) (t : Thread) : (s.setThr p t).fwFail = s.fwFail := rfl
@[simp] theorem State.setThr_module (s : State) (p : Nat) (t : Thread) : (s.setThr p t).module = s.module := rfl
@[simp] theorem State.setThr_coreOff (s : State) (p : Nat) (t : Thread) : (s.setThr p t).coreOff = s.coreOff := rfl
@[simp] theorem State.setThr_fwVersion (s : State) (p : Nat) (t : Thread) : (s.setThr p t).fwVersion = s.fwVersion := rfl
@[simp] theorem State.setThr_training (s : State) (p : Nat) (t : Thread) : (s.setThr p t).training = s.training := rfl
@[simp] theorem State.setThr_checking (s : State) (p : Nat) (t : Thread) : (s.setThr p t).checking = s.checking := rfl
@[simp] theorem State.setThr_overTemp (s : State) (p : Nat) (t : Thread) : (s.setThr p t).overTemp = s.overTemp := rfl
@[simp] theorem State.setThr_overPower (s : State) (p : Nat) (t : Thread) : (s.setThr p t).overPower = s.overPower := rfl
@[simp] theorem State.setThr_shut (s : State) (p : Nat) (t : Thread) : (s.setThr p t).shut = s.shut := rfl
@[simp] theorem State.setThr_iso (s : State) (p : Nat) (t : Thread) : (s.setThr p t).iso = s.iso := rfl
@[simp] theorem State.setThr_rec_ (s : State) (p : Nat) (t : Thread) : (s.setThr p t).rec_ = s.rec_ := rfl
@[simp] theorem State.setThr_inst (s : State) (p : Nat) (t : Thread) : (s.setThr p t).inst = s.inst := rfl
@[simp] theorem State.setThr_mail (s : State) (p : Nat) (t : Thread) : (s.setThr p t).mail = s.mail := rfl
@[simp] theorem State.setThr_isoReg (s : State) (p : Nat) (t : Thread) : (s.setThr p t).isoReg = s.isoReg := rfl
@[simp] theorem State.setThr_recReg (s : State) (p : Nat) (t : Thread) : (s.setThr p t).recReg = s.recReg := rfl
@[simp] theorem State.setThr_instReg (s : State) (p : Nat) (t : Thread) : (s.setThr p t).instReg = s.instReg := rfl
@[simp] theorem State.setThr_mailReg (s : State) (p : Nat) (t : Thread) : (s.setThr p t).mailReg = s.mailReg := rfl
@[simp] theorem State.setThr_allow (s : State) (p : Nat) (t : Thread) : (s.setThr p t).allow = s.allow := rfl
@[simp] theorem State.setThr_intMap (s : State) (p : Nat) (t : Thread) : (s.setThr p t).intMap = s.intMap := rfl
@[simp] theorem State.setThr_ranks (s : State) (p : Nat) (t : Thread) : (s.setThr p t).ranks = s.ranks := rfl
@[simp] theorem State.setThr_sensors (s : State) (p : Nat) (t : Thread) : (s.setThr p t).sensors = s.sensors := rfl
@[simp] theorem State.setThr_transport (s : State) (p : Nat) (t : Thread) : (s.setThr p t).transport = s.transport := rfl
@[simp] theorem State.setThr_msi (s : State) (p : Nat) (t : Thread) : (s.setThr p t).msi = s.msi := rfl
@[simp] theorem State.setThr_ctxs (s : State) (p : Nat) (t : Thread) : (s.setThr p t).ctxs = s.ctxs := rfl
@[simp] theorem State.setThr_queues (s : State) (p : Nat) (t : Thread) : (s.setThr p t).queues = s.queues := rfl
@[simp] theorem State.setThr_frames (s : State) (p : Nat) (t : Thread) : (s.setThr p t).frames = s.frames := rfl
@[simp] theorem State.setThr_keys (s : State) (p : Nat) (t : Thread) : (s.setThr p t).keys = s.keys := rfl
@[simp] theorem State.setThr_certified (s : State) (p : Nat) (t : Thread) : (s.setThr p t).certified = s.certified := rfl
@[simp] theorem State.setThr_tlb (s : State) (p : Nat) (t : Thread) : (s.setThr p t).tlb = s.tlb := rfl
@[simp] theorem State.setThr_lines (s : State) (p : Nat) (t : Thread) : (s.setThr p t).lines = s.lines := rfl
@[simp] theorem State.setThr_ats (s : State) (p : Nat) (t : Thread) : (s.setThr p t).ats = s.ats := rfl
@[simp] theorem State.setThr_unreachable (s : State) (p : Nat) (t : Thread) : (s.setThr p t).unreachable = s.unreachable := rfl
@[simp] theorem State.setThr_mem (s : State) (p : Nat) (t : Thread) : (s.setThr p t).mem = s.mem := rfl
@[simp] theorem State.setThr_poison (s : State) (p : Nat) (t : Thread) : (s.setThr p t).poison = s.poison := rfl
@[simp] theorem State.setThr_mesh (s : State) (p : Nat) (t : Thread) : (s.setThr p t).mesh = s.mesh := rfl
@[simp] theorem State.setThr_unacked (s : State) (p : Nat) (t : Thread) : (s.setThr p t).unacked = s.unacked := rfl
@[simp] theorem State.setThr_dies (s : State) (p : Nat) (t : Thread) : (s.setThr p t).dies = s.dies := rfl
@[simp] theorem State.setThr_ordered (s : State) (p : Nat) (t : Thread) : (s.setThr p t).ordered = s.ordered := rfl
@[simp] theorem State.setThr_barWaiters (s : State) (p : Nat) (t : Thread) : (s.setThr p t).barWaiters = s.barWaiters := rfl
@[simp] theorem State.setThr_cellWaiters (s : State) (p : Nat) (t : Thread) : (s.setThr p t).cellWaiters = s.cellWaiters := rfl
@[simp] theorem State.setThr_links (s : State) (p : Nat) (t : Thread) : (s.setThr p t).links = s.links := rfl
@[simp] theorem State.setThr_forwards (s : State) (p : Nat) (t : Thread) : (s.setThr p t).forwards = s.forwards := rfl
@[simp] theorem State.setThr_msgs (s : State) (p : Nat) (t : Thread) : (s.setThr p t).msgs = s.msgs := rfl
@[simp] theorem State.setThr_cores (s : State) (p : Nat) (t : Thread) : (s.setThr p t).cores = s.cores := rfl
@[simp] theorem State.setThr_teams (s : State) (p : Nat) (t : Thread) : (s.setThr p t).teams = s.teams := rfl
@[simp] theorem State.setThr_groups (s : State) (p : Nat) (t : Thread) : (s.setThr p t).groups = s.groups := rfl
@[simp] theorem State.setThr_threads (s : State) (p : Nat) (t : Thread) : (s.setThr p t).threads = mset s.threads p t := rfl
@[simp] theorem State.setThr_packets (s : State) (p : Nat) (t : Thread) : (s.setThr p t).packets = s.packets := rfl
@[simp] theorem State.setThr_gvt (s : State) (p : Nat) (t : Thread) : (s.setThr p t).gvt = s.gvt := rfl
@[simp] theorem State.setThr_records (s : State) (p : Nat) (t : Thread) : (s.setThr p t).records = s.records := rfl
@[simp] theorem State.setThr_agenda (s : State) (p : Nat) (t : Thread) : (s.setThr p t).agenda = s.agenda := rfl
@[simp] theorem State.setThr_issue (s : State) (p : Nat) (t : Thread) : (s.setThr p t).issue = s.issue := rfl
@[simp] theorem State.setThr_cur (s : State) (p : Nat) (t : Thread) : (s.setThr p t).cur = s.cur := rfl
@[simp] theorem State.setThr_free (s : State) (p : Nat) (t : Thread) : (s.setThr p t).free = s.free := rfl
@[simp] theorem State.setThr_serial (s : State) (p : Nat) (t : Thread) : (s.setThr p t).serial = s.serial := rfl
@[simp] theorem State.setThr_choices (s : State) (p : Nat) (t : Thread) : (s.setThr p t).choices = s.choices := rfl

/-! `State.dropThr`. -/
@[simp] theorem State.dropThr_chron (s : State) (p : Nat) : (s.dropThr p).chron = s.chron := rfl
@[simp] theorem State.dropThr_cycle (s : State) (p : Nat) : (s.dropThr p).cycle = s.cycle := rfl
@[simp] theorem State.dropThr_beat (s : State) (p : Nat) : (s.dropThr p).beat = s.beat := rfl
@[simp] theorem State.dropThr_nextBeat (s : State) (p : Nat) : (s.dropThr p).nextBeat = s.nextBeat := rfl
@[simp] theorem State.dropThr_period (s : State) (p : Nat) : (s.dropThr p).period = s.period := rfl
@[simp] theorem State.dropThr_step (s : State) (p : Nat) : (s.dropThr p).step = s.step := rfl
@[simp] theorem State.dropThr_stage (s : State) (p : Nat) : (s.dropThr p).stage = s.stage := rfl
@[simp] theorem State.dropThr_fwFail (s : State) (p : Nat) : (s.dropThr p).fwFail = s.fwFail := rfl
@[simp] theorem State.dropThr_module (s : State) (p : Nat) : (s.dropThr p).module = s.module := rfl
@[simp] theorem State.dropThr_coreOff (s : State) (p : Nat) : (s.dropThr p).coreOff = s.coreOff := rfl
@[simp] theorem State.dropThr_fwVersion (s : State) (p : Nat) : (s.dropThr p).fwVersion = s.fwVersion := rfl
@[simp] theorem State.dropThr_training (s : State) (p : Nat) : (s.dropThr p).training = s.training := rfl
@[simp] theorem State.dropThr_checking (s : State) (p : Nat) : (s.dropThr p).checking = s.checking := rfl
@[simp] theorem State.dropThr_overTemp (s : State) (p : Nat) : (s.dropThr p).overTemp = s.overTemp := rfl
@[simp] theorem State.dropThr_overPower (s : State) (p : Nat) : (s.dropThr p).overPower = s.overPower := rfl
@[simp] theorem State.dropThr_shut (s : State) (p : Nat) : (s.dropThr p).shut = s.shut := rfl
@[simp] theorem State.dropThr_iso (s : State) (p : Nat) : (s.dropThr p).iso = s.iso := rfl
@[simp] theorem State.dropThr_rec_ (s : State) (p : Nat) : (s.dropThr p).rec_ = s.rec_ := rfl
@[simp] theorem State.dropThr_inst (s : State) (p : Nat) : (s.dropThr p).inst = s.inst := rfl
@[simp] theorem State.dropThr_mail (s : State) (p : Nat) : (s.dropThr p).mail = s.mail := rfl
@[simp] theorem State.dropThr_isoReg (s : State) (p : Nat) : (s.dropThr p).isoReg = s.isoReg := rfl
@[simp] theorem State.dropThr_recReg (s : State) (p : Nat) : (s.dropThr p).recReg = s.recReg := rfl
@[simp] theorem State.dropThr_instReg (s : State) (p : Nat) : (s.dropThr p).instReg = s.instReg := rfl
@[simp] theorem State.dropThr_mailReg (s : State) (p : Nat) : (s.dropThr p).mailReg = s.mailReg := rfl
@[simp] theorem State.dropThr_allow (s : State) (p : Nat) : (s.dropThr p).allow = s.allow := rfl
@[simp] theorem State.dropThr_intMap (s : State) (p : Nat) : (s.dropThr p).intMap = s.intMap := rfl
@[simp] theorem State.dropThr_ranks (s : State) (p : Nat) : (s.dropThr p).ranks = s.ranks := rfl
@[simp] theorem State.dropThr_sensors (s : State) (p : Nat) : (s.dropThr p).sensors = s.sensors := rfl
@[simp] theorem State.dropThr_transport (s : State) (p : Nat) : (s.dropThr p).transport = s.transport := rfl
@[simp] theorem State.dropThr_msi (s : State) (p : Nat) : (s.dropThr p).msi = s.msi := rfl
@[simp] theorem State.dropThr_ctxs (s : State) (p : Nat) : (s.dropThr p).ctxs = s.ctxs := rfl
@[simp] theorem State.dropThr_queues (s : State) (p : Nat) : (s.dropThr p).queues = s.queues := rfl
@[simp] theorem State.dropThr_frames (s : State) (p : Nat) : (s.dropThr p).frames = s.frames := rfl
@[simp] theorem State.dropThr_keys (s : State) (p : Nat) : (s.dropThr p).keys = s.keys := rfl
@[simp] theorem State.dropThr_certified (s : State) (p : Nat) : (s.dropThr p).certified = s.certified := rfl
@[simp] theorem State.dropThr_tlb (s : State) (p : Nat) : (s.dropThr p).tlb = s.tlb := rfl
@[simp] theorem State.dropThr_lines (s : State) (p : Nat) : (s.dropThr p).lines = s.lines := rfl
@[simp] theorem State.dropThr_ats (s : State) (p : Nat) : (s.dropThr p).ats = s.ats := rfl
@[simp] theorem State.dropThr_unreachable (s : State) (p : Nat) : (s.dropThr p).unreachable = s.unreachable := rfl
@[simp] theorem State.dropThr_mem (s : State) (p : Nat) : (s.dropThr p).mem = s.mem := rfl
@[simp] theorem State.dropThr_poison (s : State) (p : Nat) : (s.dropThr p).poison = s.poison := rfl
@[simp] theorem State.dropThr_mesh (s : State) (p : Nat) : (s.dropThr p).mesh = s.mesh := rfl
@[simp] theorem State.dropThr_unacked (s : State) (p : Nat) : (s.dropThr p).unacked = s.unacked := rfl
@[simp] theorem State.dropThr_dies (s : State) (p : Nat) : (s.dropThr p).dies = s.dies := rfl
@[simp] theorem State.dropThr_ordered (s : State) (p : Nat) : (s.dropThr p).ordered = s.ordered := rfl
@[simp] theorem State.dropThr_barWaiters (s : State) (p : Nat) : (s.dropThr p).barWaiters = s.barWaiters := rfl
@[simp] theorem State.dropThr_cellWaiters (s : State) (p : Nat) : (s.dropThr p).cellWaiters = s.cellWaiters := rfl
@[simp] theorem State.dropThr_links (s : State) (p : Nat) : (s.dropThr p).links = s.links := rfl
@[simp] theorem State.dropThr_forwards (s : State) (p : Nat) : (s.dropThr p).forwards = s.forwards := rfl
@[simp] theorem State.dropThr_msgs (s : State) (p : Nat) : (s.dropThr p).msgs = s.msgs := rfl
@[simp] theorem State.dropThr_cores (s : State) (p : Nat) : (s.dropThr p).cores = s.cores := rfl
@[simp] theorem State.dropThr_teams (s : State) (p : Nat) : (s.dropThr p).teams = s.teams := rfl
@[simp] theorem State.dropThr_groups (s : State) (p : Nat) : (s.dropThr p).groups = s.groups := rfl
@[simp] theorem State.dropThr_threads (s : State) (p : Nat) : (s.dropThr p).threads = mdel s.threads p := rfl
@[simp] theorem State.dropThr_packets (s : State) (p : Nat) : (s.dropThr p).packets = s.packets := rfl
@[simp] theorem State.dropThr_gvt (s : State) (p : Nat) : (s.dropThr p).gvt = s.gvt := rfl
@[simp] theorem State.dropThr_records (s : State) (p : Nat) : (s.dropThr p).records = s.records := rfl
@[simp] theorem State.dropThr_agenda (s : State) (p : Nat) : (s.dropThr p).agenda = s.agenda := rfl
@[simp] theorem State.dropThr_issue (s : State) (p : Nat) : (s.dropThr p).issue = s.issue := rfl
@[simp] theorem State.dropThr_cur (s : State) (p : Nat) : (s.dropThr p).cur = s.cur := rfl
@[simp] theorem State.dropThr_free (s : State) (p : Nat) : (s.dropThr p).free = s.free := rfl
@[simp] theorem State.dropThr_serial (s : State) (p : Nat) : (s.dropThr p).serial = s.serial := rfl
@[simp] theorem State.dropThr_choices (s : State) (p : Nat) : (s.dropThr p).choices = s.choices := rfl

/-! `State.setCtx`. -/
@[simp] theorem State.setCtx_chron (s : State) (c : Nat) (x : Ctx) : (s.setCtx c x).chron = s.chron := rfl
@[simp] theorem State.setCtx_cycle (s : State) (c : Nat) (x : Ctx) : (s.setCtx c x).cycle = s.cycle := rfl
@[simp] theorem State.setCtx_beat (s : State) (c : Nat) (x : Ctx) : (s.setCtx c x).beat = s.beat := rfl
@[simp] theorem State.setCtx_nextBeat (s : State) (c : Nat) (x : Ctx) : (s.setCtx c x).nextBeat = s.nextBeat := rfl
@[simp] theorem State.setCtx_period (s : State) (c : Nat) (x : Ctx) : (s.setCtx c x).period = s.period := rfl
@[simp] theorem State.setCtx_step (s : State) (c : Nat) (x : Ctx) : (s.setCtx c x).step = s.step := rfl
@[simp] theorem State.setCtx_stage (s : State) (c : Nat) (x : Ctx) : (s.setCtx c x).stage = s.stage := rfl
@[simp] theorem State.setCtx_fwFail (s : State) (c : Nat) (x : Ctx) : (s.setCtx c x).fwFail = s.fwFail := rfl
@[simp] theorem State.setCtx_module (s : State) (c : Nat) (x : Ctx) : (s.setCtx c x).module = s.module := rfl
@[simp] theorem State.setCtx_coreOff (s : State) (c : Nat) (x : Ctx) : (s.setCtx c x).coreOff = s.coreOff := rfl
@[simp] theorem State.setCtx_fwVersion (s : State) (c : Nat) (x : Ctx) : (s.setCtx c x).fwVersion = s.fwVersion := rfl
@[simp] theorem State.setCtx_training (s : State) (c : Nat) (x : Ctx) : (s.setCtx c x).training = s.training := rfl
@[simp] theorem State.setCtx_checking (s : State) (c : Nat) (x : Ctx) : (s.setCtx c x).checking = s.checking := rfl
@[simp] theorem State.setCtx_overTemp (s : State) (c : Nat) (x : Ctx) : (s.setCtx c x).overTemp = s.overTemp := rfl
@[simp] theorem State.setCtx_overPower (s : State) (c : Nat) (x : Ctx) : (s.setCtx c x).overPower = s.overPower := rfl
@[simp] theorem State.setCtx_shut (s : State) (c : Nat) (x : Ctx) : (s.setCtx c x).shut = s.shut := rfl
@[simp] theorem State.setCtx_iso (s : State) (c : Nat) (x : Ctx) : (s.setCtx c x).iso = s.iso := rfl
@[simp] theorem State.setCtx_rec_ (s : State) (c : Nat) (x : Ctx) : (s.setCtx c x).rec_ = s.rec_ := rfl
@[simp] theorem State.setCtx_inst (s : State) (c : Nat) (x : Ctx) : (s.setCtx c x).inst = s.inst := rfl
@[simp] theorem State.setCtx_mail (s : State) (c : Nat) (x : Ctx) : (s.setCtx c x).mail = s.mail := rfl
@[simp] theorem State.setCtx_isoReg (s : State) (c : Nat) (x : Ctx) : (s.setCtx c x).isoReg = s.isoReg := rfl
@[simp] theorem State.setCtx_recReg (s : State) (c : Nat) (x : Ctx) : (s.setCtx c x).recReg = s.recReg := rfl
@[simp] theorem State.setCtx_instReg (s : State) (c : Nat) (x : Ctx) : (s.setCtx c x).instReg = s.instReg := rfl
@[simp] theorem State.setCtx_mailReg (s : State) (c : Nat) (x : Ctx) : (s.setCtx c x).mailReg = s.mailReg := rfl
@[simp] theorem State.setCtx_allow (s : State) (c : Nat) (x : Ctx) : (s.setCtx c x).allow = s.allow := rfl
@[simp] theorem State.setCtx_intMap (s : State) (c : Nat) (x : Ctx) : (s.setCtx c x).intMap = s.intMap := rfl
@[simp] theorem State.setCtx_ranks (s : State) (c : Nat) (x : Ctx) : (s.setCtx c x).ranks = s.ranks := rfl
@[simp] theorem State.setCtx_sensors (s : State) (c : Nat) (x : Ctx) : (s.setCtx c x).sensors = s.sensors := rfl
@[simp] theorem State.setCtx_transport (s : State) (c : Nat) (x : Ctx) : (s.setCtx c x).transport = s.transport := rfl
@[simp] theorem State.setCtx_msi (s : State) (c : Nat) (x : Ctx) : (s.setCtx c x).msi = s.msi := rfl
@[simp] theorem State.setCtx_ctxs (s : State) (c : Nat) (x : Ctx) : (s.setCtx c x).ctxs = mset s.ctxs c x := rfl
@[simp] theorem State.setCtx_queues (s : State) (c : Nat) (x : Ctx) : (s.setCtx c x).queues = s.queues := rfl
@[simp] theorem State.setCtx_frames (s : State) (c : Nat) (x : Ctx) : (s.setCtx c x).frames = s.frames := rfl
@[simp] theorem State.setCtx_keys (s : State) (c : Nat) (x : Ctx) : (s.setCtx c x).keys = s.keys := rfl
@[simp] theorem State.setCtx_certified (s : State) (c : Nat) (x : Ctx) : (s.setCtx c x).certified = s.certified := rfl
@[simp] theorem State.setCtx_tlb (s : State) (c : Nat) (x : Ctx) : (s.setCtx c x).tlb = s.tlb := rfl
@[simp] theorem State.setCtx_lines (s : State) (c : Nat) (x : Ctx) : (s.setCtx c x).lines = s.lines := rfl
@[simp] theorem State.setCtx_ats (s : State) (c : Nat) (x : Ctx) : (s.setCtx c x).ats = s.ats := rfl
@[simp] theorem State.setCtx_unreachable (s : State) (c : Nat) (x : Ctx) : (s.setCtx c x).unreachable = s.unreachable := rfl
@[simp] theorem State.setCtx_mem (s : State) (c : Nat) (x : Ctx) : (s.setCtx c x).mem = s.mem := rfl
@[simp] theorem State.setCtx_poison (s : State) (c : Nat) (x : Ctx) : (s.setCtx c x).poison = s.poison := rfl
@[simp] theorem State.setCtx_mesh (s : State) (c : Nat) (x : Ctx) : (s.setCtx c x).mesh = s.mesh := rfl
@[simp] theorem State.setCtx_unacked (s : State) (c : Nat) (x : Ctx) : (s.setCtx c x).unacked = s.unacked := rfl
@[simp] theorem State.setCtx_dies (s : State) (c : Nat) (x : Ctx) : (s.setCtx c x).dies = s.dies := rfl
@[simp] theorem State.setCtx_ordered (s : State) (c : Nat) (x : Ctx) : (s.setCtx c x).ordered = s.ordered := rfl
@[simp] theorem State.setCtx_barWaiters (s : State) (c : Nat) (x : Ctx) : (s.setCtx c x).barWaiters = s.barWaiters := rfl
@[simp] theorem State.setCtx_cellWaiters (s : State) (c : Nat) (x : Ctx) : (s.setCtx c x).cellWaiters = s.cellWaiters := rfl
@[simp] theorem State.setCtx_links (s : State) (c : Nat) (x : Ctx) : (s.setCtx c x).links = s.links := rfl
@[simp] theorem State.setCtx_forwards (s : State) (c : Nat) (x : Ctx) : (s.setCtx c x).forwards = s.forwards := rfl
@[simp] theorem State.setCtx_msgs (s : State) (c : Nat) (x : Ctx) : (s.setCtx c x).msgs = s.msgs := rfl
@[simp] theorem State.setCtx_cores (s : State) (c : Nat) (x : Ctx) : (s.setCtx c x).cores = s.cores := rfl
@[simp] theorem State.setCtx_teams (s : State) (c : Nat) (x : Ctx) : (s.setCtx c x).teams = s.teams := rfl
@[simp] theorem State.setCtx_groups (s : State) (c : Nat) (x : Ctx) : (s.setCtx c x).groups = s.groups := rfl
@[simp] theorem State.setCtx_threads (s : State) (c : Nat) (x : Ctx) : (s.setCtx c x).threads = s.threads := rfl
@[simp] theorem State.setCtx_packets (s : State) (c : Nat) (x : Ctx) : (s.setCtx c x).packets = s.packets := rfl
@[simp] theorem State.setCtx_gvt (s : State) (c : Nat) (x : Ctx) : (s.setCtx c x).gvt = s.gvt := rfl
@[simp] theorem State.setCtx_records (s : State) (c : Nat) (x : Ctx) : (s.setCtx c x).records = s.records := rfl
@[simp] theorem State.setCtx_agenda (s : State) (c : Nat) (x : Ctx) : (s.setCtx c x).agenda = s.agenda := rfl
@[simp] theorem State.setCtx_issue (s : State) (c : Nat) (x : Ctx) : (s.setCtx c x).issue = s.issue := rfl
@[simp] theorem State.setCtx_cur (s : State) (c : Nat) (x : Ctx) : (s.setCtx c x).cur = s.cur := rfl
@[simp] theorem State.setCtx_free (s : State) (c : Nat) (x : Ctx) : (s.setCtx c x).free = s.free := rfl
@[simp] theorem State.setCtx_serial (s : State) (c : Nat) (x : Ctx) : (s.setCtx c x).serial = s.serial := rfl
@[simp] theorem State.setCtx_choices (s : State) (c : Nat) (x : Ctx) : (s.setCtx c x).choices = s.choices := rfl

/-! `State.setQueue`. -/
@[simp] theorem State.setQueue_chron (s : State) (q : Nat) (x : Queue) : (s.setQueue q x).chron = s.chron := rfl
@[simp] theorem State.setQueue_cycle (s : State) (q : Nat) (x : Queue) : (s.setQueue q x).cycle = s.cycle := rfl
@[simp] theorem State.setQueue_beat (s : State) (q : Nat) (x : Queue) : (s.setQueue q x).beat = s.beat := rfl
@[simp] theorem State.setQueue_nextBeat (s : State) (q : Nat) (x : Queue) : (s.setQueue q x).nextBeat = s.nextBeat := rfl
@[simp] theorem State.setQueue_period (s : State) (q : Nat) (x : Queue) : (s.setQueue q x).period = s.period := rfl
@[simp] theorem State.setQueue_step (s : State) (q : Nat) (x : Queue) : (s.setQueue q x).step = s.step := rfl
@[simp] theorem State.setQueue_stage (s : State) (q : Nat) (x : Queue) : (s.setQueue q x).stage = s.stage := rfl
@[simp] theorem State.setQueue_fwFail (s : State) (q : Nat) (x : Queue) : (s.setQueue q x).fwFail = s.fwFail := rfl
@[simp] theorem State.setQueue_module (s : State) (q : Nat) (x : Queue) : (s.setQueue q x).module = s.module := rfl
@[simp] theorem State.setQueue_coreOff (s : State) (q : Nat) (x : Queue) : (s.setQueue q x).coreOff = s.coreOff := rfl
@[simp] theorem State.setQueue_fwVersion (s : State) (q : Nat) (x : Queue) : (s.setQueue q x).fwVersion = s.fwVersion := rfl
@[simp] theorem State.setQueue_training (s : State) (q : Nat) (x : Queue) : (s.setQueue q x).training = s.training := rfl
@[simp] theorem State.setQueue_checking (s : State) (q : Nat) (x : Queue) : (s.setQueue q x).checking = s.checking := rfl
@[simp] theorem State.setQueue_overTemp (s : State) (q : Nat) (x : Queue) : (s.setQueue q x).overTemp = s.overTemp := rfl
@[simp] theorem State.setQueue_overPower (s : State) (q : Nat) (x : Queue) : (s.setQueue q x).overPower = s.overPower := rfl
@[simp] theorem State.setQueue_shut (s : State) (q : Nat) (x : Queue) : (s.setQueue q x).shut = s.shut := rfl
@[simp] theorem State.setQueue_iso (s : State) (q : Nat) (x : Queue) : (s.setQueue q x).iso = s.iso := rfl
@[simp] theorem State.setQueue_rec_ (s : State) (q : Nat) (x : Queue) : (s.setQueue q x).rec_ = s.rec_ := rfl
@[simp] theorem State.setQueue_inst (s : State) (q : Nat) (x : Queue) : (s.setQueue q x).inst = s.inst := rfl
@[simp] theorem State.setQueue_mail (s : State) (q : Nat) (x : Queue) : (s.setQueue q x).mail = s.mail := rfl
@[simp] theorem State.setQueue_isoReg (s : State) (q : Nat) (x : Queue) : (s.setQueue q x).isoReg = s.isoReg := rfl
@[simp] theorem State.setQueue_recReg (s : State) (q : Nat) (x : Queue) : (s.setQueue q x).recReg = s.recReg := rfl
@[simp] theorem State.setQueue_instReg (s : State) (q : Nat) (x : Queue) : (s.setQueue q x).instReg = s.instReg := rfl
@[simp] theorem State.setQueue_mailReg (s : State) (q : Nat) (x : Queue) : (s.setQueue q x).mailReg = s.mailReg := rfl
@[simp] theorem State.setQueue_allow (s : State) (q : Nat) (x : Queue) : (s.setQueue q x).allow = s.allow := rfl
@[simp] theorem State.setQueue_intMap (s : State) (q : Nat) (x : Queue) : (s.setQueue q x).intMap = s.intMap := rfl
@[simp] theorem State.setQueue_ranks (s : State) (q : Nat) (x : Queue) : (s.setQueue q x).ranks = s.ranks := rfl
@[simp] theorem State.setQueue_sensors (s : State) (q : Nat) (x : Queue) : (s.setQueue q x).sensors = s.sensors := rfl
@[simp] theorem State.setQueue_transport (s : State) (q : Nat) (x : Queue) : (s.setQueue q x).transport = s.transport := rfl
@[simp] theorem State.setQueue_msi (s : State) (q : Nat) (x : Queue) : (s.setQueue q x).msi = s.msi := rfl
@[simp] theorem State.setQueue_ctxs (s : State) (q : Nat) (x : Queue) : (s.setQueue q x).ctxs = s.ctxs := rfl
@[simp] theorem State.setQueue_queues (s : State) (q : Nat) (x : Queue) : (s.setQueue q x).queues = mset s.queues q x := rfl
@[simp] theorem State.setQueue_frames (s : State) (q : Nat) (x : Queue) : (s.setQueue q x).frames = s.frames := rfl
@[simp] theorem State.setQueue_keys (s : State) (q : Nat) (x : Queue) : (s.setQueue q x).keys = s.keys := rfl
@[simp] theorem State.setQueue_certified (s : State) (q : Nat) (x : Queue) : (s.setQueue q x).certified = s.certified := rfl
@[simp] theorem State.setQueue_tlb (s : State) (q : Nat) (x : Queue) : (s.setQueue q x).tlb = s.tlb := rfl
@[simp] theorem State.setQueue_lines (s : State) (q : Nat) (x : Queue) : (s.setQueue q x).lines = s.lines := rfl
@[simp] theorem State.setQueue_ats (s : State) (q : Nat) (x : Queue) : (s.setQueue q x).ats = s.ats := rfl
@[simp] theorem State.setQueue_unreachable (s : State) (q : Nat) (x : Queue) : (s.setQueue q x).unreachable = s.unreachable := rfl
@[simp] theorem State.setQueue_mem (s : State) (q : Nat) (x : Queue) : (s.setQueue q x).mem = s.mem := rfl
@[simp] theorem State.setQueue_poison (s : State) (q : Nat) (x : Queue) : (s.setQueue q x).poison = s.poison := rfl
@[simp] theorem State.setQueue_mesh (s : State) (q : Nat) (x : Queue) : (s.setQueue q x).mesh = s.mesh := rfl
@[simp] theorem State.setQueue_unacked (s : State) (q : Nat) (x : Queue) : (s.setQueue q x).unacked = s.unacked := rfl
@[simp] theorem State.setQueue_dies (s : State) (q : Nat) (x : Queue) : (s.setQueue q x).dies = s.dies := rfl
@[simp] theorem State.setQueue_ordered (s : State) (q : Nat) (x : Queue) : (s.setQueue q x).ordered = s.ordered := rfl
@[simp] theorem State.setQueue_barWaiters (s : State) (q : Nat) (x : Queue) : (s.setQueue q x).barWaiters = s.barWaiters := rfl
@[simp] theorem State.setQueue_cellWaiters (s : State) (q : Nat) (x : Queue) : (s.setQueue q x).cellWaiters = s.cellWaiters := rfl
@[simp] theorem State.setQueue_links (s : State) (q : Nat) (x : Queue) : (s.setQueue q x).links = s.links := rfl
@[simp] theorem State.setQueue_forwards (s : State) (q : Nat) (x : Queue) : (s.setQueue q x).forwards = s.forwards := rfl
@[simp] theorem State.setQueue_msgs (s : State) (q : Nat) (x : Queue) : (s.setQueue q x).msgs = s.msgs := rfl
@[simp] theorem State.setQueue_cores (s : State) (q : Nat) (x : Queue) : (s.setQueue q x).cores = s.cores := rfl
@[simp] theorem State.setQueue_teams (s : State) (q : Nat) (x : Queue) : (s.setQueue q x).teams = s.teams := rfl
@[simp] theorem State.setQueue_groups (s : State) (q : Nat) (x : Queue) : (s.setQueue q x).groups = s.groups := rfl
@[simp] theorem State.setQueue_threads (s : State) (q : Nat) (x : Queue) : (s.setQueue q x).threads = s.threads := rfl
@[simp] theorem State.setQueue_packets (s : State) (q : Nat) (x : Queue) : (s.setQueue q x).packets = s.packets := rfl
@[simp] theorem State.setQueue_gvt (s : State) (q : Nat) (x : Queue) : (s.setQueue q x).gvt = s.gvt := rfl
@[simp] theorem State.setQueue_records (s : State) (q : Nat) (x : Queue) : (s.setQueue q x).records = s.records := rfl
@[simp] theorem State.setQueue_agenda (s : State) (q : Nat) (x : Queue) : (s.setQueue q x).agenda = s.agenda := rfl
@[simp] theorem State.setQueue_issue (s : State) (q : Nat) (x : Queue) : (s.setQueue q x).issue = s.issue := rfl
@[simp] theorem State.setQueue_cur (s : State) (q : Nat) (x : Queue) : (s.setQueue q x).cur = s.cur := rfl
@[simp] theorem State.setQueue_free (s : State) (q : Nat) (x : Queue) : (s.setQueue q x).free = s.free := rfl
@[simp] theorem State.setQueue_serial (s : State) (q : Nat) (x : Queue) : (s.setQueue q x).serial = s.serial := rfl
@[simp] theorem State.setQueue_choices (s : State) (q : Nat) (x : Queue) : (s.setQueue q x).choices = s.choices := rfl

/-! `State.setTeam`. -/
@[simp] theorem State.setTeam_chron (s : State) (k : Nat) (x : Team) : (s.setTeam k x).chron = s.chron := rfl
@[simp] theorem State.setTeam_cycle (s : State) (k : Nat) (x : Team) : (s.setTeam k x).cycle = s.cycle := rfl
@[simp] theorem State.setTeam_beat (s : State) (k : Nat) (x : Team) : (s.setTeam k x).beat = s.beat := rfl
@[simp] theorem State.setTeam_nextBeat (s : State) (k : Nat) (x : Team) : (s.setTeam k x).nextBeat = s.nextBeat := rfl
@[simp] theorem State.setTeam_period (s : State) (k : Nat) (x : Team) : (s.setTeam k x).period = s.period := rfl
@[simp] theorem State.setTeam_step (s : State) (k : Nat) (x : Team) : (s.setTeam k x).step = s.step := rfl
@[simp] theorem State.setTeam_stage (s : State) (k : Nat) (x : Team) : (s.setTeam k x).stage = s.stage := rfl
@[simp] theorem State.setTeam_fwFail (s : State) (k : Nat) (x : Team) : (s.setTeam k x).fwFail = s.fwFail := rfl
@[simp] theorem State.setTeam_module (s : State) (k : Nat) (x : Team) : (s.setTeam k x).module = s.module := rfl
@[simp] theorem State.setTeam_coreOff (s : State) (k : Nat) (x : Team) : (s.setTeam k x).coreOff = s.coreOff := rfl
@[simp] theorem State.setTeam_fwVersion (s : State) (k : Nat) (x : Team) : (s.setTeam k x).fwVersion = s.fwVersion := rfl
@[simp] theorem State.setTeam_training (s : State) (k : Nat) (x : Team) : (s.setTeam k x).training = s.training := rfl
@[simp] theorem State.setTeam_checking (s : State) (k : Nat) (x : Team) : (s.setTeam k x).checking = s.checking := rfl
@[simp] theorem State.setTeam_overTemp (s : State) (k : Nat) (x : Team) : (s.setTeam k x).overTemp = s.overTemp := rfl
@[simp] theorem State.setTeam_overPower (s : State) (k : Nat) (x : Team) : (s.setTeam k x).overPower = s.overPower := rfl
@[simp] theorem State.setTeam_shut (s : State) (k : Nat) (x : Team) : (s.setTeam k x).shut = s.shut := rfl
@[simp] theorem State.setTeam_iso (s : State) (k : Nat) (x : Team) : (s.setTeam k x).iso = s.iso := rfl
@[simp] theorem State.setTeam_rec_ (s : State) (k : Nat) (x : Team) : (s.setTeam k x).rec_ = s.rec_ := rfl
@[simp] theorem State.setTeam_inst (s : State) (k : Nat) (x : Team) : (s.setTeam k x).inst = s.inst := rfl
@[simp] theorem State.setTeam_mail (s : State) (k : Nat) (x : Team) : (s.setTeam k x).mail = s.mail := rfl
@[simp] theorem State.setTeam_isoReg (s : State) (k : Nat) (x : Team) : (s.setTeam k x).isoReg = s.isoReg := rfl
@[simp] theorem State.setTeam_recReg (s : State) (k : Nat) (x : Team) : (s.setTeam k x).recReg = s.recReg := rfl
@[simp] theorem State.setTeam_instReg (s : State) (k : Nat) (x : Team) : (s.setTeam k x).instReg = s.instReg := rfl
@[simp] theorem State.setTeam_mailReg (s : State) (k : Nat) (x : Team) : (s.setTeam k x).mailReg = s.mailReg := rfl
@[simp] theorem State.setTeam_allow (s : State) (k : Nat) (x : Team) : (s.setTeam k x).allow = s.allow := rfl
@[simp] theorem State.setTeam_intMap (s : State) (k : Nat) (x : Team) : (s.setTeam k x).intMap = s.intMap := rfl
@[simp] theorem State.setTeam_ranks (s : State) (k : Nat) (x : Team) : (s.setTeam k x).ranks = s.ranks := rfl
@[simp] theorem State.setTeam_sensors (s : State) (k : Nat) (x : Team) : (s.setTeam k x).sensors = s.sensors := rfl
@[simp] theorem State.setTeam_transport (s : State) (k : Nat) (x : Team) : (s.setTeam k x).transport = s.transport := rfl
@[simp] theorem State.setTeam_msi (s : State) (k : Nat) (x : Team) : (s.setTeam k x).msi = s.msi := rfl
@[simp] theorem State.setTeam_ctxs (s : State) (k : Nat) (x : Team) : (s.setTeam k x).ctxs = s.ctxs := rfl
@[simp] theorem State.setTeam_queues (s : State) (k : Nat) (x : Team) : (s.setTeam k x).queues = s.queues := rfl
@[simp] theorem State.setTeam_frames (s : State) (k : Nat) (x : Team) : (s.setTeam k x).frames = s.frames := rfl
@[simp] theorem State.setTeam_keys (s : State) (k : Nat) (x : Team) : (s.setTeam k x).keys = s.keys := rfl
@[simp] theorem State.setTeam_certified (s : State) (k : Nat) (x : Team) : (s.setTeam k x).certified = s.certified := rfl
@[simp] theorem State.setTeam_tlb (s : State) (k : Nat) (x : Team) : (s.setTeam k x).tlb = s.tlb := rfl
@[simp] theorem State.setTeam_lines (s : State) (k : Nat) (x : Team) : (s.setTeam k x).lines = s.lines := rfl
@[simp] theorem State.setTeam_ats (s : State) (k : Nat) (x : Team) : (s.setTeam k x).ats = s.ats := rfl
@[simp] theorem State.setTeam_unreachable (s : State) (k : Nat) (x : Team) : (s.setTeam k x).unreachable = s.unreachable := rfl
@[simp] theorem State.setTeam_mem (s : State) (k : Nat) (x : Team) : (s.setTeam k x).mem = s.mem := rfl
@[simp] theorem State.setTeam_poison (s : State) (k : Nat) (x : Team) : (s.setTeam k x).poison = s.poison := rfl
@[simp] theorem State.setTeam_mesh (s : State) (k : Nat) (x : Team) : (s.setTeam k x).mesh = s.mesh := rfl
@[simp] theorem State.setTeam_unacked (s : State) (k : Nat) (x : Team) : (s.setTeam k x).unacked = s.unacked := rfl
@[simp] theorem State.setTeam_dies (s : State) (k : Nat) (x : Team) : (s.setTeam k x).dies = s.dies := rfl
@[simp] theorem State.setTeam_ordered (s : State) (k : Nat) (x : Team) : (s.setTeam k x).ordered = s.ordered := rfl
@[simp] theorem State.setTeam_barWaiters (s : State) (k : Nat) (x : Team) : (s.setTeam k x).barWaiters = s.barWaiters := rfl
@[simp] theorem State.setTeam_cellWaiters (s : State) (k : Nat) (x : Team) : (s.setTeam k x).cellWaiters = s.cellWaiters := rfl
@[simp] theorem State.setTeam_links (s : State) (k : Nat) (x : Team) : (s.setTeam k x).links = s.links := rfl
@[simp] theorem State.setTeam_forwards (s : State) (k : Nat) (x : Team) : (s.setTeam k x).forwards = s.forwards := rfl
@[simp] theorem State.setTeam_msgs (s : State) (k : Nat) (x : Team) : (s.setTeam k x).msgs = s.msgs := rfl
@[simp] theorem State.setTeam_cores (s : State) (k : Nat) (x : Team) : (s.setTeam k x).cores = s.cores := rfl
@[simp] theorem State.setTeam_teams (s : State) (k : Nat) (x : Team) : (s.setTeam k x).teams = mset s.teams k x := rfl
@[simp] theorem State.setTeam_groups (s : State) (k : Nat) (x : Team) : (s.setTeam k x).groups = s.groups := rfl
@[simp] theorem State.setTeam_threads (s : State) (k : Nat) (x : Team) : (s.setTeam k x).threads = s.threads := rfl
@[simp] theorem State.setTeam_packets (s : State) (k : Nat) (x : Team) : (s.setTeam k x).packets = s.packets := rfl
@[simp] theorem State.setTeam_gvt (s : State) (k : Nat) (x : Team) : (s.setTeam k x).gvt = s.gvt := rfl
@[simp] theorem State.setTeam_records (s : State) (k : Nat) (x : Team) : (s.setTeam k x).records = s.records := rfl
@[simp] theorem State.setTeam_agenda (s : State) (k : Nat) (x : Team) : (s.setTeam k x).agenda = s.agenda := rfl
@[simp] theorem State.setTeam_issue (s : State) (k : Nat) (x : Team) : (s.setTeam k x).issue = s.issue := rfl
@[simp] theorem State.setTeam_cur (s : State) (k : Nat) (x : Team) : (s.setTeam k x).cur = s.cur := rfl
@[simp] theorem State.setTeam_free (s : State) (k : Nat) (x : Team) : (s.setTeam k x).free = s.free := rfl
@[simp] theorem State.setTeam_serial (s : State) (k : Nat) (x : Team) : (s.setTeam k x).serial = s.serial := rfl
@[simp] theorem State.setTeam_choices (s : State) (k : Nat) (x : Team) : (s.setTeam k x).choices = s.choices := rfl

/-! `State.setGroup`. -/
@[simp] theorem State.setGroup_chron (s : State) (k : Nat) (x : Group) : (s.setGroup k x).chron = s.chron := rfl
@[simp] theorem State.setGroup_cycle (s : State) (k : Nat) (x : Group) : (s.setGroup k x).cycle = s.cycle := rfl
@[simp] theorem State.setGroup_beat (s : State) (k : Nat) (x : Group) : (s.setGroup k x).beat = s.beat := rfl
@[simp] theorem State.setGroup_nextBeat (s : State) (k : Nat) (x : Group) : (s.setGroup k x).nextBeat = s.nextBeat := rfl
@[simp] theorem State.setGroup_period (s : State) (k : Nat) (x : Group) : (s.setGroup k x).period = s.period := rfl
@[simp] theorem State.setGroup_step (s : State) (k : Nat) (x : Group) : (s.setGroup k x).step = s.step := rfl
@[simp] theorem State.setGroup_stage (s : State) (k : Nat) (x : Group) : (s.setGroup k x).stage = s.stage := rfl
@[simp] theorem State.setGroup_fwFail (s : State) (k : Nat) (x : Group) : (s.setGroup k x).fwFail = s.fwFail := rfl
@[simp] theorem State.setGroup_module (s : State) (k : Nat) (x : Group) : (s.setGroup k x).module = s.module := rfl
@[simp] theorem State.setGroup_coreOff (s : State) (k : Nat) (x : Group) : (s.setGroup k x).coreOff = s.coreOff := rfl
@[simp] theorem State.setGroup_fwVersion (s : State) (k : Nat) (x : Group) : (s.setGroup k x).fwVersion = s.fwVersion := rfl
@[simp] theorem State.setGroup_training (s : State) (k : Nat) (x : Group) : (s.setGroup k x).training = s.training := rfl
@[simp] theorem State.setGroup_checking (s : State) (k : Nat) (x : Group) : (s.setGroup k x).checking = s.checking := rfl
@[simp] theorem State.setGroup_overTemp (s : State) (k : Nat) (x : Group) : (s.setGroup k x).overTemp = s.overTemp := rfl
@[simp] theorem State.setGroup_overPower (s : State) (k : Nat) (x : Group) : (s.setGroup k x).overPower = s.overPower := rfl
@[simp] theorem State.setGroup_shut (s : State) (k : Nat) (x : Group) : (s.setGroup k x).shut = s.shut := rfl
@[simp] theorem State.setGroup_iso (s : State) (k : Nat) (x : Group) : (s.setGroup k x).iso = s.iso := rfl
@[simp] theorem State.setGroup_rec_ (s : State) (k : Nat) (x : Group) : (s.setGroup k x).rec_ = s.rec_ := rfl
@[simp] theorem State.setGroup_inst (s : State) (k : Nat) (x : Group) : (s.setGroup k x).inst = s.inst := rfl
@[simp] theorem State.setGroup_mail (s : State) (k : Nat) (x : Group) : (s.setGroup k x).mail = s.mail := rfl
@[simp] theorem State.setGroup_isoReg (s : State) (k : Nat) (x : Group) : (s.setGroup k x).isoReg = s.isoReg := rfl
@[simp] theorem State.setGroup_recReg (s : State) (k : Nat) (x : Group) : (s.setGroup k x).recReg = s.recReg := rfl
@[simp] theorem State.setGroup_instReg (s : State) (k : Nat) (x : Group) : (s.setGroup k x).instReg = s.instReg := rfl
@[simp] theorem State.setGroup_mailReg (s : State) (k : Nat) (x : Group) : (s.setGroup k x).mailReg = s.mailReg := rfl
@[simp] theorem State.setGroup_allow (s : State) (k : Nat) (x : Group) : (s.setGroup k x).allow = s.allow := rfl
@[simp] theorem State.setGroup_intMap (s : State) (k : Nat) (x : Group) : (s.setGroup k x).intMap = s.intMap := rfl
@[simp] theorem State.setGroup_ranks (s : State) (k : Nat) (x : Group) : (s.setGroup k x).ranks = s.ranks := rfl
@[simp] theorem State.setGroup_sensors (s : State) (k : Nat) (x : Group) : (s.setGroup k x).sensors = s.sensors := rfl
@[simp] theorem State.setGroup_transport (s : State) (k : Nat) (x : Group) : (s.setGroup k x).transport = s.transport := rfl
@[simp] theorem State.setGroup_msi (s : State) (k : Nat) (x : Group) : (s.setGroup k x).msi = s.msi := rfl
@[simp] theorem State.setGroup_ctxs (s : State) (k : Nat) (x : Group) : (s.setGroup k x).ctxs = s.ctxs := rfl
@[simp] theorem State.setGroup_queues (s : State) (k : Nat) (x : Group) : (s.setGroup k x).queues = s.queues := rfl
@[simp] theorem State.setGroup_frames (s : State) (k : Nat) (x : Group) : (s.setGroup k x).frames = s.frames := rfl
@[simp] theorem State.setGroup_keys (s : State) (k : Nat) (x : Group) : (s.setGroup k x).keys = s.keys := rfl
@[simp] theorem State.setGroup_certified (s : State) (k : Nat) (x : Group) : (s.setGroup k x).certified = s.certified := rfl
@[simp] theorem State.setGroup_tlb (s : State) (k : Nat) (x : Group) : (s.setGroup k x).tlb = s.tlb := rfl
@[simp] theorem State.setGroup_lines (s : State) (k : Nat) (x : Group) : (s.setGroup k x).lines = s.lines := rfl
@[simp] theorem State.setGroup_ats (s : State) (k : Nat) (x : Group) : (s.setGroup k x).ats = s.ats := rfl
@[simp] theorem State.setGroup_unreachable (s : State) (k : Nat) (x : Group) : (s.setGroup k x).unreachable = s.unreachable := rfl
@[simp] theorem State.setGroup_mem (s : State) (k : Nat) (x : Group) : (s.setGroup k x).mem = s.mem := rfl
@[simp] theorem State.setGroup_poison (s : State) (k : Nat) (x : Group) : (s.setGroup k x).poison = s.poison := rfl
@[simp] theorem State.setGroup_mesh (s : State) (k : Nat) (x : Group) : (s.setGroup k x).mesh = s.mesh := rfl
@[simp] theorem State.setGroup_unacked (s : State) (k : Nat) (x : Group) : (s.setGroup k x).unacked = s.unacked := rfl
@[simp] theorem State.setGroup_dies (s : State) (k : Nat) (x : Group) : (s.setGroup k x).dies = s.dies := rfl
@[simp] theorem State.setGroup_ordered (s : State) (k : Nat) (x : Group) : (s.setGroup k x).ordered = s.ordered := rfl
@[simp] theorem State.setGroup_barWaiters (s : State) (k : Nat) (x : Group) : (s.setGroup k x).barWaiters = s.barWaiters := rfl
@[simp] theorem State.setGroup_cellWaiters (s : State) (k : Nat) (x : Group) : (s.setGroup k x).cellWaiters = s.cellWaiters := rfl
@[simp] theorem State.setGroup_links (s : State) (k : Nat) (x : Group) : (s.setGroup k x).links = s.links := rfl
@[simp] theorem State.setGroup_forwards (s : State) (k : Nat) (x : Group) : (s.setGroup k x).forwards = s.forwards := rfl
@[simp] theorem State.setGroup_msgs (s : State) (k : Nat) (x : Group) : (s.setGroup k x).msgs = s.msgs := rfl
@[simp] theorem State.setGroup_cores (s : State) (k : Nat) (x : Group) : (s.setGroup k x).cores = s.cores := rfl
@[simp] theorem State.setGroup_teams (s : State) (k : Nat) (x : Group) : (s.setGroup k x).teams = s.teams := rfl
@[simp] theorem State.setGroup_groups (s : State) (k : Nat) (x : Group) : (s.setGroup k x).groups = mset s.groups k x := rfl
@[simp] theorem State.setGroup_threads (s : State) (k : Nat) (x : Group) : (s.setGroup k x).threads = s.threads := rfl
@[simp] theorem State.setGroup_packets (s : State) (k : Nat) (x : Group) : (s.setGroup k x).packets = s.packets := rfl
@[simp] theorem State.setGroup_gvt (s : State) (k : Nat) (x : Group) : (s.setGroup k x).gvt = s.gvt := rfl
@[simp] theorem State.setGroup_records (s : State) (k : Nat) (x : Group) : (s.setGroup k x).records = s.records := rfl
@[simp] theorem State.setGroup_agenda (s : State) (k : Nat) (x : Group) : (s.setGroup k x).agenda = s.agenda := rfl
@[simp] theorem State.setGroup_issue (s : State) (k : Nat) (x : Group) : (s.setGroup k x).issue = s.issue := rfl
@[simp] theorem State.setGroup_cur (s : State) (k : Nat) (x : Group) : (s.setGroup k x).cur = s.cur := rfl
@[simp] theorem State.setGroup_free (s : State) (k : Nat) (x : Group) : (s.setGroup k x).free = s.free := rfl
@[simp] theorem State.setGroup_serial (s : State) (k : Nat) (x : Group) : (s.setGroup k x).serial = s.serial := rfl
@[simp] theorem State.setGroup_choices (s : State) (k : Nat) (x : Group) : (s.setGroup k x).choices = s.choices := rfl

/-! `State.setPacket`. -/
@[simp] theorem State.setPacket_chron (s : State) (k : Nat) (x : Packet) : (s.setPacket k x).chron = s.chron := rfl
@[simp] theorem State.setPacket_cycle (s : State) (k : Nat) (x : Packet) : (s.setPacket k x).cycle = s.cycle := rfl
@[simp] theorem State.setPacket_beat (s : State) (k : Nat) (x : Packet) : (s.setPacket k x).beat = s.beat := rfl
@[simp] theorem State.setPacket_nextBeat (s : State) (k : Nat) (x : Packet) : (s.setPacket k x).nextBeat = s.nextBeat := rfl
@[simp] theorem State.setPacket_period (s : State) (k : Nat) (x : Packet) : (s.setPacket k x).period = s.period := rfl
@[simp] theorem State.setPacket_step (s : State) (k : Nat) (x : Packet) : (s.setPacket k x).step = s.step := rfl
@[simp] theorem State.setPacket_stage (s : State) (k : Nat) (x : Packet) : (s.setPacket k x).stage = s.stage := rfl
@[simp] theorem State.setPacket_fwFail (s : State) (k : Nat) (x : Packet) : (s.setPacket k x).fwFail = s.fwFail := rfl
@[simp] theorem State.setPacket_module (s : State) (k : Nat) (x : Packet) : (s.setPacket k x).module = s.module := rfl
@[simp] theorem State.setPacket_coreOff (s : State) (k : Nat) (x : Packet) : (s.setPacket k x).coreOff = s.coreOff := rfl
@[simp] theorem State.setPacket_fwVersion (s : State) (k : Nat) (x : Packet) : (s.setPacket k x).fwVersion = s.fwVersion := rfl
@[simp] theorem State.setPacket_training (s : State) (k : Nat) (x : Packet) : (s.setPacket k x).training = s.training := rfl
@[simp] theorem State.setPacket_checking (s : State) (k : Nat) (x : Packet) : (s.setPacket k x).checking = s.checking := rfl
@[simp] theorem State.setPacket_overTemp (s : State) (k : Nat) (x : Packet) : (s.setPacket k x).overTemp = s.overTemp := rfl
@[simp] theorem State.setPacket_overPower (s : State) (k : Nat) (x : Packet) : (s.setPacket k x).overPower = s.overPower := rfl
@[simp] theorem State.setPacket_shut (s : State) (k : Nat) (x : Packet) : (s.setPacket k x).shut = s.shut := rfl
@[simp] theorem State.setPacket_iso (s : State) (k : Nat) (x : Packet) : (s.setPacket k x).iso = s.iso := rfl
@[simp] theorem State.setPacket_rec_ (s : State) (k : Nat) (x : Packet) : (s.setPacket k x).rec_ = s.rec_ := rfl
@[simp] theorem State.setPacket_inst (s : State) (k : Nat) (x : Packet) : (s.setPacket k x).inst = s.inst := rfl
@[simp] theorem State.setPacket_mail (s : State) (k : Nat) (x : Packet) : (s.setPacket k x).mail = s.mail := rfl
@[simp] theorem State.setPacket_isoReg (s : State) (k : Nat) (x : Packet) : (s.setPacket k x).isoReg = s.isoReg := rfl
@[simp] theorem State.setPacket_recReg (s : State) (k : Nat) (x : Packet) : (s.setPacket k x).recReg = s.recReg := rfl
@[simp] theorem State.setPacket_instReg (s : State) (k : Nat) (x : Packet) : (s.setPacket k x).instReg = s.instReg := rfl
@[simp] theorem State.setPacket_mailReg (s : State) (k : Nat) (x : Packet) : (s.setPacket k x).mailReg = s.mailReg := rfl
@[simp] theorem State.setPacket_allow (s : State) (k : Nat) (x : Packet) : (s.setPacket k x).allow = s.allow := rfl
@[simp] theorem State.setPacket_intMap (s : State) (k : Nat) (x : Packet) : (s.setPacket k x).intMap = s.intMap := rfl
@[simp] theorem State.setPacket_ranks (s : State) (k : Nat) (x : Packet) : (s.setPacket k x).ranks = s.ranks := rfl
@[simp] theorem State.setPacket_sensors (s : State) (k : Nat) (x : Packet) : (s.setPacket k x).sensors = s.sensors := rfl
@[simp] theorem State.setPacket_transport (s : State) (k : Nat) (x : Packet) : (s.setPacket k x).transport = s.transport := rfl
@[simp] theorem State.setPacket_msi (s : State) (k : Nat) (x : Packet) : (s.setPacket k x).msi = s.msi := rfl
@[simp] theorem State.setPacket_ctxs (s : State) (k : Nat) (x : Packet) : (s.setPacket k x).ctxs = s.ctxs := rfl
@[simp] theorem State.setPacket_queues (s : State) (k : Nat) (x : Packet) : (s.setPacket k x).queues = s.queues := rfl
@[simp] theorem State.setPacket_frames (s : State) (k : Nat) (x : Packet) : (s.setPacket k x).frames = s.frames := rfl
@[simp] theorem State.setPacket_keys (s : State) (k : Nat) (x : Packet) : (s.setPacket k x).keys = s.keys := rfl
@[simp] theorem State.setPacket_certified (s : State) (k : Nat) (x : Packet) : (s.setPacket k x).certified = s.certified := rfl
@[simp] theorem State.setPacket_tlb (s : State) (k : Nat) (x : Packet) : (s.setPacket k x).tlb = s.tlb := rfl
@[simp] theorem State.setPacket_lines (s : State) (k : Nat) (x : Packet) : (s.setPacket k x).lines = s.lines := rfl
@[simp] theorem State.setPacket_ats (s : State) (k : Nat) (x : Packet) : (s.setPacket k x).ats = s.ats := rfl
@[simp] theorem State.setPacket_unreachable (s : State) (k : Nat) (x : Packet) : (s.setPacket k x).unreachable = s.unreachable := rfl
@[simp] theorem State.setPacket_mem (s : State) (k : Nat) (x : Packet) : (s.setPacket k x).mem = s.mem := rfl
@[simp] theorem State.setPacket_poison (s : State) (k : Nat) (x : Packet) : (s.setPacket k x).poison = s.poison := rfl
@[simp] theorem State.setPacket_mesh (s : State) (k : Nat) (x : Packet) : (s.setPacket k x).mesh = s.mesh := rfl
@[simp] theorem State.setPacket_unacked (s : State) (k : Nat) (x : Packet) : (s.setPacket k x).unacked = s.unacked := rfl
@[simp] theorem State.setPacket_dies (s : State) (k : Nat) (x : Packet) : (s.setPacket k x).dies = s.dies := rfl
@[simp] theorem State.setPacket_ordered (s : State) (k : Nat) (x : Packet) : (s.setPacket k x).ordered = s.ordered := rfl
@[simp] theorem State.setPacket_barWaiters (s : State) (k : Nat) (x : Packet) : (s.setPacket k x).barWaiters = s.barWaiters := rfl
@[simp] theorem State.setPacket_cellWaiters (s : State) (k : Nat) (x : Packet) : (s.setPacket k x).cellWaiters = s.cellWaiters := rfl
@[simp] theorem State.setPacket_links (s : State) (k : Nat) (x : Packet) : (s.setPacket k x).links = s.links := rfl
@[simp] theorem State.setPacket_forwards (s : State) (k : Nat) (x : Packet) : (s.setPacket k x).forwards = s.forwards := rfl
@[simp] theorem State.setPacket_msgs (s : State) (k : Nat) (x : Packet) : (s.setPacket k x).msgs = s.msgs := rfl
@[simp] theorem State.setPacket_cores (s : State) (k : Nat) (x : Packet) : (s.setPacket k x).cores = s.cores := rfl
@[simp] theorem State.setPacket_teams (s : State) (k : Nat) (x : Packet) : (s.setPacket k x).teams = s.teams := rfl
@[simp] theorem State.setPacket_groups (s : State) (k : Nat) (x : Packet) : (s.setPacket k x).groups = s.groups := rfl
@[simp] theorem State.setPacket_threads (s : State) (k : Nat) (x : Packet) : (s.setPacket k x).threads = s.threads := rfl
@[simp] theorem State.setPacket_packets (s : State) (k : Nat) (x : Packet) : (s.setPacket k x).packets = mset s.packets k x := rfl
@[simp] theorem State.setPacket_gvt (s : State) (k : Nat) (x : Packet) : (s.setPacket k x).gvt = s.gvt := rfl
@[simp] theorem State.setPacket_records (s : State) (k : Nat) (x : Packet) : (s.setPacket k x).records = s.records := rfl
@[simp] theorem State.setPacket_agenda (s : State) (k : Nat) (x : Packet) : (s.setPacket k x).agenda = s.agenda := rfl
@[simp] theorem State.setPacket_issue (s : State) (k : Nat) (x : Packet) : (s.setPacket k x).issue = s.issue := rfl
@[simp] theorem State.setPacket_cur (s : State) (k : Nat) (x : Packet) : (s.setPacket k x).cur = s.cur := rfl
@[simp] theorem State.setPacket_free (s : State) (k : Nat) (x : Packet) : (s.setPacket k x).free = s.free := rfl
@[simp] theorem State.setPacket_serial (s : State) (k : Nat) (x : Packet) : (s.setPacket k x).serial = s.serial := rfl
@[simp] theorem State.setPacket_choices (s : State) (k : Nat) (x : Packet) : (s.setPacket k x).choices = s.choices := rfl

/-! `State.bump`. -/
@[simp] theorem State.bump_chron (s : State) : (s.bump).chron = s.chron := rfl
@[simp] theorem State.bump_cycle (s : State) : (s.bump).cycle = s.cycle := rfl
@[simp] theorem State.bump_beat (s : State) : (s.bump).beat = s.beat := rfl
@[simp] theorem State.bump_nextBeat (s : State) : (s.bump).nextBeat = s.nextBeat := rfl
@[simp] theorem State.bump_period (s : State) : (s.bump).period = s.period := rfl
@[simp] theorem State.bump_step (s : State) : (s.bump).step = s.step := rfl
@[simp] theorem State.bump_stage (s : State) : (s.bump).stage = s.stage := rfl
@[simp] theorem State.bump_fwFail (s : State) : (s.bump).fwFail = s.fwFail := rfl
@[simp] theorem State.bump_module (s : State) : (s.bump).module = s.module := rfl
@[simp] theorem State.bump_coreOff (s : State) : (s.bump).coreOff = s.coreOff := rfl
@[simp] theorem State.bump_fwVersion (s : State) : (s.bump).fwVersion = s.fwVersion := rfl
@[simp] theorem State.bump_training (s : State) : (s.bump).training = s.training := rfl
@[simp] theorem State.bump_checking (s : State) : (s.bump).checking = s.checking := rfl
@[simp] theorem State.bump_overTemp (s : State) : (s.bump).overTemp = s.overTemp := rfl
@[simp] theorem State.bump_overPower (s : State) : (s.bump).overPower = s.overPower := rfl
@[simp] theorem State.bump_shut (s : State) : (s.bump).shut = s.shut := rfl
@[simp] theorem State.bump_iso (s : State) : (s.bump).iso = s.iso := rfl
@[simp] theorem State.bump_rec_ (s : State) : (s.bump).rec_ = s.rec_ := rfl
@[simp] theorem State.bump_inst (s : State) : (s.bump).inst = s.inst := rfl
@[simp] theorem State.bump_mail (s : State) : (s.bump).mail = s.mail := rfl
@[simp] theorem State.bump_isoReg (s : State) : (s.bump).isoReg = s.isoReg := rfl
@[simp] theorem State.bump_recReg (s : State) : (s.bump).recReg = s.recReg := rfl
@[simp] theorem State.bump_instReg (s : State) : (s.bump).instReg = s.instReg := rfl
@[simp] theorem State.bump_mailReg (s : State) : (s.bump).mailReg = s.mailReg := rfl
@[simp] theorem State.bump_allow (s : State) : (s.bump).allow = s.allow := rfl
@[simp] theorem State.bump_intMap (s : State) : (s.bump).intMap = s.intMap := rfl
@[simp] theorem State.bump_ranks (s : State) : (s.bump).ranks = s.ranks := rfl
@[simp] theorem State.bump_sensors (s : State) : (s.bump).sensors = s.sensors := rfl
@[simp] theorem State.bump_transport (s : State) : (s.bump).transport = s.transport := rfl
@[simp] theorem State.bump_msi (s : State) : (s.bump).msi = s.msi := rfl
@[simp] theorem State.bump_ctxs (s : State) : (s.bump).ctxs = s.ctxs := rfl
@[simp] theorem State.bump_queues (s : State) : (s.bump).queues = s.queues := rfl
@[simp] theorem State.bump_frames (s : State) : (s.bump).frames = s.frames := rfl
@[simp] theorem State.bump_keys (s : State) : (s.bump).keys = s.keys := rfl
@[simp] theorem State.bump_certified (s : State) : (s.bump).certified = s.certified := rfl
@[simp] theorem State.bump_tlb (s : State) : (s.bump).tlb = s.tlb := rfl
@[simp] theorem State.bump_lines (s : State) : (s.bump).lines = s.lines := rfl
@[simp] theorem State.bump_ats (s : State) : (s.bump).ats = s.ats := rfl
@[simp] theorem State.bump_unreachable (s : State) : (s.bump).unreachable = s.unreachable := rfl
@[simp] theorem State.bump_mem (s : State) : (s.bump).mem = s.mem := rfl
@[simp] theorem State.bump_poison (s : State) : (s.bump).poison = s.poison := rfl
@[simp] theorem State.bump_mesh (s : State) : (s.bump).mesh = s.mesh := rfl
@[simp] theorem State.bump_unacked (s : State) : (s.bump).unacked = s.unacked := rfl
@[simp] theorem State.bump_dies (s : State) : (s.bump).dies = s.dies := rfl
@[simp] theorem State.bump_ordered (s : State) : (s.bump).ordered = s.ordered := rfl
@[simp] theorem State.bump_barWaiters (s : State) : (s.bump).barWaiters = s.barWaiters := rfl
@[simp] theorem State.bump_cellWaiters (s : State) : (s.bump).cellWaiters = s.cellWaiters := rfl
@[simp] theorem State.bump_links (s : State) : (s.bump).links = s.links := rfl
@[simp] theorem State.bump_forwards (s : State) : (s.bump).forwards = s.forwards := rfl
@[simp] theorem State.bump_msgs (s : State) : (s.bump).msgs = s.msgs := rfl
@[simp] theorem State.bump_cores (s : State) : (s.bump).cores = s.cores := rfl
@[simp] theorem State.bump_teams (s : State) : (s.bump).teams = s.teams := rfl
@[simp] theorem State.bump_groups (s : State) : (s.bump).groups = s.groups := rfl
@[simp] theorem State.bump_threads (s : State) : (s.bump).threads = s.threads := rfl
@[simp] theorem State.bump_packets (s : State) : (s.bump).packets = s.packets := rfl
@[simp] theorem State.bump_gvt (s : State) : (s.bump).gvt = s.gvt := rfl
@[simp] theorem State.bump_records (s : State) : (s.bump).records = s.records := rfl
@[simp] theorem State.bump_agenda (s : State) : (s.bump).agenda = s.agenda := rfl
@[simp] theorem State.bump_issue (s : State) : (s.bump).issue = s.issue := rfl
@[simp] theorem State.bump_cur (s : State) : (s.bump).cur = s.cur := rfl
@[simp] theorem State.bump_free (s : State) : (s.bump).free = s.free := rfl
@[simp] theorem State.bump_serial (s : State) : (s.bump).serial = s.serial + 1 := rfl
@[simp] theorem State.bump_choices (s : State) : (s.bump).choices = s.choices := rfl

/-! `State.setCore`. -/
@[simp] theorem State.setCore_chron (s : State) (c : Nat) (x : CoreState) : (s.setCore c x).chron = s.chron := rfl
@[simp] theorem State.setCore_cycle (s : State) (c : Nat) (x : CoreState) : (s.setCore c x).cycle = s.cycle := rfl
@[simp] theorem State.setCore_beat (s : State) (c : Nat) (x : CoreState) : (s.setCore c x).beat = s.beat := rfl
@[simp] theorem State.setCore_nextBeat (s : State) (c : Nat) (x : CoreState) : (s.setCore c x).nextBeat = s.nextBeat := rfl
@[simp] theorem State.setCore_period (s : State) (c : Nat) (x : CoreState) : (s.setCore c x).period = s.period := rfl
@[simp] theorem State.setCore_step (s : State) (c : Nat) (x : CoreState) : (s.setCore c x).step = s.step := rfl
@[simp] theorem State.setCore_stage (s : State) (c : Nat) (x : CoreState) : (s.setCore c x).stage = s.stage := rfl
@[simp] theorem State.setCore_fwFail (s : State) (c : Nat) (x : CoreState) : (s.setCore c x).fwFail = s.fwFail := rfl
@[simp] theorem State.setCore_module (s : State) (c : Nat) (x : CoreState) : (s.setCore c x).module = s.module := rfl
@[simp] theorem State.setCore_coreOff (s : State) (c : Nat) (x : CoreState) : (s.setCore c x).coreOff = s.coreOff := rfl
@[simp] theorem State.setCore_fwVersion (s : State) (c : Nat) (x : CoreState) : (s.setCore c x).fwVersion = s.fwVersion := rfl
@[simp] theorem State.setCore_training (s : State) (c : Nat) (x : CoreState) : (s.setCore c x).training = s.training := rfl
@[simp] theorem State.setCore_checking (s : State) (c : Nat) (x : CoreState) : (s.setCore c x).checking = s.checking := rfl
@[simp] theorem State.setCore_overTemp (s : State) (c : Nat) (x : CoreState) : (s.setCore c x).overTemp = s.overTemp := rfl
@[simp] theorem State.setCore_overPower (s : State) (c : Nat) (x : CoreState) : (s.setCore c x).overPower = s.overPower := rfl
@[simp] theorem State.setCore_shut (s : State) (c : Nat) (x : CoreState) : (s.setCore c x).shut = s.shut := rfl
@[simp] theorem State.setCore_iso (s : State) (c : Nat) (x : CoreState) : (s.setCore c x).iso = s.iso := rfl
@[simp] theorem State.setCore_rec_ (s : State) (c : Nat) (x : CoreState) : (s.setCore c x).rec_ = s.rec_ := rfl
@[simp] theorem State.setCore_inst (s : State) (c : Nat) (x : CoreState) : (s.setCore c x).inst = s.inst := rfl
@[simp] theorem State.setCore_mail (s : State) (c : Nat) (x : CoreState) : (s.setCore c x).mail = s.mail := rfl
@[simp] theorem State.setCore_isoReg (s : State) (c : Nat) (x : CoreState) : (s.setCore c x).isoReg = s.isoReg := rfl
@[simp] theorem State.setCore_recReg (s : State) (c : Nat) (x : CoreState) : (s.setCore c x).recReg = s.recReg := rfl
@[simp] theorem State.setCore_instReg (s : State) (c : Nat) (x : CoreState) : (s.setCore c x).instReg = s.instReg := rfl
@[simp] theorem State.setCore_mailReg (s : State) (c : Nat) (x : CoreState) : (s.setCore c x).mailReg = s.mailReg := rfl
@[simp] theorem State.setCore_allow (s : State) (c : Nat) (x : CoreState) : (s.setCore c x).allow = s.allow := rfl
@[simp] theorem State.setCore_intMap (s : State) (c : Nat) (x : CoreState) : (s.setCore c x).intMap = s.intMap := rfl
@[simp] theorem State.setCore_ranks (s : State) (c : Nat) (x : CoreState) : (s.setCore c x).ranks = s.ranks := rfl
@[simp] theorem State.setCore_sensors (s : State) (c : Nat) (x : CoreState) : (s.setCore c x).sensors = s.sensors := rfl
@[simp] theorem State.setCore_transport (s : State) (c : Nat) (x : CoreState) : (s.setCore c x).transport = s.transport := rfl
@[simp] theorem State.setCore_msi (s : State) (c : Nat) (x : CoreState) : (s.setCore c x).msi = s.msi := rfl
@[simp] theorem State.setCore_ctxs (s : State) (c : Nat) (x : CoreState) : (s.setCore c x).ctxs = s.ctxs := rfl
@[simp] theorem State.setCore_queues (s : State) (c : Nat) (x : CoreState) : (s.setCore c x).queues = s.queues := rfl
@[simp] theorem State.setCore_frames (s : State) (c : Nat) (x : CoreState) : (s.setCore c x).frames = s.frames := rfl
@[simp] theorem State.setCore_keys (s : State) (c : Nat) (x : CoreState) : (s.setCore c x).keys = s.keys := rfl
@[simp] theorem State.setCore_certified (s : State) (c : Nat) (x : CoreState) : (s.setCore c x).certified = s.certified := rfl
@[simp] theorem State.setCore_tlb (s : State) (c : Nat) (x : CoreState) : (s.setCore c x).tlb = s.tlb := rfl
@[simp] theorem State.setCore_lines (s : State) (c : Nat) (x : CoreState) : (s.setCore c x).lines = s.lines := rfl
@[simp] theorem State.setCore_ats (s : State) (c : Nat) (x : CoreState) : (s.setCore c x).ats = s.ats := rfl
@[simp] theorem State.setCore_unreachable (s : State) (c : Nat) (x : CoreState) : (s.setCore c x).unreachable = s.unreachable := rfl
@[simp] theorem State.setCore_mem (s : State) (c : Nat) (x : CoreState) : (s.setCore c x).mem = s.mem := rfl
@[simp] theorem State.setCore_poison (s : State) (c : Nat) (x : CoreState) : (s.setCore c x).poison = s.poison := rfl
@[simp] theorem State.setCore_mesh (s : State) (c : Nat) (x : CoreState) : (s.setCore c x).mesh = s.mesh := rfl
@[simp] theorem State.setCore_unacked (s : State) (c : Nat) (x : CoreState) : (s.setCore c x).unacked = s.unacked := rfl
@[simp] theorem State.setCore_dies (s : State) (c : Nat) (x : CoreState) : (s.setCore c x).dies = s.dies := rfl
@[simp] theorem State.setCore_ordered (s : State) (c : Nat) (x : CoreState) : (s.setCore c x).ordered = s.ordered := rfl
@[simp] theorem State.setCore_barWaiters (s : State) (c : Nat) (x : CoreState) : (s.setCore c x).barWaiters = s.barWaiters := rfl
@[simp] theorem State.setCore_cellWaiters (s : State) (c : Nat) (x : CoreState) : (s.setCore c x).cellWaiters = s.cellWaiters := rfl
@[simp] theorem State.setCore_links (s : State) (c : Nat) (x : CoreState) : (s.setCore c x).links = s.links := rfl
@[simp] theorem State.setCore_forwards (s : State) (c : Nat) (x : CoreState) : (s.setCore c x).forwards = s.forwards := rfl
@[simp] theorem State.setCore_msgs (s : State) (c : Nat) (x : CoreState) : (s.setCore c x).msgs = s.msgs := rfl
@[simp] theorem State.setCore_cores (s : State) (c : Nat) (x : CoreState) : (s.setCore c x).cores = s.cores.set (min c 143) x (by omega) := rfl
@[simp] theorem State.setCore_teams (s : State) (c : Nat) (x : CoreState) : (s.setCore c x).teams = s.teams := rfl
@[simp] theorem State.setCore_groups (s : State) (c : Nat) (x : CoreState) : (s.setCore c x).groups = s.groups := rfl
@[simp] theorem State.setCore_threads (s : State) (c : Nat) (x : CoreState) : (s.setCore c x).threads = s.threads := rfl
@[simp] theorem State.setCore_packets (s : State) (c : Nat) (x : CoreState) : (s.setCore c x).packets = s.packets := rfl
@[simp] theorem State.setCore_gvt (s : State) (c : Nat) (x : CoreState) : (s.setCore c x).gvt = s.gvt := rfl
@[simp] theorem State.setCore_records (s : State) (c : Nat) (x : CoreState) : (s.setCore c x).records = s.records := rfl
@[simp] theorem State.setCore_agenda (s : State) (c : Nat) (x : CoreState) : (s.setCore c x).agenda = s.agenda := rfl
@[simp] theorem State.setCore_issue (s : State) (c : Nat) (x : CoreState) : (s.setCore c x).issue = s.issue := rfl
@[simp] theorem State.setCore_cur (s : State) (c : Nat) (x : CoreState) : (s.setCore c x).cur = s.cur := rfl
@[simp] theorem State.setCore_free (s : State) (c : Nat) (x : CoreState) : (s.setCore c x).free = s.free := rfl
@[simp] theorem State.setCore_serial (s : State) (c : Nat) (x : CoreState) : (s.setCore c x).serial = s.serial := rfl
@[simp] theorem State.setCore_choices (s : State) (c : Nat) (x : CoreState) : (s.setCore c x).choices = s.choices := rfl

/-! `State.write` and `State.zero`. -/
@[simp] theorem State.write_chron (s : State) (a : Nat) (bs : List Byte) (p : Bool) : (s.write a bs p).chron = s.chron := rfl
@[simp] theorem State.write_cycle (s : State) (a : Nat) (bs : List Byte) (p : Bool) : (s.write a bs p).cycle = s.cycle := rfl
@[simp] theorem State.write_beat (s : State) (a : Nat) (bs : List Byte) (p : Bool) : (s.write a bs p).beat = s.beat := rfl
@[simp] theorem State.write_nextBeat (s : State) (a : Nat) (bs : List Byte) (p : Bool) : (s.write a bs p).nextBeat = s.nextBeat := rfl
@[simp] theorem State.write_period (s : State) (a : Nat) (bs : List Byte) (p : Bool) : (s.write a bs p).period = s.period := rfl
@[simp] theorem State.write_step (s : State) (a : Nat) (bs : List Byte) (p : Bool) : (s.write a bs p).step = s.step := rfl
@[simp] theorem State.write_stage (s : State) (a : Nat) (bs : List Byte) (p : Bool) : (s.write a bs p).stage = s.stage := rfl
@[simp] theorem State.write_fwFail (s : State) (a : Nat) (bs : List Byte) (p : Bool) : (s.write a bs p).fwFail = s.fwFail := rfl
@[simp] theorem State.write_module (s : State) (a : Nat) (bs : List Byte) (p : Bool) : (s.write a bs p).module = s.module := rfl
@[simp] theorem State.write_coreOff (s : State) (a : Nat) (bs : List Byte) (p : Bool) : (s.write a bs p).coreOff = s.coreOff := rfl
@[simp] theorem State.write_fwVersion (s : State) (a : Nat) (bs : List Byte) (p : Bool) : (s.write a bs p).fwVersion = s.fwVersion := rfl
@[simp] theorem State.write_training (s : State) (a : Nat) (bs : List Byte) (p : Bool) : (s.write a bs p).training = s.training := rfl
@[simp] theorem State.write_checking (s : State) (a : Nat) (bs : List Byte) (p : Bool) : (s.write a bs p).checking = s.checking := rfl
@[simp] theorem State.write_overTemp (s : State) (a : Nat) (bs : List Byte) (p : Bool) : (s.write a bs p).overTemp = s.overTemp := rfl
@[simp] theorem State.write_overPower (s : State) (a : Nat) (bs : List Byte) (p : Bool) : (s.write a bs p).overPower = s.overPower := rfl
@[simp] theorem State.write_shut (s : State) (a : Nat) (bs : List Byte) (p : Bool) : (s.write a bs p).shut = s.shut := rfl
@[simp] theorem State.write_iso (s : State) (a : Nat) (bs : List Byte) (p : Bool) : (s.write a bs p).iso = s.iso := rfl
@[simp] theorem State.write_rec_ (s : State) (a : Nat) (bs : List Byte) (p : Bool) : (s.write a bs p).rec_ = s.rec_ := rfl
@[simp] theorem State.write_inst (s : State) (a : Nat) (bs : List Byte) (p : Bool) : (s.write a bs p).inst = s.inst := rfl
@[simp] theorem State.write_mail (s : State) (a : Nat) (bs : List Byte) (p : Bool) : (s.write a bs p).mail = s.mail := rfl
@[simp] theorem State.write_isoReg (s : State) (a : Nat) (bs : List Byte) (p : Bool) : (s.write a bs p).isoReg = s.isoReg := rfl
@[simp] theorem State.write_recReg (s : State) (a : Nat) (bs : List Byte) (p : Bool) : (s.write a bs p).recReg = s.recReg := rfl
@[simp] theorem State.write_instReg (s : State) (a : Nat) (bs : List Byte) (p : Bool) : (s.write a bs p).instReg = s.instReg := rfl
@[simp] theorem State.write_mailReg (s : State) (a : Nat) (bs : List Byte) (p : Bool) : (s.write a bs p).mailReg = s.mailReg := rfl
@[simp] theorem State.write_allow (s : State) (a : Nat) (bs : List Byte) (p : Bool) : (s.write a bs p).allow = s.allow := rfl
@[simp] theorem State.write_intMap (s : State) (a : Nat) (bs : List Byte) (p : Bool) : (s.write a bs p).intMap = s.intMap := rfl
@[simp] theorem State.write_ranks (s : State) (a : Nat) (bs : List Byte) (p : Bool) : (s.write a bs p).ranks = s.ranks := rfl
@[simp] theorem State.write_sensors (s : State) (a : Nat) (bs : List Byte) (p : Bool) : (s.write a bs p).sensors = s.sensors := rfl
@[simp] theorem State.write_transport (s : State) (a : Nat) (bs : List Byte) (p : Bool) : (s.write a bs p).transport = s.transport := rfl
@[simp] theorem State.write_msi (s : State) (a : Nat) (bs : List Byte) (p : Bool) : (s.write a bs p).msi = s.msi := rfl
@[simp] theorem State.write_ctxs (s : State) (a : Nat) (bs : List Byte) (p : Bool) : (s.write a bs p).ctxs = s.ctxs := rfl
@[simp] theorem State.write_queues (s : State) (a : Nat) (bs : List Byte) (p : Bool) : (s.write a bs p).queues = s.queues := rfl
@[simp] theorem State.write_frames (s : State) (a : Nat) (bs : List Byte) (p : Bool) : (s.write a bs p).frames = s.frames := rfl
@[simp] theorem State.write_keys (s : State) (a : Nat) (bs : List Byte) (p : Bool) : (s.write a bs p).keys = s.keys := rfl
@[simp] theorem State.write_tlb (s : State) (a : Nat) (bs : List Byte) (p : Bool) : (s.write a bs p).tlb = s.tlb := rfl
@[simp] theorem State.write_lines (s : State) (a : Nat) (bs : List Byte) (p : Bool) : (s.write a bs p).lines = s.lines := rfl
@[simp] theorem State.write_ats (s : State) (a : Nat) (bs : List Byte) (p : Bool) : (s.write a bs p).ats = s.ats := rfl
@[simp] theorem State.write_unreachable (s : State) (a : Nat) (bs : List Byte) (p : Bool) : (s.write a bs p).unreachable = s.unreachable := rfl
@[simp] theorem State.write_mem (s : State) (a : Nat) (bs : List Byte) (p : Bool) : (s.write a bs p).mem = memWrite s.mem a bs := rfl
@[simp] theorem State.write_poison (s : State) (a : Nat) (bs : List Byte) (p : Bool) : (s.write a bs p).poison = markWrite s.poison a bs.length p := rfl
@[simp] theorem State.write_mesh (s : State) (a : Nat) (bs : List Byte) (p : Bool) : (s.write a bs p).mesh = s.mesh := rfl
@[simp] theorem State.write_unacked (s : State) (a : Nat) (bs : List Byte) (p : Bool) : (s.write a bs p).unacked = s.unacked := rfl
@[simp] theorem State.write_dies (s : State) (a : Nat) (bs : List Byte) (p : Bool) : (s.write a bs p).dies = s.dies := rfl
@[simp] theorem State.write_ordered (s : State) (a : Nat) (bs : List Byte) (p : Bool) : (s.write a bs p).ordered = s.ordered := rfl
@[simp] theorem State.write_barWaiters (s : State) (a : Nat) (bs : List Byte) (p : Bool) : (s.write a bs p).barWaiters = s.barWaiters := rfl
@[simp] theorem State.write_cellWaiters (s : State) (a : Nat) (bs : List Byte) (p : Bool) : (s.write a bs p).cellWaiters = s.cellWaiters := rfl
@[simp] theorem State.write_links (s : State) (a : Nat) (bs : List Byte) (p : Bool) : (s.write a bs p).links = s.links := rfl
@[simp] theorem State.write_forwards (s : State) (a : Nat) (bs : List Byte) (p : Bool) : (s.write a bs p).forwards = s.forwards := rfl
@[simp] theorem State.write_msgs (s : State) (a : Nat) (bs : List Byte) (p : Bool) : (s.write a bs p).msgs = s.msgs := rfl
@[simp] theorem State.write_cores (s : State) (a : Nat) (bs : List Byte) (p : Bool) : (s.write a bs p).cores = s.cores := rfl
@[simp] theorem State.write_teams (s : State) (a : Nat) (bs : List Byte) (p : Bool) : (s.write a bs p).teams = s.teams := rfl
@[simp] theorem State.write_groups (s : State) (a : Nat) (bs : List Byte) (p : Bool) : (s.write a bs p).groups = s.groups := rfl
@[simp] theorem State.write_threads (s : State) (a : Nat) (bs : List Byte) (p : Bool) : (s.write a bs p).threads = s.threads := rfl
@[simp] theorem State.write_packets (s : State) (a : Nat) (bs : List Byte) (p : Bool) : (s.write a bs p).packets = s.packets := rfl
@[simp] theorem State.write_gvt (s : State) (a : Nat) (bs : List Byte) (p : Bool) : (s.write a bs p).gvt = s.gvt := rfl
@[simp] theorem State.write_records (s : State) (a : Nat) (bs : List Byte) (p : Bool) : (s.write a bs p).records = s.records := rfl
@[simp] theorem State.write_agenda (s : State) (a : Nat) (bs : List Byte) (p : Bool) : (s.write a bs p).agenda = s.agenda := rfl
@[simp] theorem State.write_issue (s : State) (a : Nat) (bs : List Byte) (p : Bool) : (s.write a bs p).issue = s.issue := rfl
@[simp] theorem State.write_cur (s : State) (a : Nat) (bs : List Byte) (p : Bool) : (s.write a bs p).cur = s.cur := rfl
@[simp] theorem State.write_free (s : State) (a : Nat) (bs : List Byte) (p : Bool) : (s.write a bs p).free = s.free := rfl
@[simp] theorem State.write_serial (s : State) (a : Nat) (bs : List Byte) (p : Bool) : (s.write a bs p).serial = s.serial := rfl
@[simp] theorem State.write_choices (s : State) (a : Nat) (bs : List Byte) (p : Bool) : (s.write a bs p).choices = s.choices := rfl
@[simp] theorem State.zero_chron (s : State) (a n : Nat) : (s.zero a n).chron = s.chron := rfl
@[simp] theorem State.zero_cycle (s : State) (a n : Nat) : (s.zero a n).cycle = s.cycle := rfl
@[simp] theorem State.zero_beat (s : State) (a n : Nat) : (s.zero a n).beat = s.beat := rfl
@[simp] theorem State.zero_nextBeat (s : State) (a n : Nat) : (s.zero a n).nextBeat = s.nextBeat := rfl
@[simp] theorem State.zero_period (s : State) (a n : Nat) : (s.zero a n).period = s.period := rfl
@[simp] theorem State.zero_step (s : State) (a n : Nat) : (s.zero a n).step = s.step := rfl
@[simp] theorem State.zero_stage (s : State) (a n : Nat) : (s.zero a n).stage = s.stage := rfl
@[simp] theorem State.zero_fwFail (s : State) (a n : Nat) : (s.zero a n).fwFail = s.fwFail := rfl
@[simp] theorem State.zero_module (s : State) (a n : Nat) : (s.zero a n).module = s.module := rfl
@[simp] theorem State.zero_coreOff (s : State) (a n : Nat) : (s.zero a n).coreOff = s.coreOff := rfl
@[simp] theorem State.zero_fwVersion (s : State) (a n : Nat) : (s.zero a n).fwVersion = s.fwVersion := rfl
@[simp] theorem State.zero_training (s : State) (a n : Nat) : (s.zero a n).training = s.training := rfl
@[simp] theorem State.zero_checking (s : State) (a n : Nat) : (s.zero a n).checking = s.checking := rfl
@[simp] theorem State.zero_overTemp (s : State) (a n : Nat) : (s.zero a n).overTemp = s.overTemp := rfl
@[simp] theorem State.zero_overPower (s : State) (a n : Nat) : (s.zero a n).overPower = s.overPower := rfl
@[simp] theorem State.zero_shut (s : State) (a n : Nat) : (s.zero a n).shut = s.shut := rfl
@[simp] theorem State.zero_iso (s : State) (a n : Nat) : (s.zero a n).iso = s.iso := rfl
@[simp] theorem State.zero_rec_ (s : State) (a n : Nat) : (s.zero a n).rec_ = s.rec_ := rfl
@[simp] theorem State.zero_inst (s : State) (a n : Nat) : (s.zero a n).inst = s.inst := rfl
@[simp] theorem State.zero_mail (s : State) (a n : Nat) : (s.zero a n).mail = s.mail := rfl
@[simp] theorem State.zero_isoReg (s : State) (a n : Nat) : (s.zero a n).isoReg = s.isoReg := rfl
@[simp] theorem State.zero_recReg (s : State) (a n : Nat) : (s.zero a n).recReg = s.recReg := rfl
@[simp] theorem State.zero_instReg (s : State) (a n : Nat) : (s.zero a n).instReg = s.instReg := rfl
@[simp] theorem State.zero_mailReg (s : State) (a n : Nat) : (s.zero a n).mailReg = s.mailReg := rfl
@[simp] theorem State.zero_allow (s : State) (a n : Nat) : (s.zero a n).allow = s.allow := rfl
@[simp] theorem State.zero_intMap (s : State) (a n : Nat) : (s.zero a n).intMap = s.intMap := rfl
@[simp] theorem State.zero_ranks (s : State) (a n : Nat) : (s.zero a n).ranks = s.ranks := rfl
@[simp] theorem State.zero_sensors (s : State) (a n : Nat) : (s.zero a n).sensors = s.sensors := rfl
@[simp] theorem State.zero_transport (s : State) (a n : Nat) : (s.zero a n).transport = s.transport := rfl
@[simp] theorem State.zero_msi (s : State) (a n : Nat) : (s.zero a n).msi = s.msi := rfl
@[simp] theorem State.zero_ctxs (s : State) (a n : Nat) : (s.zero a n).ctxs = s.ctxs := rfl
@[simp] theorem State.zero_queues (s : State) (a n : Nat) : (s.zero a n).queues = s.queues := rfl
@[simp] theorem State.zero_frames (s : State) (a n : Nat) : (s.zero a n).frames = s.frames := rfl
@[simp] theorem State.zero_keys (s : State) (a n : Nat) : (s.zero a n).keys = s.keys := rfl
@[simp] theorem State.zero_tlb (s : State) (a n : Nat) : (s.zero a n).tlb = s.tlb := rfl
@[simp] theorem State.zero_lines (s : State) (a n : Nat) : (s.zero a n).lines = s.lines := rfl
@[simp] theorem State.zero_ats (s : State) (a n : Nat) : (s.zero a n).ats = s.ats := rfl
@[simp] theorem State.zero_unreachable (s : State) (a n : Nat) : (s.zero a n).unreachable = s.unreachable := rfl
@[simp] theorem State.zero_mem (s : State) (a n : Nat) : (s.zero a n).mem = memZero s.mem a n := rfl
@[simp] theorem State.zero_poison (s : State) (a n : Nat) : (s.zero a n).poison = markWrite s.poison a n false := rfl
@[simp] theorem State.zero_mesh (s : State) (a n : Nat) : (s.zero a n).mesh = s.mesh := rfl
@[simp] theorem State.zero_unacked (s : State) (a n : Nat) : (s.zero a n).unacked = s.unacked := rfl
@[simp] theorem State.zero_dies (s : State) (a n : Nat) : (s.zero a n).dies = s.dies := rfl
@[simp] theorem State.zero_ordered (s : State) (a n : Nat) : (s.zero a n).ordered = s.ordered := rfl
@[simp] theorem State.zero_barWaiters (s : State) (a n : Nat) : (s.zero a n).barWaiters = s.barWaiters := rfl
@[simp] theorem State.zero_cellWaiters (s : State) (a n : Nat) : (s.zero a n).cellWaiters = s.cellWaiters := rfl
@[simp] theorem State.zero_links (s : State) (a n : Nat) : (s.zero a n).links = s.links := rfl
@[simp] theorem State.zero_forwards (s : State) (a n : Nat) : (s.zero a n).forwards = s.forwards := rfl
@[simp] theorem State.zero_msgs (s : State) (a n : Nat) : (s.zero a n).msgs = s.msgs := rfl
@[simp] theorem State.zero_cores (s : State) (a n : Nat) : (s.zero a n).cores = s.cores := rfl
@[simp] theorem State.zero_teams (s : State) (a n : Nat) : (s.zero a n).teams = s.teams := rfl
@[simp] theorem State.zero_groups (s : State) (a n : Nat) : (s.zero a n).groups = s.groups := rfl
@[simp] theorem State.zero_threads (s : State) (a n : Nat) : (s.zero a n).threads = s.threads := rfl
@[simp] theorem State.zero_packets (s : State) (a n : Nat) : (s.zero a n).packets = s.packets := rfl
@[simp] theorem State.zero_gvt (s : State) (a n : Nat) : (s.zero a n).gvt = s.gvt := rfl
@[simp] theorem State.zero_records (s : State) (a n : Nat) : (s.zero a n).records = s.records := rfl
@[simp] theorem State.zero_agenda (s : State) (a n : Nat) : (s.zero a n).agenda = s.agenda := rfl
@[simp] theorem State.zero_issue (s : State) (a n : Nat) : (s.zero a n).issue = s.issue := rfl
@[simp] theorem State.zero_cur (s : State) (a n : Nat) : (s.zero a n).cur = s.cur := rfl
@[simp] theorem State.zero_free (s : State) (a n : Nat) : (s.zero a n).free = s.free := rfl
@[simp] theorem State.zero_serial (s : State) (a n : Nat) : (s.zero a n).serial = s.serial := rfl
@[simp] theorem State.zero_choices (s : State) (a n : Nat) : (s.zero a n).choices = s.choices := rfl

/-! Threads. -/
@[simp] theorem Thread.setV_team (t : Thread) (n : VReg) (x : Word) : (t.setV n x).team = t.team := rfl
@[simp] theorem Thread.setV_tid (t : Thread) (n : VReg) (x : Word) : (t.setV n x).tid = t.tid := rfl
@[simp] theorem Thread.setV_gang (t : Thread) (n : VReg) (x : Word) : (t.setV n x).gang = t.gang := rfl
@[simp] theorem Thread.setV_home (t : Thread) (n : VReg) (x : Word) : (t.setV n x).home = t.home := rfl
@[simp] theorem Thread.setV_group (t : Thread) (n : VReg) (x : Word) : (t.setV n x).group = t.group := rfl
@[simp] theorem Thread.setV_allot (t : Thread) (n : VReg) (x : Word) : (t.setV n x).allot = t.allot := rfl
@[simp] theorem Thread.setV_v (t : Thread) (n : VReg) (x : Word) : (t.setV n x).v = t.v.set n.toNat x n.isLt := rfl
@[simp] theorem Thread.setV_vp (t : Thread) (n : VReg) (x : Word) : (t.setV n x).vp = t.vp.set n.toNat false n.isLt := rfl
@[simp] theorem Thread.setV_q (t : Thread) (n : VReg) (x : Word) : (t.setV n x).q = t.q := rfl
@[simp] theorem Thread.setV_sp (t : Thread) (n : VReg) (x : Word) : (t.setV n x).sp = t.sp := rfl
@[simp] theorem Thread.setV_ln (t : Thread) (n : VReg) (x : Word) : (t.setV n x).ln = t.ln := rfl
@[simp] theorem Thread.setV_stklim (t : Thread) (n : VReg) (x : Word) : (t.setV n x).stklim = t.stklim := rfl
@[simp] theorem Thread.setV_tok (t : Thread) (n : VReg) (x : Word) : (t.setV n x).tok = t.tok := rfl
@[simp] theorem Thread.setV_fpflags (t : Thread) (n : VReg) (x : Word) : (t.setV n x).fpflags = t.fpflags := rfl
@[simp] theorem Thread.setV_region (t : Thread) (n : VReg) (x : Word) : (t.setV n x).region = t.region := rfl
@[simp] theorem Thread.setV_tag (t : Thread) (n : VReg) (x : Word) : (t.setV n x).tag = t.tag := rfl
@[simp] theorem Thread.setV_replays (t : Thread) (n : VReg) (x : Word) : (t.setV n x).replays = t.replays := rfl
@[simp] theorem Thread.setV_pnone (t : Thread) (n : VReg) (x : Word) : (t.setV n x).pnone = t.pnone := rfl
@[simp] theorem Thread.setV_pskip (t : Thread) (n : VReg) (x : Word) : (t.setV n x).pskip = t.pskip := rfl
@[simp] theorem Thread.setV_pdefer (t : Thread) (n : VReg) (x : Word) : (t.setV n x).pdefer = t.pdefer := rfl
@[simp] theorem Thread.setV_spilled (t : Thread) (n : VReg) (x : Word) : (t.setV n x).spilled = t.spilled := rfl
@[simp] theorem Thread.setV_chip (t : Thread) (n : VReg) (x : Word) : (t.setV n x).chip = t.chip := rfl
@[simp] theorem Thread.setV_recv (t : Thread) (n : VReg) (x : Word) : (t.setV n x).recv = t.recv := rfl
@[simp] theorem Thread.setV_pc (t : Thread) (n : VReg) (x : Word) : (t.setV n x).pc = t.pc := rfl
@[simp] theorem Thread.setV_npc (t : Thread) (n : VReg) (x : Word) : (t.setV n x).npc = t.npc := rfl
@[simp] theorem Thread.setV_ctr (t : Thread) (n : VReg) (x : Word) : (t.setV n x).ctr = t.ctr := rfl
@[simp] theorem Thread.setV_key (t : Thread) (n : VReg) (x : Word) : (t.setV n x).key = t.key := rfl
@[simp] theorem Thread.setV_status (t : Thread) (n : VReg) (x : Word) : (t.setV n x).status = t.status := rfl
@[simp] theorem Thread.setV_replay (t : Thread) (n : VReg) (x : Word) : (t.setV n x).replay = t.replay := rfl
@[simp] theorem Thread.setV_issued (t : Thread) (n : VReg) (x : Word) : (t.setV n x).issued = t.issued := rfl
@[simp] theorem Thread.setV_board (t : Thread) (n : VReg) (x : Word) : (t.setV n x).board = t.board := rfl
@[simp] theorem Thread.setV_emu (t : Thread) (n : VReg) (x : Word) : (t.setV n x).emu = t.emu := rfl
@[simp] theorem Thread.setV_ending (t : Thread) (n : VReg) (x : Word) : (t.setV n x).ending = t.ending := rfl
@[simp] theorem Thread.setV_lent (t : Thread) (n : VReg) (x : Word) : (t.setV n x).lent = t.lent := rfl
@[simp] theorem Thread.setV_lentFrames (t : Thread) (n : VReg) (x : Word) : (t.setV n x).lentFrames = t.lentFrames := rfl
@[simp] theorem Thread.setV_block (t : Thread) (n : VReg) (x : Word) : (t.setV n x).block = t.block := rfl
@[simp] theorem Thread.setV_dv (t : Thread) (n : VReg) (x : Word) : (t.setV n x).dv = t.dv := rfl
@[simp] theorem Thread.setV_pri (t : Thread) (n : VReg) (x : Word) : (t.setV n x).pri = t.pri := rfl
@[simp] theorem Thread.setV_trail (t : Thread) (n : VReg) (x : Word) : (t.setV n x).trail = t.trail := rfl
@[simp] theorem Thread.setV_pos (t : Thread) (n : VReg) (x : Word) : (t.setV n x).pos = t.pos := rfl
@[simp] theorem Thread.setV_zero (t : Thread) (n : VReg) (x : Word) : (t.setV n x).zero = t.zero := rfl
@[simp] theorem Thread.setV_piece (t : Thread) (n : VReg) (x : Word) : (t.setV n x).piece = t.piece := rfl
@[simp] theorem Thread.setV64_team (t : Thread) (n : VReg) (x : DWord) : (t.setV64 n x).team = t.team := rfl
@[simp] theorem Thread.setV64_tid (t : Thread) (n : VReg) (x : DWord) : (t.setV64 n x).tid = t.tid := rfl
@[simp] theorem Thread.setV64_gang (t : Thread) (n : VReg) (x : DWord) : (t.setV64 n x).gang = t.gang := rfl
@[simp] theorem Thread.setV64_home (t : Thread) (n : VReg) (x : DWord) : (t.setV64 n x).home = t.home := rfl
@[simp] theorem Thread.setV64_group (t : Thread) (n : VReg) (x : DWord) : (t.setV64 n x).group = t.group := rfl
@[simp] theorem Thread.setV64_allot (t : Thread) (n : VReg) (x : DWord) : (t.setV64 n x).allot = t.allot := rfl
@[simp] theorem Thread.setV64_q (t : Thread) (n : VReg) (x : DWord) : (t.setV64 n x).q = t.q := rfl
@[simp] theorem Thread.setV64_sp (t : Thread) (n : VReg) (x : DWord) : (t.setV64 n x).sp = t.sp := rfl
@[simp] theorem Thread.setV64_ln (t : Thread) (n : VReg) (x : DWord) : (t.setV64 n x).ln = t.ln := rfl
@[simp] theorem Thread.setV64_stklim (t : Thread) (n : VReg) (x : DWord) : (t.setV64 n x).stklim = t.stklim := rfl
@[simp] theorem Thread.setV64_tok (t : Thread) (n : VReg) (x : DWord) : (t.setV64 n x).tok = t.tok := rfl
@[simp] theorem Thread.setV64_fpflags (t : Thread) (n : VReg) (x : DWord) : (t.setV64 n x).fpflags = t.fpflags := rfl
@[simp] theorem Thread.setV64_region (t : Thread) (n : VReg) (x : DWord) : (t.setV64 n x).region = t.region := rfl
@[simp] theorem Thread.setV64_tag (t : Thread) (n : VReg) (x : DWord) : (t.setV64 n x).tag = t.tag := rfl
@[simp] theorem Thread.setV64_replays (t : Thread) (n : VReg) (x : DWord) : (t.setV64 n x).replays = t.replays := rfl
@[simp] theorem Thread.setV64_pnone (t : Thread) (n : VReg) (x : DWord) : (t.setV64 n x).pnone = t.pnone := rfl
@[simp] theorem Thread.setV64_pskip (t : Thread) (n : VReg) (x : DWord) : (t.setV64 n x).pskip = t.pskip := rfl
@[simp] theorem Thread.setV64_pdefer (t : Thread) (n : VReg) (x : DWord) : (t.setV64 n x).pdefer = t.pdefer := rfl
@[simp] theorem Thread.setV64_spilled (t : Thread) (n : VReg) (x : DWord) : (t.setV64 n x).spilled = t.spilled := rfl
@[simp] theorem Thread.setV64_chip (t : Thread) (n : VReg) (x : DWord) : (t.setV64 n x).chip = t.chip := rfl
@[simp] theorem Thread.setV64_recv (t : Thread) (n : VReg) (x : DWord) : (t.setV64 n x).recv = t.recv := rfl
@[simp] theorem Thread.setV64_pc (t : Thread) (n : VReg) (x : DWord) : (t.setV64 n x).pc = t.pc := rfl
@[simp] theorem Thread.setV64_npc (t : Thread) (n : VReg) (x : DWord) : (t.setV64 n x).npc = t.npc := rfl
@[simp] theorem Thread.setV64_ctr (t : Thread) (n : VReg) (x : DWord) : (t.setV64 n x).ctr = t.ctr := rfl
@[simp] theorem Thread.setV64_key (t : Thread) (n : VReg) (x : DWord) : (t.setV64 n x).key = t.key := rfl
@[simp] theorem Thread.setV64_status (t : Thread) (n : VReg) (x : DWord) : (t.setV64 n x).status = t.status := rfl
@[simp] theorem Thread.setV64_replay (t : Thread) (n : VReg) (x : DWord) : (t.setV64 n x).replay = t.replay := rfl
@[simp] theorem Thread.setV64_issued (t : Thread) (n : VReg) (x : DWord) : (t.setV64 n x).issued = t.issued := rfl
@[simp] theorem Thread.setV64_board (t : Thread) (n : VReg) (x : DWord) : (t.setV64 n x).board = t.board := rfl
@[simp] theorem Thread.setV64_emu (t : Thread) (n : VReg) (x : DWord) : (t.setV64 n x).emu = t.emu := rfl
@[simp] theorem Thread.setV64_ending (t : Thread) (n : VReg) (x : DWord) : (t.setV64 n x).ending = t.ending := rfl
@[simp] theorem Thread.setV64_lent (t : Thread) (n : VReg) (x : DWord) : (t.setV64 n x).lent = t.lent := rfl
@[simp] theorem Thread.setV64_lentFrames (t : Thread) (n : VReg) (x : DWord) : (t.setV64 n x).lentFrames = t.lentFrames := rfl
@[simp] theorem Thread.setV64_block (t : Thread) (n : VReg) (x : DWord) : (t.setV64 n x).block = t.block := rfl
@[simp] theorem Thread.setV64_dv (t : Thread) (n : VReg) (x : DWord) : (t.setV64 n x).dv = t.dv := rfl
@[simp] theorem Thread.setV64_pri (t : Thread) (n : VReg) (x : DWord) : (t.setV64 n x).pri = t.pri := rfl
@[simp] theorem Thread.setV64_trail (t : Thread) (n : VReg) (x : DWord) : (t.setV64 n x).trail = t.trail := rfl
@[simp] theorem Thread.setV64_pos (t : Thread) (n : VReg) (x : DWord) : (t.setV64 n x).pos = t.pos := rfl
@[simp] theorem Thread.setV64_zero (t : Thread) (n : VReg) (x : DWord) : (t.setV64 n x).zero = t.zero := rfl
@[simp] theorem Thread.setV64_piece (t : Thread) (n : VReg) (x : DWord) : (t.setV64 n x).piece = t.piece := rfl
@[simp] theorem Thread.setPred_team (t : Thread) (q : PReg) (b : Bool) : (t.setPred q b).team = t.team := by
  unfold Thread.setPred; split <;> rfl
@[simp] theorem Thread.setPred_tid (t : Thread) (q : PReg) (b : Bool) : (t.setPred q b).tid = t.tid := by
  unfold Thread.setPred; split <;> rfl
@[simp] theorem Thread.setPred_gang (t : Thread) (q : PReg) (b : Bool) : (t.setPred q b).gang = t.gang := by
  unfold Thread.setPred; split <;> rfl
@[simp] theorem Thread.setPred_home (t : Thread) (q : PReg) (b : Bool) : (t.setPred q b).home = t.home := by
  unfold Thread.setPred; split <;> rfl
@[simp] theorem Thread.setPred_group (t : Thread) (q : PReg) (b : Bool) : (t.setPred q b).group = t.group := by
  unfold Thread.setPred; split <;> rfl
@[simp] theorem Thread.setPred_allot (t : Thread) (q : PReg) (b : Bool) : (t.setPred q b).allot = t.allot := by
  unfold Thread.setPred; split <;> rfl
@[simp] theorem Thread.setPred_v (t : Thread) (q : PReg) (b : Bool) : (t.setPred q b).v = t.v := by
  unfold Thread.setPred; split <;> rfl
@[simp] theorem Thread.setPred_vp (t : Thread) (q : PReg) (b : Bool) : (t.setPred q b).vp = t.vp := by
  unfold Thread.setPred; split <;> rfl
@[simp] theorem Thread.setPred_sp (t : Thread) (q : PReg) (b : Bool) : (t.setPred q b).sp = t.sp := by
  unfold Thread.setPred; split <;> rfl
@[simp] theorem Thread.setPred_ln (t : Thread) (q : PReg) (b : Bool) : (t.setPred q b).ln = t.ln := by
  unfold Thread.setPred; split <;> rfl
@[simp] theorem Thread.setPred_stklim (t : Thread) (q : PReg) (b : Bool) : (t.setPred q b).stklim = t.stklim := by
  unfold Thread.setPred; split <;> rfl
@[simp] theorem Thread.setPred_tok (t : Thread) (q : PReg) (b : Bool) : (t.setPred q b).tok = t.tok := by
  unfold Thread.setPred; split <;> rfl
@[simp] theorem Thread.setPred_fpflags (t : Thread) (q : PReg) (b : Bool) : (t.setPred q b).fpflags = t.fpflags := by
  unfold Thread.setPred; split <;> rfl
@[simp] theorem Thread.setPred_region (t : Thread) (q : PReg) (b : Bool) : (t.setPred q b).region = t.region := by
  unfold Thread.setPred; split <;> rfl
@[simp] theorem Thread.setPred_tag (t : Thread) (q : PReg) (b : Bool) : (t.setPred q b).tag = t.tag := by
  unfold Thread.setPred; split <;> rfl
@[simp] theorem Thread.setPred_replays (t : Thread) (q : PReg) (b : Bool) : (t.setPred q b).replays = t.replays := by
  unfold Thread.setPred; split <;> rfl
@[simp] theorem Thread.setPred_pnone (t : Thread) (q : PReg) (b : Bool) : (t.setPred q b).pnone = t.pnone := by
  unfold Thread.setPred; split <;> rfl
@[simp] theorem Thread.setPred_pskip (t : Thread) (q : PReg) (b : Bool) : (t.setPred q b).pskip = t.pskip := by
  unfold Thread.setPred; split <;> rfl
@[simp] theorem Thread.setPred_pdefer (t : Thread) (q : PReg) (b : Bool) : (t.setPred q b).pdefer = t.pdefer := by
  unfold Thread.setPred; split <;> rfl
@[simp] theorem Thread.setPred_spilled (t : Thread) (q : PReg) (b : Bool) : (t.setPred q b).spilled = t.spilled := by
  unfold Thread.setPred; split <;> rfl
@[simp] theorem Thread.setPred_chip (t : Thread) (q : PReg) (b : Bool) : (t.setPred q b).chip = t.chip := by
  unfold Thread.setPred; split <;> rfl
@[simp] theorem Thread.setPred_recv (t : Thread) (q : PReg) (b : Bool) : (t.setPred q b).recv = t.recv := by
  unfold Thread.setPred; split <;> rfl
@[simp] theorem Thread.setPred_pc (t : Thread) (q : PReg) (b : Bool) : (t.setPred q b).pc = t.pc := by
  unfold Thread.setPred; split <;> rfl
@[simp] theorem Thread.setPred_npc (t : Thread) (q : PReg) (b : Bool) : (t.setPred q b).npc = t.npc := by
  unfold Thread.setPred; split <;> rfl
@[simp] theorem Thread.setPred_ctr (t : Thread) (q : PReg) (b : Bool) : (t.setPred q b).ctr = t.ctr := by
  unfold Thread.setPred; split <;> rfl
@[simp] theorem Thread.setPred_key (t : Thread) (q : PReg) (b : Bool) : (t.setPred q b).key = t.key := by
  unfold Thread.setPred; split <;> rfl
@[simp] theorem Thread.setPred_status (t : Thread) (q : PReg) (b : Bool) : (t.setPred q b).status = t.status := by
  unfold Thread.setPred; split <;> rfl
@[simp] theorem Thread.setPred_replay (t : Thread) (q : PReg) (b : Bool) : (t.setPred q b).replay = t.replay := by
  unfold Thread.setPred; split <;> rfl
@[simp] theorem Thread.setPred_issued (t : Thread) (q : PReg) (b : Bool) : (t.setPred q b).issued = t.issued := by
  unfold Thread.setPred; split <;> rfl
@[simp] theorem Thread.setPred_board (t : Thread) (q : PReg) (b : Bool) : (t.setPred q b).board = t.board := by
  unfold Thread.setPred; split <;> rfl
@[simp] theorem Thread.setPred_emu (t : Thread) (q : PReg) (b : Bool) : (t.setPred q b).emu = t.emu := by
  unfold Thread.setPred; split <;> rfl
@[simp] theorem Thread.setPred_ending (t : Thread) (q : PReg) (b : Bool) : (t.setPred q b).ending = t.ending := by
  unfold Thread.setPred; split <;> rfl
@[simp] theorem Thread.setPred_lent (t : Thread) (q : PReg) (b : Bool) : (t.setPred q b).lent = t.lent := by
  unfold Thread.setPred; split <;> rfl
@[simp] theorem Thread.setPred_lentFrames (t : Thread) (q : PReg) (b : Bool) : (t.setPred q b).lentFrames = t.lentFrames := by
  unfold Thread.setPred; split <;> rfl
@[simp] theorem Thread.setPred_block (t : Thread) (q : PReg) (b : Bool) : (t.setPred q b).block = t.block := by
  unfold Thread.setPred; split <;> rfl
@[simp] theorem Thread.setPred_dv (t : Thread) (q : PReg) (b : Bool) : (t.setPred q b).dv = t.dv := by
  unfold Thread.setPred; split <;> rfl
@[simp] theorem Thread.setPred_pri (t : Thread) (q : PReg) (b : Bool) : (t.setPred q b).pri = t.pri := by
  unfold Thread.setPred; split <;> rfl
@[simp] theorem Thread.setPred_trail (t : Thread) (q : PReg) (b : Bool) : (t.setPred q b).trail = t.trail := by
  unfold Thread.setPred; split <;> rfl
@[simp] theorem Thread.setPred_pos (t : Thread) (q : PReg) (b : Bool) : (t.setPred q b).pos = t.pos := by
  unfold Thread.setPred; split <;> rfl
@[simp] theorem Thread.setPred_zero (t : Thread) (q : PReg) (b : Bool) : (t.setPred q b).zero = t.zero := by
  unfold Thread.setPred; split <;> rfl
@[simp] theorem Thread.setPred_piece (t : Thread) (q : PReg) (b : Bool) : (t.setPred q b).piece = t.piece := by
  unfold Thread.setPred; split <;> rfl
@[simp] theorem Thread.addFlags_team (t : Thread) (fl : BitVec 5) : (t.addFlags fl).team = t.team := rfl
@[simp] theorem Thread.addFlags_tid (t : Thread) (fl : BitVec 5) : (t.addFlags fl).tid = t.tid := rfl
@[simp] theorem Thread.addFlags_gang (t : Thread) (fl : BitVec 5) : (t.addFlags fl).gang = t.gang := rfl
@[simp] theorem Thread.addFlags_home (t : Thread) (fl : BitVec 5) : (t.addFlags fl).home = t.home := rfl
@[simp] theorem Thread.addFlags_group (t : Thread) (fl : BitVec 5) : (t.addFlags fl).group = t.group := rfl
@[simp] theorem Thread.addFlags_allot (t : Thread) (fl : BitVec 5) : (t.addFlags fl).allot = t.allot := rfl
@[simp] theorem Thread.addFlags_v (t : Thread) (fl : BitVec 5) : (t.addFlags fl).v = t.v := rfl
@[simp] theorem Thread.addFlags_vp (t : Thread) (fl : BitVec 5) : (t.addFlags fl).vp = t.vp := rfl
@[simp] theorem Thread.addFlags_q (t : Thread) (fl : BitVec 5) : (t.addFlags fl).q = t.q := rfl
@[simp] theorem Thread.addFlags_sp (t : Thread) (fl : BitVec 5) : (t.addFlags fl).sp = t.sp := rfl
@[simp] theorem Thread.addFlags_ln (t : Thread) (fl : BitVec 5) : (t.addFlags fl).ln = t.ln := rfl
@[simp] theorem Thread.addFlags_stklim (t : Thread) (fl : BitVec 5) : (t.addFlags fl).stklim = t.stklim := rfl
@[simp] theorem Thread.addFlags_tok (t : Thread) (fl : BitVec 5) : (t.addFlags fl).tok = t.tok := rfl
@[simp] theorem Thread.addFlags_fpflags (t : Thread) (fl : BitVec 5) : (t.addFlags fl).fpflags = t.fpflags ||| fl := rfl
@[simp] theorem Thread.addFlags_region (t : Thread) (fl : BitVec 5) : (t.addFlags fl).region = t.region := rfl
@[simp] theorem Thread.addFlags_tag (t : Thread) (fl : BitVec 5) : (t.addFlags fl).tag = t.tag := rfl
@[simp] theorem Thread.addFlags_replays (t : Thread) (fl : BitVec 5) : (t.addFlags fl).replays = t.replays := rfl
@[simp] theorem Thread.addFlags_pnone (t : Thread) (fl : BitVec 5) : (t.addFlags fl).pnone = t.pnone := rfl
@[simp] theorem Thread.addFlags_pskip (t : Thread) (fl : BitVec 5) : (t.addFlags fl).pskip = t.pskip := rfl
@[simp] theorem Thread.addFlags_pdefer (t : Thread) (fl : BitVec 5) : (t.addFlags fl).pdefer = t.pdefer := rfl
@[simp] theorem Thread.addFlags_spilled (t : Thread) (fl : BitVec 5) : (t.addFlags fl).spilled = t.spilled := rfl
@[simp] theorem Thread.addFlags_chip (t : Thread) (fl : BitVec 5) : (t.addFlags fl).chip = t.chip := rfl
@[simp] theorem Thread.addFlags_recv (t : Thread) (fl : BitVec 5) : (t.addFlags fl).recv = t.recv := rfl
@[simp] theorem Thread.addFlags_pc (t : Thread) (fl : BitVec 5) : (t.addFlags fl).pc = t.pc := rfl
@[simp] theorem Thread.addFlags_npc (t : Thread) (fl : BitVec 5) : (t.addFlags fl).npc = t.npc := rfl
@[simp] theorem Thread.addFlags_ctr (t : Thread) (fl : BitVec 5) : (t.addFlags fl).ctr = t.ctr := rfl
@[simp] theorem Thread.addFlags_key (t : Thread) (fl : BitVec 5) : (t.addFlags fl).key = t.key := rfl
@[simp] theorem Thread.addFlags_status (t : Thread) (fl : BitVec 5) : (t.addFlags fl).status = t.status := rfl
@[simp] theorem Thread.addFlags_replay (t : Thread) (fl : BitVec 5) : (t.addFlags fl).replay = t.replay := rfl
@[simp] theorem Thread.addFlags_issued (t : Thread) (fl : BitVec 5) : (t.addFlags fl).issued = t.issued := rfl
@[simp] theorem Thread.addFlags_board (t : Thread) (fl : BitVec 5) : (t.addFlags fl).board = t.board := rfl
@[simp] theorem Thread.addFlags_emu (t : Thread) (fl : BitVec 5) : (t.addFlags fl).emu = t.emu := rfl
@[simp] theorem Thread.addFlags_ending (t : Thread) (fl : BitVec 5) : (t.addFlags fl).ending = t.ending := rfl
@[simp] theorem Thread.addFlags_lent (t : Thread) (fl : BitVec 5) : (t.addFlags fl).lent = t.lent := rfl
@[simp] theorem Thread.addFlags_lentFrames (t : Thread) (fl : BitVec 5) : (t.addFlags fl).lentFrames = t.lentFrames := rfl
@[simp] theorem Thread.addFlags_block (t : Thread) (fl : BitVec 5) : (t.addFlags fl).block = t.block := rfl
@[simp] theorem Thread.addFlags_dv (t : Thread) (fl : BitVec 5) : (t.addFlags fl).dv = t.dv := rfl
@[simp] theorem Thread.addFlags_pri (t : Thread) (fl : BitVec 5) : (t.addFlags fl).pri = t.pri := rfl
@[simp] theorem Thread.addFlags_trail (t : Thread) (fl : BitVec 5) : (t.addFlags fl).trail = t.trail := rfl
@[simp] theorem Thread.addFlags_pos (t : Thread) (fl : BitVec 5) : (t.addFlags fl).pos = t.pos := rfl
@[simp] theorem Thread.addFlags_zero (t : Thread) (fl : BitVec 5) : (t.addFlags fl).zero = t.zero := rfl
@[simp] theorem Thread.addFlags_piece (t : Thread) (fl : BitVec 5) : (t.addFlags fl).piece = t.piece := rfl
@[simp] theorem Thread.goTo_team (t : Thread) (s : State) (pc : DWord) : (t.goTo s pc).team = t.team := rfl
@[simp] theorem Thread.goTo_tid (t : Thread) (s : State) (pc : DWord) : (t.goTo s pc).tid = t.tid := rfl
@[simp] theorem Thread.goTo_gang (t : Thread) (s : State) (pc : DWord) : (t.goTo s pc).gang = t.gang := rfl
@[simp] theorem Thread.goTo_home (t : Thread) (s : State) (pc : DWord) : (t.goTo s pc).home = t.home := rfl
@[simp] theorem Thread.goTo_group (t : Thread) (s : State) (pc : DWord) : (t.goTo s pc).group = t.group := rfl
@[simp] theorem Thread.goTo_allot (t : Thread) (s : State) (pc : DWord) : (t.goTo s pc).allot = t.allot := rfl
@[simp] theorem Thread.goTo_v (t : Thread) (s : State) (pc : DWord) : (t.goTo s pc).v = t.v := rfl
@[simp] theorem Thread.goTo_vp (t : Thread) (s : State) (pc : DWord) : (t.goTo s pc).vp = t.vp := rfl
@[simp] theorem Thread.goTo_q (t : Thread) (s : State) (pc : DWord) : (t.goTo s pc).q = t.q := rfl
@[simp] theorem Thread.goTo_sp (t : Thread) (s : State) (pc : DWord) : (t.goTo s pc).sp = t.sp := rfl
@[simp] theorem Thread.goTo_ln (t : Thread) (s : State) (pc : DWord) : (t.goTo s pc).ln = t.ln := rfl
@[simp] theorem Thread.goTo_stklim (t : Thread) (s : State) (pc : DWord) : (t.goTo s pc).stklim = t.stklim := rfl
@[simp] theorem Thread.goTo_tok (t : Thread) (s : State) (pc : DWord) : (t.goTo s pc).tok = t.tok := rfl
@[simp] theorem Thread.goTo_fpflags (t : Thread) (s : State) (pc : DWord) : (t.goTo s pc).fpflags = t.fpflags := rfl
@[simp] theorem Thread.goTo_region (t : Thread) (s : State) (pc : DWord) : (t.goTo s pc).region = t.region := rfl
@[simp] theorem Thread.goTo_tag (t : Thread) (s : State) (pc : DWord) : (t.goTo s pc).tag = t.tag := rfl
@[simp] theorem Thread.goTo_replays (t : Thread) (s : State) (pc : DWord) : (t.goTo s pc).replays = t.replays := rfl
@[simp] theorem Thread.goTo_pnone (t : Thread) (s : State) (pc : DWord) : (t.goTo s pc).pnone = t.pnone := rfl
@[simp] theorem Thread.goTo_pskip (t : Thread) (s : State) (pc : DWord) : (t.goTo s pc).pskip = t.pskip := rfl
@[simp] theorem Thread.goTo_pdefer (t : Thread) (s : State) (pc : DWord) : (t.goTo s pc).pdefer = t.pdefer := rfl
@[simp] theorem Thread.goTo_spilled (t : Thread) (s : State) (pc : DWord) : (t.goTo s pc).spilled = t.spilled := rfl
@[simp] theorem Thread.goTo_chip (t : Thread) (s : State) (pc : DWord) : (t.goTo s pc).chip = t.chip := rfl
@[simp] theorem Thread.goTo_recv (t : Thread) (s : State) (pc : DWord) : (t.goTo s pc).recv = t.recv := rfl
@[simp] theorem Thread.goTo_pc (t : Thread) (s : State) (pc : DWord) : (t.goTo s pc).pc = pc := rfl
@[simp] theorem Thread.goTo_npc (t : Thread) (s : State) (pc : DWord) : (t.goTo s pc).npc = t.npc := rfl
@[simp] theorem Thread.goTo_ctr (t : Thread) (s : State) (pc : DWord) : (t.goTo s pc).ctr = t.ctr := rfl
@[simp] theorem Thread.goTo_key (t : Thread) (s : State) (pc : DWord) : (t.goTo s pc).key = t.key := rfl
@[simp] theorem Thread.goTo_status (t : Thread) (s : State) (pc : DWord) : (t.goTo s pc).status = .ready s.cycle := rfl
@[simp] theorem Thread.goTo_replay (t : Thread) (s : State) (pc : DWord) : (t.goTo s pc).replay = t.replay := rfl
@[simp] theorem Thread.goTo_issued (t : Thread) (s : State) (pc : DWord) : (t.goTo s pc).issued = t.issued + 1 := rfl
@[simp] theorem Thread.goTo_board (t : Thread) (s : State) (pc : DWord) : (t.goTo s pc).board = t.board := rfl
@[simp] theorem Thread.goTo_emu (t : Thread) (s : State) (pc : DWord) : (t.goTo s pc).emu = t.emu := rfl
@[simp] theorem Thread.goTo_ending (t : Thread) (s : State) (pc : DWord) : (t.goTo s pc).ending = t.ending := rfl
@[simp] theorem Thread.goTo_lent (t : Thread) (s : State) (pc : DWord) : (t.goTo s pc).lent = t.lent := rfl
@[simp] theorem Thread.goTo_lentFrames (t : Thread) (s : State) (pc : DWord) : (t.goTo s pc).lentFrames = t.lentFrames := rfl
@[simp] theorem Thread.goTo_block (t : Thread) (s : State) (pc : DWord) : (t.goTo s pc).block = t.block := rfl
@[simp] theorem Thread.goTo_dv (t : Thread) (s : State) (pc : DWord) : (t.goTo s pc).dv = t.dv := rfl
@[simp] theorem Thread.goTo_pri (t : Thread) (s : State) (pc : DWord) : (t.goTo s pc).pri = 0 := rfl
@[simp] theorem Thread.goTo_trail (t : Thread) (s : State) (pc : DWord) : (t.goTo s pc).trail = none := rfl
@[simp] theorem Thread.goTo_pos (t : Thread) (s : State) (pc : DWord) : (t.goTo s pc).pos = t.pos := rfl
@[simp] theorem Thread.goTo_zero (t : Thread) (s : State) (pc : DWord) : (t.goTo s pc).zero = t.zero := rfl
@[simp] theorem Thread.goTo_piece (t : Thread) (s : State) (pc : DWord) : (t.goTo s pc).piece = t.piece := rfl
@[simp] theorem Thread.markV_team (t : Thread) (n : VReg) : (t.markV n).team = t.team := rfl
@[simp] theorem Thread.markV_tid (t : Thread) (n : VReg) : (t.markV n).tid = t.tid := rfl
@[simp] theorem Thread.markV_gang (t : Thread) (n : VReg) : (t.markV n).gang = t.gang := rfl
@[simp] theorem Thread.markV_home (t : Thread) (n : VReg) : (t.markV n).home = t.home := rfl
@[simp] theorem Thread.markV_group (t : Thread) (n : VReg) : (t.markV n).group = t.group := rfl
@[simp] theorem Thread.markV_allot (t : Thread) (n : VReg) : (t.markV n).allot = t.allot := rfl
@[simp] theorem Thread.markV_v (t : Thread) (n : VReg) : (t.markV n).v = t.v := rfl
@[simp] theorem Thread.markV_vp (t : Thread) (n : VReg) : (t.markV n).vp = t.vp.set n.toNat true n.isLt := rfl
@[simp] theorem Thread.markV_q (t : Thread) (n : VReg) : (t.markV n).q = t.q := rfl
@[simp] theorem Thread.markV_sp (t : Thread) (n : VReg) : (t.markV n).sp = t.sp := rfl
@[simp] theorem Thread.markV_ln (t : Thread) (n : VReg) : (t.markV n).ln = t.ln := rfl
@[simp] theorem Thread.markV_stklim (t : Thread) (n : VReg) : (t.markV n).stklim = t.stklim := rfl
@[simp] theorem Thread.markV_tok (t : Thread) (n : VReg) : (t.markV n).tok = t.tok := rfl
@[simp] theorem Thread.markV_fpflags (t : Thread) (n : VReg) : (t.markV n).fpflags = t.fpflags := rfl
@[simp] theorem Thread.markV_region (t : Thread) (n : VReg) : (t.markV n).region = t.region := rfl
@[simp] theorem Thread.markV_tag (t : Thread) (n : VReg) : (t.markV n).tag = t.tag := rfl
@[simp] theorem Thread.markV_replays (t : Thread) (n : VReg) : (t.markV n).replays = t.replays := rfl
@[simp] theorem Thread.markV_pnone (t : Thread) (n : VReg) : (t.markV n).pnone = t.pnone := rfl
@[simp] theorem Thread.markV_pskip (t : Thread) (n : VReg) : (t.markV n).pskip = t.pskip := rfl
@[simp] theorem Thread.markV_pdefer (t : Thread) (n : VReg) : (t.markV n).pdefer = t.pdefer := rfl
@[simp] theorem Thread.markV_spilled (t : Thread) (n : VReg) : (t.markV n).spilled = t.spilled := rfl
@[simp] theorem Thread.markV_chip (t : Thread) (n : VReg) : (t.markV n).chip = t.chip := rfl
@[simp] theorem Thread.markV_recv (t : Thread) (n : VReg) : (t.markV n).recv = t.recv := rfl
@[simp] theorem Thread.markV_pc (t : Thread) (n : VReg) : (t.markV n).pc = t.pc := rfl
@[simp] theorem Thread.markV_npc (t : Thread) (n : VReg) : (t.markV n).npc = t.npc := rfl
@[simp] theorem Thread.markV_ctr (t : Thread) (n : VReg) : (t.markV n).ctr = t.ctr := rfl
@[simp] theorem Thread.markV_key (t : Thread) (n : VReg) : (t.markV n).key = t.key := rfl
@[simp] theorem Thread.markV_status (t : Thread) (n : VReg) : (t.markV n).status = t.status := rfl
@[simp] theorem Thread.markV_replay (t : Thread) (n : VReg) : (t.markV n).replay = t.replay := rfl
@[simp] theorem Thread.markV_issued (t : Thread) (n : VReg) : (t.markV n).issued = t.issued := rfl
@[simp] theorem Thread.markV_board (t : Thread) (n : VReg) : (t.markV n).board = t.board := rfl
@[simp] theorem Thread.markV_emu (t : Thread) (n : VReg) : (t.markV n).emu = t.emu := rfl
@[simp] theorem Thread.markV_ending (t : Thread) (n : VReg) : (t.markV n).ending = t.ending := rfl
@[simp] theorem Thread.markV_lent (t : Thread) (n : VReg) : (t.markV n).lent = t.lent := rfl
@[simp] theorem Thread.markV_lentFrames (t : Thread) (n : VReg) : (t.markV n).lentFrames = t.lentFrames := rfl
@[simp] theorem Thread.markV_block (t : Thread) (n : VReg) : (t.markV n).block = t.block := rfl
@[simp] theorem Thread.markV_dv (t : Thread) (n : VReg) : (t.markV n).dv = t.dv := rfl
@[simp] theorem Thread.markV_pri (t : Thread) (n : VReg) : (t.markV n).pri = t.pri := rfl
@[simp] theorem Thread.markV_trail (t : Thread) (n : VReg) : (t.markV n).trail = t.trail := rfl
@[simp] theorem Thread.markV_pos (t : Thread) (n : VReg) : (t.markV n).pos = t.pos := rfl
@[simp] theorem Thread.markV_zero (t : Thread) (n : VReg) : (t.markV n).zero = t.zero := rfl
@[simp] theorem Thread.markV_piece (t : Thread) (n : VReg) : (t.markV n).piece = t.piece := rfl

end Sys2Proof.Machine
end

