-- ==== Sys2Proof/Laws/Memory.lean ====
section
/-! SUPPORT. Tables and memory: what a read finds after a write, and that every memory operation keeps the canonical
form of `memWf`. -/

namespace Sys2Proof.Machine

/-! Tables. -/

theorem mget_mset {α : Type} (m : Map α) (k j : Nat) (x : α) :
    mget (mset m k x) j = if j = k then some x else mget m j := by
  induction m with
  | nil => simp only [mset, mget]; split <;> split <;> first | rfl | omega
  | cons e r ih =>
    obtain ⟨i, y⟩ := e
    unfold mset
    split
    · simp only [mget, ih]
      split <;> split <;> first | rfl | omega
    · split
      · simp only [mget]
        split <;> split <;> first | rfl | omega | simp_all
      · simp only [mget]
        (repeat' split) <;> first | rfl | omega

@[simp] theorem mget_mset_same {α : Type} (m : Map α) (k : Nat) (x : α) : mget (mset m k x) k = some x := by
  simp [mget_mset]

theorem mget_mset_ne {α : Type} (m : Map α) {k j : Nat} (x : α) (h : j ≠ k) : mget (mset m k x) j = mget m j := by
  simp [mget_mset, h]

theorem mget_mdel {α : Type} (m : Map α) (k j : Nat) : mget (mdel m k) j = if j = k then none else mget m j := by
  induction m with
  | nil => simp [mdel, mget]
  | cons e r ih =>
    obtain ⟨i, y⟩ := e
    simp only [mdel, List.filter_cons] at ih ⊢
    split
    · rename_i h
      simp only [bne_iff_ne, ne_eq] at h
      simp only [mget, ih]
      split <;> split <;> first | rfl | omega
    · rename_i h
      simp only [bne_iff_ne, ne_eq, Decidable.not_not] at h
      rw [ih]
      simp only [mget]
      split
      · rfl
      · split
        · omega
        · rfl

@[simp] theorem State.thr_setThr (s : State) (p : Nat) (t : Thread) : (s.setThr p t).thr p = some t := by
  simp [State.thr]
theorem State.thr_setThr_ne (s : State) {p q : Nat} (t : Thread) (h : q ≠ p) : (s.setThr p t).thr q = s.thr q := by
  simp [State.thr, mget_mset_ne _ _ h]
@[simp] theorem State.ctx_setCtx (s : State) (c : Nat) (x : Ctx) : (s.setCtx c x).ctx c = x := by simp [State.ctx]
@[simp] theorem State.queue_setQueue (s : State) (q : Nat) (x : Queue) : (s.setQueue q x).queue q = x := by
  simp [State.queue]
@[simp] theorem State.team_setTeam (s : State) (k : Nat) (x : Team) : (s.setTeam k x).team k = some x := by
  simp [State.team]
@[simp] theorem State.group_setGroup (s : State) (k : Nat) (x : Group) : (s.setGroup k x).group k = some x := by
  simp [State.group]
@[simp] theorem State.core_setCore (s : State) (c : Nat) (x : CoreState) : (s.setCore c x).core c = x := by
  simp [State.core]

/-! Bytes. -/

theorem memByte_memPut (m : Memory) (a j : Nat) (b : Byte) (h : memWf m = true) :
    memByte (memPut m a b) j = if j = a then b else memByte m j := by
  induction m with
  | nil =>
    simp only [memPut]
    split
    · split <;> simp_all [memByte]
    · simp only [memByte]; split <;> split <;> first | rfl | omega
  | cons e r ih =>
    obtain ⟨k, c⟩ := e
    have hr : memWf r = true := by cases r with
      | nil => rfl
      | cons f r => obtain ⟨k', c'⟩ := f; simp only [memWf, Bool.and_eq_true] at h; exact h.2
    have up : ∀ i, i ≤ k → memByte r i = 0#8 := by
      clear ih
      intro i hi
      induction r generalizing k c with
      | nil => rfl
      | cons f r ih2 =>
        obtain ⟨k', c'⟩ := f
        simp only [memWf, Bool.and_eq_true, decide_eq_true_eq] at h
        have hr2 : memWf r = true := by cases r with
          | nil => rfl
          | cons f r => obtain ⟨k2, c2⟩ := f; simp only [memWf, Bool.and_eq_true] at hr; exact hr.2
        simp only [memByte]
        rw [if_neg (by omega)]
        exact ih2 k' c' hr hr2 (by omega)
    unfold memPut
    split
    · simp only [memByte, ih hr]
      split <;> split <;> first | rfl | omega
    · split
      · split
        · rename_i h1 h2 h3
          subst h2
          simp only [memByte]
          split
          · subst_vars; simp [up]
          · rw [if_neg (by omega)]
        · simp only [memByte]
          split <;> split <;> first | rfl | omega | simp_all
      · split
        · rename_i h1 h2 h3
          simp only [memByte]
          split
          · rw [if_neg (by omega)]
          · split
            · subst_vars; exact up _ (by omega)
            · rfl
        · simp only [memByte]
          (repeat' split) <;> first | rfl | omega

/-- The form of `memWf` as a list: its addresses rise strictly, and it lists no zero. -/
theorem memWf_iff (m : Memory) : memWf m = true ↔ (m.map (·.1)).Pairwise (· < ·) ∧ ∀ e ∈ m, e.2 ≠ 0#8 := by
  induction m with
  | nil => simp [memWf]
  | cons e r ih =>
    obtain ⟨k, b⟩ := e
    cases r with
    | nil => simp [memWf, bne_iff_ne]
    | cons f r =>
      obtain ⟨j, c⟩ := f
      simp only [memWf, Bool.and_eq_true, decide_eq_true_eq, bne_iff_ne, ih]
      simp only [List.map_cons, List.pairwise_cons, List.mem_cons, List.mem_map]
      constructor
      · rintro ⟨⟨h1, h2⟩, ⟨h3, h4⟩, h5⟩
        refine ⟨⟨?_, h3, h4⟩, ?_⟩
        · rintro x (rfl | ⟨y, hy, rfl⟩)
          · exact h1
          · exact Nat.lt_trans h1 (h3 _ ⟨y, hy, rfl⟩)
        · rintro x (rfl | hx)
          · exact h2
          · exact h5 x hx
      · rintro ⟨⟨h1, h3, h4⟩, h5⟩
        exact ⟨⟨h1 _ (.inl rfl), h5 _ (.inl rfl)⟩, ⟨h3, h4⟩, fun x hx => h5 x (.inr hx)⟩

theorem memPut_keys (m : Memory) (a : Nat) (b : Byte) : ∀ e ∈ memPut m a b, e = (a, b) ∨ e ∈ m := by
  induction m with
  | nil => intro e; simp only [memPut]; split <;> simp
  | cons f r ih =>
    obtain ⟨k, c⟩ := f
    intro e
    unfold memPut
    split
    · simp only [List.mem_cons]
      rintro (h | h)
      · exact .inr (.inl h)
      · exact (ih e h).imp id .inr
    · split
      · split
        · intro h; exact .inr (.tail _ h)
        · simp only [List.mem_cons]
          rintro (h | h)
          · exact .inl h
          · exact .inr (.inr h)
      · split
        · intro h; exact .inr h
        · simp only [List.mem_cons]
          rintro (h | h | h)
          · exact .inl h
          · exact .inr (.inl h)
          · exact .inr (.inr h)

/-- A byte written keeps the canonical form. -/
theorem memPut_wf (m : Memory) (a : Nat) (b : Byte) (h : memWf m = true) : memWf (memPut m a b) = true := by
  rw [memWf_iff] at h ⊢
  obtain ⟨h1, h2⟩ := h
  induction m with
  | nil => simp only [memPut]; split <;> simp_all
  | cons f r ih =>
    obtain ⟨k, c⟩ := f
    simp only [List.map_cons, List.pairwise_cons, List.mem_map, List.mem_cons] at h1 h2
    have hr := ih h1.2 fun e he => h2 e (.inr he)
    unfold memPut
    split
    · rename_i hk
      refine ⟨?_, ?_⟩
      · simp only [List.map_cons, List.pairwise_cons, List.mem_map]
        refine ⟨?_, hr.1⟩
        rintro x ⟨e, he, rfl⟩
        rcases memPut_keys r a b e he with h | h
        · subst h; exact hk
        · exact h1.1 _ ⟨e, h, rfl⟩
      · rintro e he
        rcases List.mem_cons.mp he with h | h
        · exact h2 e (.inl h)
        · exact hr.2 e h
    · split
      · split
        · exact ⟨h1.2, fun e he => h2 e (.inr he)⟩
        · rename_i hk hb
          subst hk
          refine ⟨by simpa [List.pairwise_cons] using h1, ?_⟩
          rintro e he
          rcases List.mem_cons.mp he with h | h
          · subst h; exact hb
          · exact h2 e (.inr h)
      · split
        · exact ⟨by simpa [List.pairwise_cons] using h1, fun e he => h2 e (List.mem_cons.mp he)⟩
        · rename_i hn hk hb
          refine ⟨?_, ?_⟩
          · simp only [List.map_cons, List.pairwise_cons, List.mem_cons, List.mem_map]
            refine ⟨?_, h1⟩
            rintro x (rfl | ⟨e, he, rfl⟩)
            · omega
            · have := h1.1 _ ⟨e, he, rfl⟩; omega
          · rintro e he
            rcases List.mem_cons.mp he with h | h
            · subst h; exact hb
            · exact h2 e (List.mem_cons.mp h)

/-- Bytes written keep the canonical form. -/
theorem memWrite_wf (m : Memory) (a : Nat) (bs : List Byte) (h : memWf m = true) : memWf (memWrite m a bs) = true := by
  induction bs generalizing m a with
  | nil => exact h
  | cons b r ih => exact ih _ _ (memPut_wf m a b h)

/-- Any choice of entries keeps the canonical form. -/
theorem memFilter_wf (m : Memory) (f : Host.Cell → Bool) (h : memWf m = true) : memWf (m.filter f) = true := by
  rw [memWf_iff] at h ⊢
  refine ⟨?_, fun e he => h.2 e ((List.mem_filter.mp he).1)⟩
  exact (List.Pairwise.sublist (List.Sublist.map _ List.filter_sublist) h.1)

/-- Bytes made zero keep the canonical form. -/
theorem memZero_wf (m : Memory) (a n : Nat) (h : memWf m = true) : memWf (memZero m a n) = true := memFilter_wf m _ h

/-- What a byte reads as after bytes are written from `a` up. -/
theorem memByte_memWrite (m : Memory) (a j : Nat) (bs : List Byte) (h : memWf m = true) :
    memByte (memWrite m a bs) j = if a ≤ j ∧ j < a + bs.length then (bs[j - a]?).getD 0#8 else memByte m j := by
  induction bs generalizing m a with
  | nil => simp [memWrite] <;> omega
  | cons b r ih =>
    simp only [memWrite, ih _ _ (memPut_wf m a b h), memByte_memPut m a j b h, List.length_cons]
    by_cases h1 : a + 1 ≤ j ∧ j < a + 1 + r.length
    · rw [if_pos h1, if_pos (by omega)]
      have : j - a = (j - (a + 1)) + 1 := by omega
      rw [this, List.getElem?_cons_succ]
    · rw [if_neg h1]
      by_cases h2 : j = a
      · subst h2; simp
      · rw [if_neg h2, if_neg (by omega)]

/-- A write leaves every byte outside it as it was. -/
theorem memByte_memWrite_outside (m : Memory) (a j : Nat) (bs : List Byte) (h : memWf m = true)
    (hj : j < a ∨ a + bs.length ≤ j) : memByte (memWrite m a bs) j = memByte m j := by
  rw [memByte_memWrite m a j bs h, if_neg (by omega)]

theorem memRead_length (m : Memory) (a n : Nat) : (memRead m a n).length = n := by
  induction n generalizing a with
  | zero => rfl
  | succ n ih => simp [memRead, ih]

theorem memRead_getElem (m : Memory) (a n k : Nat) (h : k < n) : (memRead m a n)[k]? = some (memByte m (a + k)) := by
  induction n generalizing a k with
  | zero => omega
  | succ n ih =>
    cases k with
    | zero => simp [memRead]
    | succ k => simp only [memRead, List.getElem?_cons_succ, ih (a + 1) k (by omega)]; congr 2; omega

/-- A read of what was written gives it back. -/
theorem memRead_memWrite (m : Memory) (a : Nat) (bs : List Byte) (h : memWf m = true) :
    memRead (memWrite m a bs) a bs.length = bs := by
  apply List.ext_getElem?
  intro k
  by_cases hk : k < bs.length
  · rw [memRead_getElem _ _ _ _ hk, memByte_memWrite m a _ bs h, if_pos (by omega), Nat.add_sub_cancel_left,
      List.getElem?_eq_getElem hk]
    rfl
  · rw [List.getElem?_eq_none (by rw [memRead_length]; omega), List.getElem?_eq_none (by omega)]

/-- Equal canonical memories are equal lists. -/
theorem memory_ext (m n : Memory) (hm : memWf m = true) (hn : memWf n = true) (h : ∀ a, memByte m a = memByte n a) :
    m = n := by
  have first : ∀ (l : Memory) (k : Nat) (c : Byte), memWf ((k, c) :: l) = true →
      c ≠ 0#8 ∧ memWf l = true ∧ ∀ i, i ≤ k → memByte l i = 0#8 := by
    intro l k c hl
    rw [memWf_iff] at hl
    simp only [List.map_cons, List.pairwise_cons, List.mem_map, List.mem_cons] at hl
    refine ⟨hl.2 _ (.inl rfl), (memWf_iff l).2 ⟨hl.1.2, fun e he => hl.2 e (.inr he)⟩, ?_⟩
    intro i hi
    have hl1 := hl.1.1
    clear hl
    induction l with
    | nil => rfl
    | cons f r ih =>
      obtain ⟨j, d⟩ := f
      have := hl1 _ ⟨(j, d), .head _, rfl⟩
      simp only at this
      simp only [memByte]
      rw [if_neg (by omega)]
      exact ih fun x ⟨e, he, hx⟩ => hl1 x ⟨e, .tail _ he, hx⟩
  induction m generalizing n with
  | nil =>
    cases n with
    | nil => rfl
    | cons e r =>
      obtain ⟨k, c⟩ := e
      have := h k
      simp only [memByte, if_true] at this
      exact absurd this.symm (first r k c hn).1
  | cons e r ih =>
    obtain ⟨k, c⟩ := e
    have hm' := first r k c hm
    cases n with
    | nil =>
      have := h k
      simp only [memByte, if_true] at this
      exact absurd this hm'.1
    | cons f q =>
      obtain ⟨j, d⟩ := f
      have hn' := first q j d hn
      have hkj : k = j := by
        rcases Nat.lt_trichotomy k j with hlt | heq | hgt
        · have := h k
          simp only [memByte, if_true] at this
          rw [if_neg (by omega), hn'.2.2 k (by omega)] at this
          exact absurd this hm'.1
        · exact heq
        · have := h j
          simp only [memByte, if_true] at this
          rw [if_neg (by omega), hm'.2.2 j (by omega)] at this
          exact absurd this.symm hn'.1
      subst hkj
      have hcd : c = d := by have := h k; simpa [memByte] using this
      subst hcd
      congr 1
      apply ih q hm'.2.1 hn'.2.1
      intro a
      have := h a
      simp only [memByte] at this
      by_cases ha : k = a
      · subst ha; rw [hm'.2.2 k (by omega), hn'.2.2 k (by omega)]
      · simpa [ha] using this

/-! The state's memory. -/

/-- Memory after reset lists nothing and is canonical. -/
theorem reset_memWf : memWf State.reset.mem = true := rfl

theorem State.write_wf (s : State) (a : Nat) (bs : List Byte) (p : Bool) (h : memWf s.mem = true) :
    memWf (s.write a bs p).mem = true := memWrite_wf s.mem a bs h
theorem State.zero_wf (s : State) (a n : Nat) (h : memWf s.mem = true) : memWf (s.zero a n).mem = true :=
  memZero_wf s.mem a n h

end Sys2Proof.Machine
end

