-- ==== Sys2Proof/Laws/PerInstr.lean ====
section
/-! SUPPORT. The length of every instruction's word, one lemma per constructor (02_encoding.md R46, R47). -/

namespace Sys2Proof.Laws

namespace WordLength

/-- The first parcel of a well-formed instruction's word states how many parcels the word has (02 R47). -/
def Statement (i : Instr) : Prop := i.wellFormed = true → ∀ p r, encode i = p :: r → Decode.parcelCount p = r.length + 1

theorem of_short {i : Instr} {w : Word} (h : Decode.shortOf i = some w) (hb : w.getLsbD 0 = false) : Statement i := by
  intro _ p r he
  simp only [encode, h, List.cons.injEq] at he
  obtain ⟨rfl, rfl⟩ := he
  rw [Decode.parcelCount, hb]
  rfl

theorem parcel0_low (op : BitVec 8) (f : Decode.Fields) : (Decode.parcel0 op f).getLsbD 0 = true := by
  unfold Decode.parcel0
  rw [BitVec.getLsbD_append]
  cases f.wide <;> simp

theorem parcel0_wide (op : BitVec 8) (f : Decode.Fields) : (Decode.parcel0 op f).getLsbD 1 = f.wide := by
  unfold Decode.parcel0
  rw [BitVec.getLsbD_append]
  cases f.wide <;> simp <;> decide

theorem of_fields {i : Instr} {x : BitVec 8 × Decode.Fields} (hs : Decode.shortOf i = none)
    (h : Decode.fieldsOf i = some x) : Statement i := by
  intro _ p r he
  simp only [encode, hs, h, Decode.writeFields, List.cons_append, List.nil_append, List.cons.injEq] at he
  obtain ⟨rfl, rfl⟩ := he
  rw [Decode.parcelCount, parcel0_low, parcel0_wide]
  cases x.2.wide <;> rfl

/-- One of the device's own steps has no word. -/
theorem of_none {i : Instr} (h : encode i = []) : Statement i := by
  intro _ p r he
  rw [h] at he
  cases he

theorem shortWord_low (g : Guard) (b a d : BitVec 7) (op6 : BitVec 6) :
    (Decode.shortWord g b a d op6).getLsbD 0 = false := by
  unfold Decode.shortWord
  rw [BitVec.getLsbD_append]
  simp

theorem shortDisp_low (g : Guard) (d : BitVec 21) (op6 : BitVec 6) : (Decode.shortDisp g d op6).getLsbD 0 = false := by
  unfold Decode.shortDisp
  rw [BitVec.getLsbD_append]
  simp

theorem of_raw {i : Instr} {w : RawWord} (h : encode i = Decode.rawParcels w) (hw : w.len = Legal.rawLength w.p0) :
    Statement i := by
  intro _ p r he
  rw [h, Decode.rawParcels, hw] at he
  unfold Legal.rawLength at he
  unfold Decode.parcelCount
  cases h0 : w.p0.getLsbD 0 <;> cases h1 : w.p0.getLsbD 1 <;> rw [h0] at he <;> try rw [h1] at he
  all_goals
    simp only [if_true, Bool.false_eq_true, if_false] at he
    cases he
    simp only [h0, h1, if_true, Bool.false_eq_true, if_false]
    rfl

theorem retiredOpcodeShort (g : Guard) (w : Word) : Statement (.retiredOpcodeShort g w) := by
  intro hw
  refine of_short rfl ?_ hw
  simp only [Instr.wellFormed, Legal.legal, Legal.rawShort, Bool.and_eq_true, Bool.not_eq_true'] at hw
  exact hw.1.1.1
theorem retiredOpcode (g : Guard) (w : RawWord) : Statement (.retiredOpcode g w) := by
  intro hw
  refine of_raw (w := w) rfl ?_ hw
  simp only [Instr.wellFormed, Legal.legal, Legal.rawLong, Bool.and_eq_true, beq_iff_eq] at hw
  exact hw.1.1.1.2
theorem reservedEncoding (g : Guard) (why : Illegal) (w : RawWord) : Statement (.reservedEncoding g why w) := by
  intro hw
  refine of_raw (w := w) rfl ?_ hw
  simp only [Instr.wellFormed, Legal.legal] at hw
  cases why
  · simp only [Legal.reservedOk, Legal.rawLong, Legal.rawShort, Bool.or_eq_true, Bool.and_eq_true, beq_iff_eq,
      Bool.not_eq_true'] at hw
    obtain h | h := hw
    · exact h.1.1.2
    · rw [Legal.rawLength, h.1.2.1.1, h.1.1]
      rfl
  · simp only [Legal.reservedOk, Bool.and_eq_true, beq_iff_eq] at hw
    exact hw.2
theorem nopShort : ∀ a, Statement (.nopShort a) := fun _ => of_short rfl (shortWord_low ..)
theorem braShort : ∀ a b, Statement (.braShort a b) := fun _ _ => of_short rfl (shortDisp_low ..)
theorem callShort : ∀ a b, Statement (.callShort a b) := fun _ _ => of_short rfl (shortDisp_low ..)
theorem retShort : ∀ a, Statement (.retShort a) := fun _ => of_short rfl (shortWord_low ..)
theorem exitShort : ∀ a, Statement (.exitShort a) := fun _ => of_short rfl (shortWord_low ..)
theorem movShort : ∀ a b, Statement (.movShort a b) := fun _ _ => of_short rfl (shortWord_low ..)
theorem iaddShort : ∀ a b, Statement (.iaddShort a b) := fun _ _ => of_short rfl (shortWord_low ..)
theorem isubShort : ∀ a b, Statement (.isubShort a b) := fun _ _ => of_short rfl (shortWord_low ..)
theorem imulShort : ∀ a b, Statement (.imulShort a b) := fun _ _ => of_short rfl (shortWord_low ..)
theorem andShort : ∀ a b, Statement (.andShort a b) := fun _ _ => of_short rfl (shortWord_low ..)
theorem orShort : ∀ a b, Statement (.orShort a b) := fun _ _ => of_short rfl (shortWord_low ..)
theorem xorShort : ∀ a b, Statement (.xorShort a b) := fun _ _ => of_short rfl (shortWord_low ..)
theorem shlShort : ∀ a b, Statement (.shlShort a b) := fun _ _ => of_short rfl (shortWord_low ..)
theorem shrShort : ∀ a b, Statement (.shrShort a b) := fun _ _ => of_short rfl (shortWord_low ..)
theorem sarShort : ∀ a b, Statement (.sarShort a b) := fun _ _ => of_short rfl (shortWord_low ..)
theorem iminShort : ∀ a b, Statement (.iminShort a b) := fun _ _ => of_short rfl (shortWord_low ..)
theorem imaxShort : ∀ a b, Statement (.imaxShort a b) := fun _ _ => of_short rfl (shortWord_low ..)
theorem faddShort : ∀ a b, Statement (.faddShort a b) := fun _ _ => of_short rfl (shortWord_low ..)
theorem fsubShort : ∀ a b, Statement (.fsubShort a b) := fun _ _ => of_short rfl (shortWord_low ..)
theorem fmulShort : ∀ a b, Statement (.fmulShort a b) := fun _ _ => of_short rfl (shortWord_low ..)
theorem ffmaShort : ∀ a b, Statement (.ffmaShort a b) := fun _ _ => of_short rfl (shortWord_low ..)
theorem fminShort : ∀ a b, Statement (.fminShort a b) := fun _ _ => of_short rfl (shortWord_low ..)
theorem fmaxShort : ∀ a b, Statement (.fmaxShort a b) := fun _ _ => of_short rfl (shortWord_low ..)
theorem pandShort : ∀ a b c d, Statement (.pandShort a b c d) := fun _ _ _ _ => of_short rfl (shortWord_low ..)
theorem porShort : ∀ a b c d, Statement (.porShort a b c d) := fun _ _ _ _ => of_short rfl (shortWord_low ..)
theorem pxorShort : ∀ a b c d, Statement (.pxorShort a b c d) := fun _ _ _ _ => of_short rfl (shortWord_low ..)
theorem pnotShort : ∀ a b c, Statement (.pnotShort a b c) := fun _ _ _ => of_short rfl (shortWord_low ..)
theorem pmovShort : ∀ a b c, Statement (.pmovShort a b c) := fun _ _ _ => of_short rfl (shortWord_low ..)
theorem nop : ∀ a, Statement (.nop a) := fun _ => of_fields rfl rfl
theorem bra : ∀ a b, Statement (.bra a b) := fun _ _ => of_fields rfl rfl
theorem brc : ∀ a b, Statement (.brc a b) := fun _ _ => of_fields rfl rfl
theorem brx : ∀ a b, Statement (.brx a b) := fun _ _ => of_fields rfl rfl
theorem call : ∀ a b, Statement (.call a b) := fun _ _ => of_fields rfl rfl
theorem callx : ∀ a b, Statement (.callx a b) := fun _ _ => of_fields rfl rfl
theorem ret : ∀ a, Statement (.ret a) := fun _ => of_fields rfl rfl
theorem exit : ∀ a, Statement (.exit a) := fun _ => of_fields rfl rfl
theorem pand : ∀ a b, Statement (.pand a b) := fun _ _ => of_fields rfl rfl
theorem por : ∀ a b, Statement (.por a b) := fun _ _ => of_fields rfl rfl
theorem pxor : ∀ a b, Statement (.pxor a b) := fun _ _ => of_fields rfl rfl
theorem pnot : ∀ a b, Statement (.pnot a b) := fun _ _ => of_fields rfl rfl
theorem pmov : ∀ a b, Statement (.pmov a b) := fun _ _ => of_fields rfl rfl
theorem ppack : ∀ a b, Statement (.ppack a b) := fun _ _ => of_fields rfl rfl
theorem punpk : ∀ a b, Statement (.punpk a b) := fun _ _ => of_fields rfl rfl
theorem sel : ∀ a b, Statement (.sel a b) := fun _ _ => of_fields rfl rfl
theorem iadd : ∀ a b c, Statement (.iadd a b c) := fun _ _ _ => of_fields rfl rfl
theorem isub : ∀ a b c, Statement (.isub a b c) := fun _ _ _ => of_fields rfl rfl
theorem imul : ∀ a b, Statement (.imul a b) := fun _ _ => of_fields rfl rfl
theorem imulh : ∀ a b, Statement (.imulh a b) := fun _ _ => of_fields rfl rfl
theorem imad : ∀ a b, Statement (.imad a b) := fun _ _ => of_fields rfl rfl
theorem idiv : ∀ a b c, Statement (.idiv a b c) := fun _ _ _ => of_fields rfl rfl
theorem irem : ∀ a b c, Statement (.irem a b c) := fun _ _ _ => of_fields rfl rfl
theorem imin : ∀ a b, Statement (.imin a b) := fun _ _ => of_fields rfl rfl
theorem imax : ∀ a b, Statement (.imax a b) := fun _ _ => of_fields rfl rfl
theorem iabs : ∀ a b, Statement (.iabs a b) := fun _ _ => of_fields rfl rfl
theorem ineg : ∀ a b, Statement (.ineg a b) := fun _ _ => of_fields rfl rfl
theorem iset : ∀ a b, Statement (.iset a b) := fun _ _ => of_fields rfl rfl
theorem lea : ∀ a b, Statement (.lea a b) := fun _ _ => of_fields rfl rfl
theorem add64 : ∀ a b, Statement (.add64 a b) := fun _ _ => of_fields rfl rfl
theorem sub64 : ∀ a b, Statement (.sub64 a b) := fun _ _ => of_fields rfl rfl
theorem mul64 : ∀ a b, Statement (.mul64 a b) := fun _ _ => of_fields rfl rfl
theorem and : ∀ a b, Statement (.and a b) := fun _ _ => of_fields rfl rfl
theorem or : ∀ a b, Statement (.or a b) := fun _ _ => of_fields rfl rfl
theorem xor : ∀ a b, Statement (.xor a b) := fun _ _ => of_fields rfl rfl
theorem not : ∀ a b, Statement (.not a b) := fun _ _ => of_fields rfl rfl
theorem shl : ∀ a b, Statement (.shl a b) := fun _ _ => of_fields rfl rfl
theorem shr : ∀ a b, Statement (.shr a b) := fun _ _ => of_fields rfl rfl
theorem sar : ∀ a b, Statement (.sar a b) := fun _ _ => of_fields rfl rfl
theorem rol : ∀ a b, Statement (.rol a b) := fun _ _ => of_fields rfl rfl
theorem bfx : ∀ a b, Statement (.bfx a b) := fun _ _ => of_fields rfl rfl
theorem bfi : ∀ a b, Statement (.bfi a b) := fun _ _ => of_fields rfl rfl
theorem popc : ∀ a b, Statement (.popc a b) := fun _ _ => of_fields rfl rfl
theorem clz : ∀ a b, Statement (.clz a b) := fun _ _ => of_fields rfl rfl
theorem ctz : ∀ a b, Statement (.ctz a b) := fun _ _ => of_fields rfl rfl
theorem brev : ∀ a b, Statement (.brev a b) := fun _ _ => of_fields rfl rfl
theorem mov : ∀ a b, Statement (.mov a b) := fun _ _ => of_fields rfl rfl
theorem movi : ∀ a b, Statement (.movi a b) := fun _ _ => of_fields rfl rfl
theorem lit : ∀ a b c, Statement (.lit a b c) := fun _ _ _ => of_fields rfl rfl
theorem movs : ∀ a b, Statement (.movs a b) := fun _ _ => of_fields rfl rfl
theorem gets : ∀ a b c, Statement (.gets a b c) := fun _ _ _ => of_fields rfl rfl
theorem sets : ∀ a b c, Statement (.sets a b c) := fun _ _ _ => of_fields rfl rfl
theorem rngd : ∀ a b c, Statement (.rngd a b c) := fun _ _ _ => of_fields rfl rfl
theorem rngs : ∀ a b c, Statement (.rngs a b c) := fun _ _ _ => of_fields rfl rfl
theorem bxq : ∀ a b c, Statement (.bxq a b c) := fun _ _ _ => of_fields rfl rfl
theorem bxd : ∀ a b, Statement (.bxd a b) := fun _ _ => of_fields rfl rfl
theorem bxex : ∀ a b, Statement (.bxex a b) := fun _ _ => of_fields rfl rfl
theorem fadd : ∀ a b, Statement (.fadd a b) := fun _ _ => of_fields rfl rfl
theorem fsub : ∀ a b, Statement (.fsub a b) := fun _ _ => of_fields rfl rfl
theorem fmul : ∀ a b, Statement (.fmul a b) := fun _ _ => of_fields rfl rfl
theorem ffma : ∀ a b, Statement (.ffma a b) := fun _ _ => of_fields rfl rfl
theorem fmin : ∀ a b, Statement (.fmin a b) := fun _ _ => of_fields rfl rfl
theorem fmax : ∀ a b, Statement (.fmax a b) := fun _ _ => of_fields rfl rfl
theorem fset : ∀ a b, Statement (.fset a b) := fun _ _ => of_fields rfl rfl
theorem fclass : ∀ a b, Statement (.fclass a b) := fun _ _ => of_fields rfl rfl
theorem fcvt : ∀ a b, Statement (.fcvt a b) := fun _ _ => of_fields rfl rfl
theorem ftoi : ∀ a b, Statement (.ftoi a b) := fun _ _ => of_fields rfl rfl
theorem itof : ∀ a b, Statement (.itof a b) := fun _ _ => of_fields rfl rfl
theorem frnd : ∀ a b, Statement (.frnd a b) := fun _ _ => of_fields rfl rfl
theorem fdiv : ∀ a b c, Statement (.fdiv a b c) := fun _ _ _ => of_fields rfl rfl
theorem fsqrt : ∀ a b c, Statement (.fsqrt a b c) := fun _ _ _ => of_fields rfl rfl
theorem frcp : ∀ a b c, Statement (.frcp a b c) := fun _ _ _ => of_fields rfl rfl
theorem frsq : ∀ a b c, Statement (.frsq a b c) := fun _ _ _ => of_fields rfl rfl
theorem fexp2 : ∀ a b c, Statement (.fexp2 a b c) := fun _ _ _ => of_fields rfl rfl
theorem flog2 : ∀ a b c, Statement (.flog2 a b c) := fun _ _ _ => of_fields rfl rfl
theorem fsin : ∀ a b c, Statement (.fsin a b c) := fun _ _ _ => of_fields rfl rfl
theorem fcos : ∀ a b c, Statement (.fcos a b c) := fun _ _ _ => of_fields rfl rfl
theorem ftanh : ∀ a b c, Statement (.ftanh a b c) := fun _ _ _ => of_fields rfl rfl
theorem shfl : ∀ a b c, Statement (.shfl a b c) := fun _ _ _ => of_fields rfl rfl
theorem vote : ∀ a b c d, Statement (.vote a b c d) := fun _ _ _ _ => of_fields rfl rfl
theorem ballot : ∀ a b c, Statement (.ballot a b c) := fun _ _ _ => of_fields rfl rfl
theorem lred : ∀ a b c, Statement (.lred a b c) := fun _ _ _ => of_fields rfl rfl
theorem lscan : ∀ a b c, Statement (.lscan a b c) := fun _ _ _ => of_fields rfl rfl
theorem elect : ∀ a b, Statement (.elect a b) := fun _ _ => of_fields rfl rfl
theorem readl : ∀ a b c, Statement (.readl a b c) := fun _ _ _ => of_fields rfl rfl
theorem ld : ∀ a b c, Statement (.ld a b c) := fun _ _ _ => of_fields rfl rfl
theorem st : ∀ a b, Statement (.st a b) := fun _ _ => of_fields rfl rfl
theorem atom : ∀ a b c, Statement (.atom a b c) := fun _ _ _ => of_fields rfl rfl
theorem ordinit : ∀ a b, Statement (.ordinit a b) := fun _ _ => of_fields rfl rfl
theorem aaddf : ∀ a b, Statement (.aaddf a b) := fun _ _ => of_fields rfl rfl
theorem fence : ∀ a b c, Statement (.fence a b c) := fun _ _ _ => of_fields rfl rfl
theorem qfence : ∀ a b c, Statement (.qfence a b c) := fun _ _ _ => of_fields rfl rfl
theorem pref : ∀ a b c d, Statement (.pref a b c d) := fun _ _ _ _ => of_fields rfl rfl
theorem cpy : ∀ a b c, Statement (.cpy a b c) := fun _ _ _ => of_fields rfl rfl
theorem cpys : ∀ a b c, Statement (.cpys a b c) := fun _ _ _ => of_fields rfl rfl
theorem sleepto : ∀ a b, Statement (.sleepto a b) := fun _ _ => of_fields rfl rfl
theorem srput : ∀ a b c d, Statement (.srput a b c d) := fun _ _ _ _ => of_fields rfl rfl
theorem srget : ∀ a b c d e, Statement (.srget a b c d e) := fun _ _ _ _ _ => of_fields rfl rfl
theorem tbinit : ∀ a b, Statement (.tbinit a b) := fun _ _ => of_fields rfl rfl
theorem tbexp : ∀ a b, Statement (.tbexp a b) := fun _ _ => of_fields rfl rfl
theorem tbarr : ∀ a b, Statement (.tbarr a b) := fun _ _ => of_fields rfl rfl
theorem tbwait : ∀ a b, Statement (.tbwait a b) := fun _ _ => of_fields rfl rfl
theorem tbtest : ∀ a b c d, Statement (.tbtest a b c d) := fun _ _ _ _ => of_fields rfl rfl
theorem cinit : ∀ a b, Statement (.cinit a b) := fun _ _ => of_fields rfl rfl
theorem cinitCount : ∀ a b, Statement (.cinitCount a b) := fun _ _ => of_fields rfl rfl
theorem cfill : ∀ a b, Statement (.cfill a b) := fun _ _ => of_fields rfl rfl
theorem cfillCnt : ∀ a b, Statement (.cfillCnt a b) := fun _ _ => of_fields rfl rfl
theorem cwait : ∀ a b, Statement (.cwait a b) := fun _ _ => of_fields rfl rfl
theorem cequ : ∀ a b, Statement (.cequ a b) := fun _ _ => of_fields rfl rfl
theorem ctest : ∀ a b c d, Statement (.ctest a b c d) := fun _ _ _ _ => of_fields rfl rfl
theorem cpeek : ∀ a b c, Statement (.cpeek a b c) := fun _ _ _ => of_fields rfl rfl
theorem mclaim : ∀ a b, Statement (.mclaim a b) := fun _ _ => of_fields rfl rfl
theorem mrel : ∀ a b, Statement (.mrel a b) := fun _ _ => of_fields rfl rfl
theorem mld : ∀ a b, Statement (.mld a b) := fun _ _ => of_fields rfl rfl
theorem mldc : ∀ a b, Statement (.mldc a b) := fun _ _ => of_fields rfl rfl
theorem mst : ∀ a b, Statement (.mst a b) := fun _ _ => of_fields rfl rfl
theorem mzero : ∀ a b c d, Statement (.mzero a b c d) := fun _ _ _ _ => of_fields rfl rfl
theorem mma : ∀ a b, Statement (.mma a b) := fun _ _ => of_fields rfl rfl
theorem mtrn : ∀ a b, Statement (.mtrn a b) := fun _ _ => of_fields rfl rfl
theorem mprm : ∀ a b, Statement (.mprm a b) := fun _ _ => of_fields rfl rfl
theorem mred : ∀ a b, Statement (.mred a b) := fun _ _ => of_fields rfl rfl
theorem mwait : ∀ a b c, Statement (.mwait a b c) := fun _ _ _ => of_fields rfl rfl
theorem mtest : ∀ a b c, Statement (.mtest a b c) := fun _ _ _ => of_fields rfl rfl
theorem sighSrp : ∀ a b, Statement (.sighSrp a b) := fun _ _ => of_fields rfl rfl
theorem sighKey : ∀ a b, Statement (.sighKey a b) := fun _ _ => of_fields rfl rfl
theorem sigb : ∀ a b, Statement (.sigb a b) := fun _ _ => of_fields rfl rfl
theorem sigs : ∀ a b, Statement (.sigs a b) := fun _ _ => of_fields rfl rfl
theorem sigg : ∀ a b, Statement (.sigg a b) := fun _ _ => of_fields rfl rfl
theorem sigmap : ∀ a b, Statement (.sigmap a b) := fun _ _ => of_fields rfl rfl
theorem fork : ∀ a b, Statement (.fork a b) := fun _ _ => of_fields rfl rfl
theorem forkr : ∀ a b, Statement (.forkr a b) := fun _ _ => of_fields rfl rfl
theorem iter : ∀ a b c, Statement (.iter a b c) := fun _ _ _ => of_fields rfl rfl
theorem join : ∀ a, Statement (.join a) := fun _ => of_fields rfl rfl
theorem joinr : ∀ a, Statement (.joinr a) := fun _ => of_fields rfl rfl
theorem fdrop : ∀ a b, Statement (.fdrop a b) := fun _ _ => of_fields rfl rfl
theorem fdepth : ∀ a b, Statement (.fdepth a b) := fun _ _ => of_fields rfl rfl
theorem bind : ∀ a b, Statement (.bind a b) := fun _ _ => of_fields rfl rfl
theorem unbind : ∀ a, Statement (.unbind a) := fun _ => of_fields rfl rfl
theorem reconv : ∀ a, Statement (.reconv a) := fun _ => of_fields rfl rfl
theorem yield : ∀ a b, Statement (.yield a b) := fun _ _ => of_fields rfl rfl
theorem acquire : ∀ a, Statement (.acquire a) := fun _ => of_fields rfl rfl
theorem spawn : ∀ a b, Statement (.spawn a b) := fun _ _ => of_fields rfl rfl
theorem tdone : ∀ a b c, Statement (.tdone a b c) := fun _ _ _ => of_fields rfl rfl
theorem tdoneR : ∀ a, Statement (.tdoneR a) := fun _ => of_fields rfl rfl
theorem wlpush : ∀ a b, Statement (.wlpush a b) := fun _ _ => of_fields rfl rfl
theorem wlpop : ∀ a b c, Statement (.wlpop a b c) := fun _ _ _ => of_fields rfl rfl
theorem wlins : ∀ a b, Statement (.wlins a b) := fun _ _ => of_fields rfl rfl
theorem wlcnt : ∀ a b c, Statement (.wlcnt a b c) := fun _ _ _ => of_fields rfl rfl
theorem trap : ∀ a b, Statement (.trap a b) := fun _ _ => of_fields rfl rfl
theorem region : ∀ a b, Statement (.region a b) := fun _ _ => of_fields rfl rfl
theorem bkpt : ∀ a b, Statement (.bkpt a b) := fun _ _ => of_fields rfl rfl
theorem emuret : ∀ a, Statement (.emuret a) := fun _ => of_fields rfl rfl
theorem sleeptoExpiry : ∀ a, Statement (.sleeptoExpiry a) := fun _ => of_none rfl
theorem reconvTimeout : ∀ a b c, Statement (.reconvTimeout a b c) := fun _ _ _ => of_none rfl
theorem copyLanding : ∀ a b c d, Statement (.copyLanding a b c d) := fun _ _ _ _ => of_none rfl
theorem engineQueueAccept : ∀ a, Statement (.engineQueueAccept a) := fun _ => of_none rfl
theorem tileOpStart : ∀ a b, Statement (.tileOpStart a b) := fun _ _ => of_none rfl
theorem tileOpComplete : ∀ a b c, Statement (.tileOpComplete a b c) := fun _ _ _ => of_none rfl
theorem sigOpStart : ∀ a, Statement (.sigOpStart a) := fun _ => of_none rfl
theorem sigOpComplete : ∀ a, Statement (.sigOpComplete a) := fun _ => of_none rfl
theorem orderedAddArrival : ∀ a, Statement (.orderedAddArrival a) := fun _ => of_none rfl
theorem walkStep : ∀ a, Statement (.walkStep a) := fun _ => of_none rfl
theorem walkReply : ∀ a, Statement (.walkReply a) := fun _ => of_none rfl
theorem fillEvent : ∀ a, Statement (.fillEvent a) := fun _ => of_none rfl
theorem countEvent : ∀ a, Statement (.countEvent a) := fun _ => of_none rfl
theorem linkEvent : ∀ a, Statement (.linkEvent a) := fun _ => of_none rfl
theorem waitEvent : ∀ a, Statement (.waitEvent a) := fun _ => of_none rfl
theorem queryEvent : ∀ a, Statement (.queryEvent a) := fun _ => of_none rfl
theorem initEvent : ∀ a, Statement (.initEvent a) := fun _ => of_none rfl
theorem waiterRecordForward : ∀ a, Statement (.waiterRecordForward a) := fun _ => of_none rfl
theorem causalApply : ∀ a, Statement (.causalApply a) := fun _ => of_none rfl
theorem beat : Statement (.beat) := of_none rfl
theorem laneLend : ∀ a, Statement (.laneLend a) := fun _ => of_none rfl
theorem packetLookahead : ∀ a, Statement (.packetLookahead a) := fun _ => of_none rfl
theorem launchPacket : ∀ a, Statement (.launchPacket a) := fun _ => of_none rfl
theorem tasksPacket : ∀ a, Statement (.tasksPacket a) := fun _ => of_none rfl
theorem callbufPacket : ∀ a, Statement (.callbufPacket a) := fun _ => of_none rfl
theorem joinPacket : ∀ a, Statement (.joinPacket a) := fun _ => of_none rfl
theorem qfencePacket : ∀ a, Statement (.qfencePacket a) := fun _ => of_none rfl
theorem signalPacket : ∀ a, Statement (.signalPacket a) := fun _ => of_none rfl
theorem waitPacket : ∀ a, Statement (.waitPacket a) := fun _ => of_none rfl
theorem copyPacket : ∀ a, Statement (.copyPacket a) := fun _ => of_none rfl
theorem teamPlacement : Statement (.teamPlacement) := of_none rfl
theorem gangStart : ∀ a b, Statement (.gangStart a b) := fun _ _ => of_none rfl
theorem teamEnd : ∀ a, Statement (.teamEnd a) := fun _ => of_none rfl
theorem packetCompletion : ∀ a, Statement (.packetCompletion a) := fun _ => of_none rfl
theorem teamSwapOut : ∀ a, Statement (.teamSwapOut a) := fun _ => of_none rfl
theorem teamResume : ∀ a, Statement (.teamResume a) := fun _ => of_none rfl
theorem faultRecordWrite : ∀ a, Statement (.faultRecordWrite a) := fun _ => of_none rfl
theorem inval : Statement (.inval) := of_none rfl
theorem grant : Statement (.grant) := of_none rfl
theorem release : Statement (.release) := of_none rfl
theorem keyload : Statement (.keyload) := of_none rfl
theorem keyclear : Statement (.keyclear) := of_none rfl
theorem resume : Statement (.resume) := of_none rfl
theorem resumeall : Statement (.resumeall) := of_none rfl
theorem preempt : Statement (.preempt) := of_none rfl
theorem restart : Statement (.restart) := of_none rfl
theorem reset : Statement (.reset) := of_none rfl
theorem preemptDrained : ∀ a, Statement (.preemptDrained a) := fun _ => of_none rfl
theorem preemptDeadline : ∀ a, Statement (.preemptDeadline a) := fun _ => of_none rfl
theorem certify : Statement (.certify) := of_none rfl
theorem fwload : Statement (.fwload) := of_none rfl
theorem transportAck : ∀ a b c, Statement (.transportAck a b c) := fun _ _ _ => of_none rfl
theorem longLatencyCompletion : ∀ a b, Statement (.longLatencyCompletion a b) := fun _ _ => of_none rfl
theorem writeAcknowledgement : ∀ a, Statement (.writeAcknowledgement a) := fun _ => of_none rfl
theorem copyOperationStart : ∀ a b, Statement (.copyOperationStart a b) := fun _ _ => of_none rfl
theorem waitPacketQueryAttempt : ∀ a, Statement (.waitPacketQueryAttempt a) := fun _ => of_none rfl
theorem remoteAccess : ∀ a b c d e, Statement (.remoteAccess a b c d e) := fun _ _ _ _ _ => of_none rfl
theorem hostRequest : ∀ a b c, Statement (.hostRequest a b c) := fun _ _ _ => of_none rfl
theorem atsInvalidation : ∀ a b c, Statement (.atsInvalidation a b c) := fun _ _ _ => of_none rfl
theorem pageRequestResponse : ∀ a b, Statement (.pageRequestResponse a b) := fun _ _ => of_none rfl
theorem doorbell : ∀ a b c, Statement (.doorbell a b c) := fun _ _ _ => of_none rfl
theorem queueEnable : ∀ a b, Statement (.queueEnable a b) := fun _ _ => of_none rfl
theorem queueRecovery : ∀ a b, Statement (.queueRecovery a b) := fun _ _ => of_none rfl
theorem contextEnable : ∀ a, Statement (.contextEnable a) := fun _ => of_none rfl
theorem contextDisable : ∀ a, Statement (.contextDisable a) := fun _ => of_none rfl
theorem partitionWrite : ∀ a b, Statement (.partitionWrite a b) := fun _ _ => of_none rfl
theorem forcedReset : ∀ a, Statement (.forcedReset a) := fun _ => of_none rfl
theorem bellowsWrite : ∀ a, Statement (.bellowsWrite a) := fun _ => of_none rfl
theorem moduleWrite : ∀ a, Statement (.moduleWrite a) := fun _ => of_none rfl
theorem interruptMapWrite : ∀ a b, Statement (.interruptMapWrite a b) := fun _ _ => of_none rfl
theorem registerWrite : ∀ a b, Statement (.registerWrite a b) := fun _ _ => of_none rfl
theorem dramTrainingDone : ∀ a, Statement (.dramTrainingDone a) := fun _ => of_none rfl
theorem deviceReset : Statement (.deviceReset) := of_none rfl
theorem thermalThrottle : ∀ a, Statement (.thermalThrottle a) := fun _ => of_none rfl
theorem thermalShutdown : ∀ a, Statement (.thermalShutdown a) := fun _ => of_none rfl
theorem thermalRecovery : ∀ a, Statement (.thermalRecovery a) := fun _ => of_none rfl
theorem moduleUnreachable : ∀ a, Statement (.moduleUnreachable a) := fun _ => of_none rfl
theorem transportFailed : ∀ a b c, Statement (.transportFailed a b c) := fun _ _ _ => of_none rfl
theorem eccError : ∀ a b, Statement (.eccError a b) := fun _ _ => of_none rfl
theorem thermalThrottleEnd : ∀ a, Statement (.thermalThrottleEnd a) := fun _ => of_none rfl
theorem holtlinkFlitRetransmit : ∀ a, Statement (.holtlinkFlitRetransmit a) := fun _ => of_none rfl
theorem ethernetSectorRetransmit : ∀ a, Statement (.ethernetSectorRetransmit a) := fun _ => of_none rfl
theorem dramChannelCheckDone : ∀ a, Statement (.dramChannelCheckDone a) := fun _ => of_none rfl

end WordLength

end Sys2Proof.Laws
end

