-- ==== Sys2Proof/Laws/Run.lean ====
section
/-! SUPPORT. What the one frame of a thread's instruction can answer, and what going on, skipping, stalling, parking and
taking an exception leave: the lemmas to cite instead of unfolding `run`. -/

namespace Sys2Proof.Machine

/-! Going on. -/

/-- The thread `goOn` leaves. -/
def wentOn (i : Instr) (s : State) (t : Thread) (pc : DWord) : Thread :=
  { t with
    ctr := if draws i then t.ctr + 1#64 else t.ctr
    pc := pc, status := .ready s.cycle, issued := t.issued + 1, pri := 0, trail := trailOf i
    board := match lookahead i with
      | none => t.board
      | some la => t.board ++ [⟨s.serial, t.issued, la, asRegs (vwrites i), qwrite i, raisesLate i⟩] }

/-- Going on sets one thread, and takes a serial for a long-latency instruction. -/
theorem goOn_eq (i : Instr) (s : State) (p : Nat) (t : Thread) (pc : DWord) :
    goOn i s p t pc =
      { s.setThr p (wentOn i s t pc) with serial := if (lookahead i).isSome then s.serial + 1 else s.serial } := by
  unfold goOn wentOn
  cases h : lookahead i <;> simp <;> rfl

@[simp] theorem goOn_threads (i : Instr) (s : State) (p : Nat) (t : Thread) (pc : DWord) :
    (goOn i s p t pc).threads = mset s.threads p (wentOn i s t pc) := by simp [goOn_eq]
@[simp] theorem goOn_thr (i : Instr) (s : State) (p : Nat) (t : Thread) (pc : DWord) :
    (goOn i s p t pc).thr p = some (wentOn i s t pc) := by simp [State.thr]
theorem goOn_thr_ne (i : Instr) (s : State) {p q : Nat} (t : Thread) (pc : DWord) (h : q ≠ p) :
    (goOn i s p t pc).thr q = s.thr q := by simp [State.thr, mget_mset_ne _ _ h]
@[simp] theorem goOn_mem (i : Instr) (s : State) (p : Nat) (t : Thread) (pc : DWord) : (goOn i s p t pc).mem = s.mem := by
  simp [goOn_eq]
@[simp] theorem goOn_poison (i : Instr) (s : State) (p : Nat) (t : Thread) (pc : DWord) :
    (goOn i s p t pc).poison = s.poison := by simp [goOn_eq]
@[simp] theorem goOn_teams (i : Instr) (s : State) (p : Nat) (t : Thread) (pc : DWord) :
    (goOn i s p t pc).teams = s.teams := by simp [goOn_eq]
@[simp] theorem goOn_cores (i : Instr) (s : State) (p : Nat) (t : Thread) (pc : DWord) :
    (goOn i s p t pc).cores = s.cores := by simp [goOn_eq]
@[simp] theorem goOn_period (i : Instr) (s : State) (p : Nat) (t : Thread) (pc : DWord) :
    (goOn i s p t pc).period = s.period := by simp [goOn_eq]
@[simp] theorem goOn_cycle (i : Instr) (s : State) (p : Nat) (t : Thread) (pc : DWord) :
    (goOn i s p t pc).cycle = s.cycle := by simp [goOn_eq]
@[simp] theorem goOn_records (i : Instr) (s : State) (p : Nat) (t : Thread) (pc : DWord) :
    (goOn i s p t pc).records = s.records := by simp [goOn_eq]

/-- An inactive thread goes on with nothing on its scoreboard (02 R62). -/
theorem skip_eq (i : Instr) (s : State) (p : Nat) (t : Thread) :
    skip i s p t = s.setThr p
      { t with ctr := if draws i then t.ctr + 1#64 else t.ctr, pc := nextPc t.pc (parcelsOf i)
               status := .ready s.cycle, issued := t.issued + 1, pri := 0, trail := none } := rfl

/-! Taking an exception, stalling, parking, returning. -/

/-- A trap's record is held, and a thread with nothing incomplete parks (19 R396); else it waits (02 R75). -/
theorem takeTrap_eq (s : State) (p : Nat) (t : Thread) (tr : Trap) :
    takeTrap s p t tr = if t.board.isEmpty then parkTrap (produceRecord s p t tr) p t tr
      else stall (produceRecord s p t tr) p t (.trap tr) := rfl
/-- Whichever it does, it sets the thread and holds one record more. -/
theorem takeTrap_set (s : State) (p : Nat) (t : Thread) (tr : Trap) :
    takeTrap s p t tr = (produceRecord s p t tr).setThr p
      (if t.board.isEmpty then { t with status := .parked (.trap tr false), replay := true }
       else { t with status := .stalled (.trap tr) }) := by
  rw [takeTrap_eq]; split <;> rfl
@[simp] theorem produceRecord_thr (s : State) (p q : Nat) (t : Thread) (tr : Trap) :
    (produceRecord s p t tr).thr q = s.thr q := rfl
@[simp] theorem parkTrap_thr (s : State) (p : Nat) (t : Thread) (tr : Trap) :
    (parkTrap s p t tr).thr p = some { t with status := .parked (.trap tr false), replay := true } := by
  simp [parkTrap, State.thr]
theorem takeTrap_thr (s : State) (p : Nat) (t : Thread) (tr : Trap) :
    (takeTrap s p t tr).thr p = some (if t.board.isEmpty then { t with status := .parked (.trap tr false), replay := true }
      else { t with status := .stalled (.trap tr) }) := by
  rw [takeTrap_set]; simp [State.thr]
theorem takeTrap_thr_ne (s : State) {p q : Nat} (t : Thread) (tr : Trap) (h : q ≠ p) :
    (takeTrap s p t tr).thr q = s.thr q := by
  rw [takeTrap_set]; exact mget_mset_ne _ _ h
@[simp] theorem takeTrap_records (s : State) (p : Nat) (t : Thread) (tr : Trap) :
    (takeTrap s p t tr).records = (produceRecord s p t tr).records := by rw [takeTrap_set]; rfl
@[simp] theorem takeTrap_mem (s : State) (p : Nat) (t : Thread) (tr : Trap) : (takeTrap s p t tr).mem = s.mem := by
  rw [takeTrap_set]; rfl
@[simp] theorem takeTrap_poison (s : State) (p : Nat) (t : Thread) (tr : Trap) : (takeTrap s p t tr).poison = s.poison := by
  rw [takeTrap_set]; rfl
@[simp] theorem takeTrap_teams (s : State) (p : Nat) (t : Thread) (tr : Trap) : (takeTrap s p t tr).teams = s.teams := by
  rw [takeTrap_set]; rfl
@[simp] theorem takeTrap_cores (s : State) (p : Nat) (t : Thread) (tr : Trap) : (takeTrap s p t tr).cores = s.cores := by
  rw [takeTrap_set]; rfl
@[simp] theorem takeTrap_period (s : State) (p : Nat) (t : Thread) (tr : Trap) : (takeTrap s p t tr).period = s.period := by
  rw [takeTrap_set]; rfl
@[simp] theorem takeTrap_cycle (s : State) (p : Nat) (t : Thread) (tr : Trap) : (takeTrap s p t tr).cycle = s.cycle := by
  rw [takeTrap_set]; rfl
@[simp] theorem stall_mem (s : State) (p : Nat) (t : Thread) (w : Stall) : (stall s p t w).mem = s.mem := rfl
@[simp] theorem stall_period (s : State) (p : Nat) (t : Thread) (w : Stall) : (stall s p t w).period = s.period := rfl
@[simp] theorem stall_thr (s : State) (p : Nat) (t : Thread) (w : Stall) :
    (stall s p t w).thr p = some { t with status := .stalled w } := by simp [stall]
@[simp] theorem park_mem (i : Instr) (s : State) (p : Nat) (t : Thread) (w : Park) : (park i s p t w).mem = s.mem := rfl
@[simp] theorem park_period (i : Instr) (s : State) (p : Nat) (t : Thread) (w : Park) :
    (park i s p t w).period = s.period := rfl
@[simp] theorem park_thr (i : Instr) (s : State) (p : Nat) (t : Thread) (w : Park) :
    (park i s p t w).thr p = some { t with status := .parked w, npc := nextPc t.pc (parcelsOf i) } := by simp [park]
@[simp] theorem resumeAt_thr (s : State) (p : Nat) (t : Thread) (pc : DWord) :
    (resumeAt s p t pc).thr p = some { t with status := .ready s.cycle, replay := false, pc := pc, pri := 0 } := by
  simp [resumeAt]

/-! What a device keeps of a line and of its translation. -/

theorem keepTlb_frame (s : State) (core ctx : Nat) (ea : DWord) (x : DWord × Nat) :
    keepTlb s core ctx ea x = { s with tlb := (keepTlb s core ctx ea x).tlb } := by
  unfold keepTlb; split <;> rfl
theorem keepLine_frame (s : State) (core ctx : Nat) (pc : DWord) (bs : List Byte) :
    keepLine s core ctx pc bs = { s with lines := (keepLine s core ctx pc bs).lines } := by
  unfold keepLine; dsimp only; split <;> rfl
theorem keepPage_frame (s : State) (a : Nat) : keepPage s a = { s with ats := (keepPage s a).ats } := by
  unfold keepPage; dsimp only; split <;> rfl
theorem keepHost_frame (s : State) (l : List (Nat × Nat)) : keepHost s l = { s with ats := (keepHost s l).ats } := by
  unfold keepHost
  induction l.flatMap fun e => [e.1, e.1 + e.2 - 1] generalizing s with
  | nil => rfl
  | cons a r ih => rw [List.foldl_cons, ih, keepPage_frame]
theorem chargeAll_frame (s : State) (ctx : Nat) (l : List (Nat × Nat)) :
    chargeAll s ctx l = { s with ctxs := (chargeAll s ctx l).ctxs, ats := (chargeAll s ctx l).ats } := by
  unfold chargeAll; rw [keepHost_frame]; split <;> rfl
theorem keepWalk_frame (s : State) (core ctx : Nat) (ea : DWord) :
    keepWalk s core ctx ea = { s with tlb := (keepWalk s core ctx ea).tlb, ctxs := (keepWalk s core ctx ea).ctxs
                                      ats := (keepWalk s core ctx ea).ats } := by
  unfold keepWalk; split
  · rw [chargeAll_frame]
    cases entryFor s core ctx ea with
    | none => rfl
    | some x => dsimp only; rw [keepTlb_frame]
  · rfl
theorem prefTlb_frame (s : State) (core ctx : Nat) (ea : DWord) :
    prefTlb s core ctx ea = { s with tlb := (prefTlb s core ctx ea).tlb, ctxs := (prefTlb s core ctx ea).ctxs
                                     ats := (prefTlb s core ctx ea).ats } := by
  unfold prefTlb
  cases entryAnswer ea (entryFor s core ctx ea) with
  | error _ => rfl
  | ok _ =>
    dsimp only
    by_cases h : allFit s ctx (walkCost s core ctx ea) = true
    · rw [if_pos h]; exact keepWalk_frame ..
    · rw [if_neg h]
theorem prefLine_frame (s : State) (core ctx : Nat) (ea : DWord) :
    prefLine s core ctx ea = { s with lines := (prefLine s core ctx ea).lines, ctxs := (prefLine s core ctx ea).ctxs
                                      ats := (prefLine s core ctx ea).ats } := by
  unfold prefLine
  cases fetchLine s core ctx 0 ea with
  | ok bs =>
    dsimp only
    by_cases h : allFit s ctx (fetchCost s core ctx ea) = true
    · rw [if_pos h, chargeAll_frame, keepLine_frame]
    · rw [if_neg h]
  | trap _ => rfl
  | stall _ => rfl

/-! The checks. -/

theorem allotTrapOf_none_iff (i : Instr) (t : Thread) (rs : List Nat) :
    allotTrapOf i t rs = none ↔ ∀ n ∈ rs, n < t.allot := by simp [allotTrapOf]
theorem poisonTrapOf_none_iff (t : Thread) (rs : List Nat) :
    poisonTrapOf t rs = none ↔ ∀ n ∈ rs, t.isPoisoned (BitVec.ofNat 7 n) = false := by simp [poisonTrapOf]
theorem roleTrap_none_iff (s : State) (t : Thread) (i : Instr) : roleTrap s t i = none ↔ roleAdmits s t i := by
  unfold roleTrap roleAdmits
  cases roleOf i with
  | none => simp
  | some r =>
    simp only [Option.some.injEq, forall_eq']
    split
    · rename_i h; simp only [Bool.or_eq_true, beq_iff_eq] at h; simp [or_assoc] at h ⊢; exact h
    · rename_i h; simp only [Bool.or_eq_true, beq_iff_eq] at h; simp [or_assoc] at h ⊢; simp [h]

theorem Ready.poison {g : Guard} {i : Instr} {s : State} {t : Thread} (h : Ready g i s t) : poisonTrap i t = none := by
  obtain hc | ⟨_, _, _, _, rfl⟩ := h.clean
  · unfold poisonTrap
    split
    · rfl
    · exact (poisonTrapOf_none_iff _ _).2 hc
  · rfl

/-- Of a ready thread only the checks of the instruction itself are left (19 R395). -/
theorem Ready.checkAll {α : Type} {g : Guard} {i : Instr} {s : State} {t : Thread} (h : Ready g i s t)
    (first : Thread → Chk Unit) (checks : Thread → Chk α) :
    Machine.checkAll i s t first checks = (first t).bind fun _ => checks t := by
  unfold Machine.checkAll
  rw [allotTrap, (allotTrapOf_none_iff _ _ _).2 h.fits, (roleTrap_none_iff s t i).2 h.role, h.poison]
  simp only [Chk.ofTrap, Chk.bind]
  cases first t <;> simp
  cases checks t <;> rfl

/-- EVERY INSTRUCTION OF A READY THREAD is decided by its own checks. -/
theorem Ready.run {α : Type} {g : Guard} {i : Instr} {s : State} {t : Thread} (h : Ready g i s t)
    (first : Thread → Chk Unit) (checks : Thread → Chk α) (effect : Thread → α → State) :
    Machine.run g i s first checks effect =
      match (first t).bind fun _ => checks t with
      | .trap tr => .next (takeTrap s s.cur t tr)
      | .stall w => .next (stall s s.cur t w)
      | .ok x => .next (effect t x) := by
  simp only [Machine.run, h.here, active, h.on, if_true, h.checkAll]
    <;> cases (first t).bind fun _ => checks t <;> rfl

/-- With both checks passed the instruction has its effect. -/
theorem Ready.run_ok {α : Type} {g : Guard} {i : Instr} {s : State} {t : Thread} (h : Ready g i s t)
    {first : Thread → Chk Unit} {checks : Thread → Chk α} {x : α} (hf : first t = .ok ()) (hc : checks t = .ok x)
    (effect : Thread → α → State) : Machine.run g i s first checks effect = .next (effect t x) := by
  rw [h.run, hf]; simp only [Chk.bind, hc]

/-- An instruction that computes registers has its effect in every ready thread. -/
theorem Ready.runReg {g : Guard} {i : Instr} {s : State} {t : Thread} (h : Ready g i s t) (f : Thread → Thread) :
    Machine.runReg g i s f = .next (finish i s s.cur (f t)) := by
  unfold Machine.runReg
  exact h.run_ok (x := ()) rfl rfl _

/-- ALL THAT AN INSTRUCTION OF A THREAD CAN DO: go on inactive, take an exception, stall, or have its effect, its checks
passed. -/
theorem run_cases {α : Type} {g : Guard} {i : Instr} {s s' : State} {first : Thread → Chk Unit} {checks : Thread → Chk α}
    {effect : Thread → α → State} (h : run g i s first checks effect = .next s') :
    ∃ t, s.thr s.cur = some t ∧
      ((active g t = false ∧ s' = skip i s s.cur t) ∨
       (active g t = true ∧ ∃ tr, checkAll i s t first checks = .trap tr ∧ s' = takeTrap s s.cur t tr) ∨
       (active g t = true ∧ ∃ w, checkAll i s t first checks = .stall w ∧ s' = stall s s.cur t w) ∨
       (active g t = true ∧ ∃ x, checkAll i s t first checks = .ok x ∧ s' = effect t x)) := by
  unfold run at h
  split at h
  · cases h
  · rename_i t ht
    refine ⟨t, ht, ?_⟩
    split at h
    · rename_i ha
      split at h
      · rename_i tr hc
        cases h
        exact .inr (.inl ⟨ha, tr, hc, rfl⟩)
      · rename_i w hc
        cases h
        exact .inr (.inr (.inl ⟨ha, w, hc, rfl⟩))
      · rename_i x hc
        cases h
        exact .inr (.inr (.inr ⟨ha, x, hc, rfl⟩))
    · rename_i ha
      cases h
      exact .inl ⟨by simpa using ha, rfl⟩

/-- A thread instruction stops only where no thread stands. -/
theorem run_answers {α : Type} (g : Guard) (i : Instr) (s : State) (first : Thread → Chk Unit) (checks : Thread → Chk α)
    (effect : Thread → α → State) {t : Thread} (h : s.thr s.cur = some t) :
    ∃ s', run g i s first checks effect = .next s' := by
  unfold run
  rw [h]
  simp only
  split
  · split <;> exact ⟨_, rfl⟩
  · exact ⟨_, rfl⟩

/-- An inactive thread goes on (02 R62). -/
theorem run_inactive {α : Type} {g : Guard} {s : State} {t : Thread} (h : s.thr s.cur = some t)
    (ha : active g t = false) (i : Instr) (first : Thread → Chk Unit) (checks : Thread → Chk α)
    (effect : Thread → α → State) : run g i s first checks effect = .next (skip i s s.cur t) := by
  simp [run, h, ha]

/-- A register out of the allotment comes before every other check (12_execution_model.md R283). -/
theorem run_allot {α : Type} {g : Guard} {i : Instr} {s : State} {t : Thread} (h : s.thr s.cur = some t)
    (ha : active g t = true) {n : Nat} (hn : n ∈ vreads i ++ vwrites i ++ vnamed i) (hl : t.allot ≤ n)
    (first : Thread → Chk Unit) (checks : Thread → Chk α) (effect : Thread → α → State) :
    run g i s first checks effect =
      .next (takeTrap s s.cur t (mkTrap .illegalInstruction 1 0#64 (wordInfo i))) := by
  have hx : (vreads i ++ vwrites i ++ vnamed i).any (t.allot ≤ ·) = true := List.any_eq_true.2 ⟨n, hn, by simpa using hl⟩
  simp only [run, h, ha, if_true, checkAll, allotTrap, allotTrapOf, hx, Chk.ofTrap, Chk.bind]

/-- A role that may not issue the instruction comes next, when nothing of rank 1 is met (12 R282). -/
theorem run_role {α : Type} {g : Guard} {i : Instr} {s : State} {t : Thread} {tr : Trap} (h : s.thr s.cur = some t)
    (ha : active g t = true) (hl : ∀ n ∈ vreads i ++ vwrites i ++ vnamed i, n < t.allot) {first : Thread → Chk Unit}
    (hf : first t = .ok ()) (hr : roleTrap s t i = some tr) (checks : Thread → Chk α) (effect : Thread → α → State) :
    run g i s first checks effect = .next (takeTrap s s.cur t tr) := by
  simp only [run, h, ha, if_true, checkAll, allotTrap, (allotTrapOf_none_iff _ _ _).2 hl, hf, hr, Chk.ofTrap, Chk.bind]

/-! Group instructions. -/

/-- All that a group instruction can do in the thread at `s.cur`: unbound, go on or take an exception; bound, take the
allotment exception or arrive at its rendezvous. -/
theorem runGroup_cases {engine whole : Bool} {g : Guard} {i : Instr} {s s' : State}
    {perform : State → List Nat → GroupRes} {lead : State → List Nat → Chk Unit}
    (h : runGroup engine whole g i s perform lead = .next s') :
    ∃ t, s.thr s.cur = some t ∧
      ((groupMembers s t = none ∧ active g t = false ∧ s' = skip i s s.cur t) ∨
       (active g t = true ∧ ∃ tr, s' = takeTrap s s.cur t tr) ∨
       (∃ ps, groupMembers s t = some ps ∧ s' = arrive engine whole i g s ps perform lead)) := by
  unfold runGroup at h
  split at h
  · cases h
  · rename_i t ht
    refine ⟨t, ht, ?_⟩
    split at h
    · rename_i hg
      split at h
      · rename_i ha
        split at h
        · cases h
          exact .inr (.inl ⟨ha, _, rfl⟩)
        · cases h
          exact .inr (.inl ⟨ha, _, rfl⟩)
      · rename_i ha
        cases h
        exact .inl ⟨hg, by simpa using ha, rfl⟩
    · rename_i ps hg
      simp only at h
      generalize hm : (if active g t = true then allotTrapOf i t (memberReads engine i (positionIn ps s.cur) true ++
        (if engine = true then [] else vwrites i)) else none) = m at h
      cases m with
      | some tr =>
        cases h
        split at hm
        · rename_i ha
          exact .inr (.inl ⟨ha, _, rfl⟩)
        · cases hm
      | none =>
        cases h
        exact .inr (.inr ⟨ps, hg, rfl⟩)

end Sys2Proof.Machine
end

