-- ==== Sys2Proof/Tests/Slice0.lean ====
section
/-! SUPPORT. Small tests. Expected values are worked by hand from the spec's sentences, tables and examples. A test named
test_…_witness gives a state and operands that meet the hypotheses of the statement it names. -/

namespace Sys2Proof.Tests

set_option Elab.async false

open Sys2Proof Sys2Proof.Machine Sys2Proof.Legal

/-! The small states and what is asked of them. -/

/-- A guard that is always true, and one that never is. -/
def g7 : Guard := ⟨false, 7#3⟩
def gN : Guard := ⟨true, 7#3⟩
/-- One thread at place 0, alone in a team of context 0 on core 0, its pc 0x40000 at a short NOP, about to issue. -/
def base : State := State.reset.withFetchWord 32 0x70000002
/-- The thread at the current place. -/
def here (s : State) : Thread :=
  match s.thr s.cur with
  | some t => t
  | none => freshThread 0 0 none 0 0 ⟨0, 0, 0⟩ (Vector.replicate 8 0) 0
/-- A state whose current thread is changed. -/
def edit (s : State) (f : Thread → Thread) : State := s.setThr s.cur (f (here s))
/-- A state whose current thread holds the registers listed. -/
def holding (s : State) (l : List (VReg × Word)) : State := edit s fun t => l.foldl (fun t e => t.setV e.1 e.2) t
/-- The next state of an instruction. -/
def after (i : Instr) (s : State) : Option State :=
  match exec i s with
  | .next s' => some s'
  | _ => none
/-- What the thread at the current place holds after an instruction. -/
def got {α : Type} (f : Thread → α) (i : Instr) (s : State) : Option α := ((after i s).bind fun s' => s'.thr s.cur).map f
/-- Register 4 after each instruction. -/
def gives (s : State) (l : List (Instr × Word)) : Bool := l.all fun e => got (·.rv 4#7) e.1 s == some e.2
/-- Registers 4 and 5 after each instruction. -/
def gives64 (s : State) (l : List (Instr × DWord)) : Bool := l.all fun e => got (·.rv64 4#7) e.1 s == some e.2
/-- Predicate 1 after each instruction. -/
def decides (s : State) (l : List (Instr × Bool)) : Bool := l.all fun e => got (·.pred 1#3) e.1 s == some e.2
/-- Register 4 and the flags after each instruction. -/
def givesF (s : State) (l : List (Instr × Word × BitVec 5)) : Bool :=
  l.all fun e => got (fun t => (t.rv 4#7, t.fpflags)) e.1 s == some e.2
/-- The exception the current thread has taken after an instruction: cause and subcause. -/
def takes (i : Instr) (s : State) : Option (Cause × Nat) :=
  (got (fun t => match t.status with
    | .parked (.trap tr _) => some (tr.cause, tr.sub)
    | _ => none) i s).join

/-- `Ready` as a Bool. -/
def readyB (g : Guard) (i : Instr) (s : State) : Bool :=
  (s.thr s.cur).isSome && ((here s).pred g.q ^^ g.neg) &&
  (vreads i ++ vwrites i ++ vnamed i).all (decide <| · < (here s).allot) &&
  (match roleOf i with
    | none => true
    | some r => decide (threadRole s (here s) = .general) || decide (threadRole s (here s) = r) || (here s).emu.isSome) &&
  (vreads i).all fun n => (here s).isPoisoned (BitVec.ofNat 7 n) == false

theorem here_eq {s : State} (h : (s.thr s.cur).isSome = true) : s.thr s.cur = some (here s) := by
  obtain ⟨t, ht⟩ := Option.isSome_iff_exists.1 h
  simp [here, ht]

theorem ready_of {g : Guard} {i : Instr} {s : State} (h : readyB g i s = true) : Ready g i s (here s) := by
  simp only [readyB, Bool.and_eq_true, decide_eq_true_eq, List.all_eq_true, beq_iff_eq] at h
  obtain ⟨⟨⟨⟨h1, h2⟩, h3⟩, h4⟩, h5⟩ := h
  refine ⟨here_eq h1, h2, h3, ?_, .inl h5⟩
  intro r hr
  rw [hr] at h4
  simpa [or_assoc] using h4

theorem ready_all {g : Guard} {l : List Instr} {s : State} (h : l.all (fun i => readyB g i s) = true) :
    ∀ i ∈ l, Ready g i s (here s) := fun i hi => ready_of (List.all_eq_true.1 h i hi)

/-- Whether a check passes. -/
def passes {α : Type} (c : Chk α) : Bool :=
  match c with
  | .ok _ => true
  | _ => false

/-! Encoding. -/

/-- One ill-formed term for each check of `Legal`, which the check refuses. -/
theorem test_ill_formed : ([
    .iadd g7 false ⟨.n64, 3#7, .v 2#7, .reg (.v 4#7)⟩, .iadd g7 false ⟨.n64, 2#7, .v 3#7, .reg (.v 4#7)⟩,
    .iadd g7 false ⟨.n64, 2#7, .s 3#6, .reg (.v 4#7)⟩, .iadd g7 false ⟨.n32, 2#7, .sp, .reg (.v 4#7)⟩,
    .iadd g7 false ⟨.b128, 4#7, .v 8#7, .imm7 1#7⟩, .iadd g7 false ⟨.n64, 2#7, .v 4#7, .reg (.v 5#7)⟩,
    .and g7 ⟨.i32, 2#7, .v 3#7, .imm7 1#7⟩, .sar g7 ⟨.n32, 2#7, .v 3#7, .imm7 1#7⟩,
    .shl g7 ⟨.n64, 3#7, .v 2#7, .imm7 1#7⟩, .bfx g7 ⟨.n16, 2#7, .v 3#7, .imm7 1#7⟩,
    .bfi g7 ⟨.n64, 2#7, .v 4#7, .imm7 1#7, .sp⟩, .imad g7 ⟨.n64, 2#7, .v 4#7, .imm7 1#7, .v 3#7⟩,
    .iabs g7 ⟨.n32, 2#7, .v 3#7⟩, .popc g7 ⟨.i32, 2#7, .v 3#7⟩, .iset g7 ⟨.eq, .b128, .none, 0#3, .v 4#7, .imm7 0#7⟩,
    .sel g7 ⟨.i32, 2#7, .v 3#7, .imm7 0#7, 1#3⟩, .lea g7 ⟨.n64, .v 2#7, .v 4#7, .imm7 1#7, 0#3⟩,
    .lea g7 ⟨.i32, .v 3#7, .v 4#7, .imm7 1#7, 0#3⟩, .add64 g7 ⟨.i32, .v 2#7, .v 4#7, .imm7 1#7, 1#3⟩,
    .mul64 g7 ⟨.i64, 2#7, .v 4#7, .imm7 1#7⟩, .mov g7 ⟨.b128, .v 2#7, .imm7 1#7⟩, .mov g7 ⟨.n32, .sp, .imm7 1#7⟩,
    .mov g7 ⟨.b128, .v 4#7, .reg (.s 4#6)⟩, .movi g7 ⟨.n16, 2#7, 1#11⟩, .movs g7 ⟨.n64, 3#6, .imm7 1#7⟩,
    .gets g7 3#7 .chron, .sets g7 .lane 2#7, .sets g7 .stklim 3#7, .rngd g7 0#4 ⟨.n32, 2#7, .imm7 64#7⟩,
    .rngs g7 3#7 4#7, .bxex g7 ⟨false, 6#7, 2#7, 0#4, false⟩, .bxex g7 ⟨false, 8#7, 2#7, 8#4, false⟩,
    .bxex g7 ⟨true, 8#7, 2#7, 0#4, true⟩] : List Instr).all (fun i => !i.wellFormed) = true := by decide
theorem test_ill_formed_floats : ([
    .fadd g7 ⟨.e4m3, false, .rn, 2#7, .v 3#7, .reg (.v 4#7)⟩, .fadd g7 ⟨.f32, true, .rn, 2#7, .v 3#7, .reg (.v 4#7)⟩,
    .fsub g7 ⟨.f16, true, .rn, 2#7, .v 3#7, .reg (.v 4#7)⟩, .fadd g7 ⟨.f32, false, .rs, 2#7, .v 3#7, .reg (.v 4#7)⟩,
    .fmin g7 ⟨.f32, false, .rz, 2#7, .v 3#7, .reg (.v 4#7)⟩, .fadd g7 ⟨.f32, false, .rn, 2#7, .v 3#7, .imm7 1#7⟩,
    .fadd g7 ⟨.f16, false, .rn, 2#7, .v 3#7, .lit 0x10000#32⟩, .ffma g7 ⟨.f64, false, .rn, 2#7, .v 4#7, .reg (.v 6#7), .v 7#7⟩,
    .fclass g7 ⟨.f32, .rz, 2#7, .v 3#7⟩, .fset g7 ⟨.eq, .e5m2, .none, 0#3, .v 3#7, .reg (.v 4#7)⟩,
    .fcvt g7 ⟨.f32, .bf16, .rs, 2#7, .v 3#7⟩, .ftoi g7 ⟨.f32, .b128, .rn, 4#7, .v 3#7⟩, .itof g7 ⟨.e4m3, .i32, .rn, 2#7, .v 3#7⟩,
    .fdiv g7 0#4 ⟨.bf16, false, .rn, 2#7, .v 3#7, .reg (.v 4#7)⟩, .fsin g7 0#4 ⟨.f64, .rn, 2#7, .v 4#7⟩,
    .brc g7 ⟨.eq, .int .n16, 2#7, 3#7, .d18 0#18⟩, .brx g7 (.v 3#7), .shfl g7 0#4 ⟨.idx, .n32, 2#7, 3#7, .reg (.s 1#6)⟩,
    .shfl g7 0#4 ⟨.idx, .n16, 2#7, 3#7, .imm7 0#7⟩, .lred g7 0#4 ⟨.and, .flt .f32, .rn, false, 2#7, 3#7⟩,
    .lred g7 0#4 ⟨.add, .int .n32, .rz, false, 2#7, 3#7⟩, .lred g7 0#4 ⟨.add, .int .n32, .rn, true, 2#7, 3#7⟩]
    : List Instr).all (fun i => !i.wellFormed) = true := by decide
/-- A memory operand: base pair v2, no index, offset 0. -/
def at2 : MemOp := ⟨.v 2#7, false, none, 0#2, .imm7 0#7⟩
theorem test_ill_formed_memory : ([
    .ld g7 0#4 ⟨.i32, .relaxed, .th, 4#7, at2⟩, .ld g7 0#4 ⟨.n32, .rel, .th, 4#7, at2⟩, .ld g7 0#4 ⟨.n32, .relaxed, .gang, 4#7, at2⟩,
    .ld g7 0#4 ⟨.b128, .relaxed, .th, 6#7, at2⟩, .ld g7 0#4 ⟨.n32, .relaxed, .th, 4#7, { at2 with base := .v 3#7 }⟩,
    .ld g7 0#4 ⟨.n32, .relaxed, .th, 4#7, { at2 with base := .sp, win := true }⟩,
    .ld g7 0#4 ⟨.n32, .relaxed, .th, 4#7, { at2 with shift := 1#2 }⟩, .st g7 ⟨.i8, .relaxed, .th, 4#7, at2⟩,
    .st g7 ⟨.n32, .acq, .th, 4#7, at2⟩, .atom g7 0#4 ⟨.add, .n32, .relaxed, .th, 4#7, { at2 with idx := some 6#7 }, 5#7, 0#7⟩,
    .atom g7 0#4 ⟨.add, .n32, .relaxed, .th, 4#7, at2, 5#7, 1#7⟩,
    .atom g7 0#4 ⟨.cas, .n32, .relaxed, .th, 4#7, { at2 with off := .imm7 1#7 }, 5#7, 1#7⟩,
    .atom g7 0#4 ⟨.add, .n16, .relaxed, .th, 4#7, at2, 5#7, 0#7⟩, .ordinit g7 ⟨false, .rel, .th, 4#7, at2, 5#7⟩,
    .aaddf g7 ⟨false, .relaxed, .th, 5#7, at2, 6#7⟩, .fence g7 .relaxed .th, .qfence g7 .gang 0#8, .pref g7 .gang false at2,
    .cpy g7 0#4 ⟨.n16, 0#2, .gang, 4#7, at2, 6#7, false, 8#7⟩, .cpys g7 0#4 ⟨0#2, .gang, 4#7, at2, 6#7, 9#7⟩,
    .sleepto g7 ⟨.gang, 5#7, at2, 6#7⟩, .tbinit g7 ⟨.gang, 1#7, at2, 6#7⟩, .tbarr g7 ⟨.gang, 0#7, at2, 6#7⟩,
    .cfill g7 ⟨.gang, 5#7, at2, 0#7⟩, .cequ g7 ⟨.gang, 0#7, at2, 5#7⟩, .cpeek g7 0#4 ⟨.gang, 6#7, at2, 0#7⟩,
    .mld g7 ⟨0#4, 3#7, 4#7, 0#6⟩, .mldc g7 ⟨0#4, .f32, .rs, 2#7, 4#7, false, 0#11⟩, .mzero g7 0#4 true 1#11,
    .mma g7 ⟨0#4, .f32, 0#11, 0#6, 1#6, 4#7⟩, .mma g7 ⟨0#4, .bx8, 0#11, 0#6, 1#6, 2#7⟩, .mtrn g7 ⟨0#4, .f32, 0#11, 0#6, 2#7⟩,
    .mred g7 ⟨0#4, .f32, .rn, 0#11, 0#6, false, 1#7⟩, .mred g7 ⟨0#4, .f32, .rs, 0#11, 0#6, false, 0#7⟩,
    .sighSrp g7 ⟨0#4, .f16, 0#6, 4#7, 0#2, 17#5⟩, .sighKey g7 ⟨0#4, 2#7, 0#2, 4#7⟩, .sigb g7 ⟨0#4, .first, .bx8, 0#6, 8#6, 4#7, 0#2⟩,
    .sigs g7 ⟨0#4, false, true, 4#7, 0#2⟩, .sigmap g7 ⟨0#4, 2#7, 0#2⟩, .fork g7 ⟨0#3, .v 3#7, .v 4#7, 6#7⟩,
    .fork g7 ⟨0#3, .v 2#7, .v 4#7, 123#7⟩, .spawn g7 ⟨0#3, .s 3#6, 4#7⟩, .tdone g7 (.v 2#7) 3#7, .wlcnt g7 0#4 ⟨3#7, .v 4#7⟩,
    .retiredOpcodeShort g7 2#32, .retiredOpcode g7 ⟨2#2, 1#32, 0#32⟩, .reservedEncoding g7 .reserved ⟨2#2, 0#32, 0#32⟩,
    .reservedEncoding gN .lineCrossing ⟨2#2, 1#32, 0#32⟩] : List Instr).all (fun i => !i.wellFormed) = true := by decide

/-- The two parcels that hold the fields of 02 R49, Table 2, under guard q7 with lookahead 0. -/
def fields (op d a b c fmt rs tail : Nat) : List Word :=
  let w := 1 + op * 2 ^ 2 + d * 2 ^ 10 + a * 2 ^ 17 + b * 2 ^ 24 + c * 2 ^ 31 + 7 * 2 ^ 38 + fmt * 2 ^ 46 + rs * 2 ^ 50 +
    tail * 2 ^ 53
  [BitVec.ofNat 32 w, BitVec.ofNat 32 (w / 2 ^ 32)]
/-- The word that holds the fields of 02 R48, Table 1, under guard q7. -/
def short (op d a b : Nat) : List Word := [BitVec.ofNat 32 (op * 2 + d * 2 ^ 7 + a * 2 ^ 14 + b * 2 ^ 21 + 7 * 2 ^ 28)]
/-- Every word of a list decodes to the instruction beside it. -/
def reads (l : List (List Word × Instr)) : Bool :=
  l.all fun e => match decodeParcels e.1 with
    | .ok i => decide (i = e.2)
    | .error _ => false

/-- Words the spec writes out: 02 R69, 07 R187, R206, R218, 04 R108, R122, 05 R152, 08 R241, 09 R255, 13 R301, 19 R406. -/
theorem test_decode_examples : reads [
    ([0x70000704#32], .braShort g7 14#21), ([0x02020809#32, 0xFFE081F6#32], .brc g7 ⟨.lt, .int .i32, 1#7, 2#7, .d18 0x3FFEC#18⟩),
    ([0x060A1101#32, 0x040081C0#32], .fadd g7 ⟨.f16, true, .rn, 4#7, .v 5#7, .reg (.v 6#7)⟩),
    ([0x01122181#32, 0x320181C0#32], .shfl g7 0#4 ⟨.xor, .n32, 8#7, 9#7, .imm7 1#7⟩),
    ([0x000805C1#32, 0x000189C0#32], .ld g7 2#4 ⟨.n32, .relaxed, .th, 1#7, ⟨.v 4#7, false, none, 0#2, .imm7 0#7⟩⟩),
    ([0x060851E1#32, 0x204E01C4#32],
      .cpy g7 0#4 ⟨.b128, 1#2, .team, 20#7, ⟨.v 4#7, true, none, 0#2, .imm7 0#7⟩, 6#7, false, 8#7⟩),
    ([0x00141A25#32, 0x001801C0#32], .cfill g7 ⟨.sys, 6#7, ⟨.v 10#7, false, none, 0#2, .imm7 0#7⟩, 0#7⟩),
    ([0x05080E51#32, 0x0180C1C0#32], .mma g7 ⟨3#4, .bf16, 12#11, 4#6, 5#6, 0#7⟩),
    ([0x14000A85#32, 0x4800C1C4#32], .sigb g7 ⟨2#4, .mean, .bf16, 8#6, 0#6, 20#7, 1#2⟩),
    ([0x162806C5#32, 0x000001CC#32], .forkr g7 ⟨1#3, .v 20#7, .v 22#7, 24#7⟩), ([0x000002DD#32, 0x180001C0#32], .bind g7 3#2),
    ([0x00000321#32, 0x080001C0#32], .trap g7 64#11), ([0x00000325#32, 0x006001C0#32], .region g7 3#11),
    ([0x00000329#32, 0x00A001C0#32], .bkpt g7 5#11), ([0x0000032D#32, 0x000001C0#32], .emuret g7)] = true := by decide
theorem test_decode_short : reads [
    (short 1 0 0 0, .nopShort g7), (short 3 5 0 0, .callShort g7 5#21), (short 4 0 0 0, .retShort g7), (short 5 0 0 0, .exitShort g7),
    (short 6 1 2 0, .movShort g7 ⟨1#7, 2#7⟩), (short 7 1 2 3, .iaddShort g7 ⟨1#7, 2#7, 3#7⟩), (short 8 1 2 3, .isubShort g7 ⟨1#7, 2#7, 3#7⟩),
    (short 9 1 2 3, .imulShort g7 ⟨1#7, 2#7, 3#7⟩), (short 10 1 2 3, .andShort g7 ⟨1#7, 2#7, 3#7⟩), (short 11 1 2 3, .orShort g7 ⟨1#7, 2#7, 3#7⟩),
    (short 12 1 2 3, .xorShort g7 ⟨1#7, 2#7, 3#7⟩), (short 13 1 2 3, .shlShort g7 ⟨1#7, 2#7, 3#7⟩), (short 14 1 2 3, .shrShort g7 ⟨1#7, 2#7, 3#7⟩),
    (short 15 1 2 3, .sarShort g7 ⟨1#7, 2#7, 3#7⟩), (short 16 1 2 3, .iminShort g7 ⟨1#7, 2#7, 3#7⟩), (short 17 1 2 3, .imaxShort g7 ⟨1#7, 2#7, 3#7⟩),
    (short 18 1 2 3, .faddShort g7 ⟨1#7, 2#7, 3#7⟩), (short 19 1 2 3, .fsubShort g7 ⟨1#7, 2#7, 3#7⟩), (short 20 1 2 3, .fmulShort g7 ⟨1#7, 2#7, 3#7⟩),
    (short 21 1 2 3, .ffmaShort g7 ⟨1#7, 2#7, 3#7⟩), (short 22 1 2 3, .fminShort g7 ⟨1#7, 2#7, 3#7⟩), (short 23 1 2 3, .fmaxShort g7 ⟨1#7, 2#7, 3#7⟩),
    (short 24 1 2 3, .pandShort g7 1#3 2#3 3#3), (short 25 1 2 3, .porShort g7 1#3 2#3 3#3), (short 26 1 2 3, .pxorShort g7 1#3 2#3 3#3),
    (short 27 1 2 0, .pnotShort g7 1#3 2#3), (short 28 1 2 0, .pmovShort g7 1#3 2#3),
    ([0x7000007C#32], .retiredOpcodeShort g7 0x7000007C#32), (fields 0xF2 1 2 3 4 5 6 7, .retiredOpcode g7 ⟨2#2, 0x030407C9#32, 0x00F941C2#32⟩),
    ([0x70000000#32], .reservedEncoding g7 .reserved ⟨1#2, 0x70000000#32, 0#32⟩),
    ([0x90000002#32], .nopShort ⟨true, 1#3⟩)] = true := by decide
theorem test_decode_control : reads [
    (fields 0x00 0 0 0 0 0 0 0, .nop g7), (fields 0x01 5 0 0 0 0 0 0, .bra g7 (.d28 5#28)), (fields 0x04 6 0 0 0 0 0 0, .call g7 (.d28 6#28)),
    ([0x00000007#32, 0x000001C0#32, 0xFFFFFFFF#32], .bra g7 (.d32 0xFFFFFFFF#32)), (fields 0x03 0 64 0 0 0 0 1, .brx g7 .sp),
    (fields 0x05 0 65 0 0 0 0 1, .callx g7 .ln), (fields 0x06 0 0 0 0 0 0 0, .ret g7), (fields 0x07 0 0 0 0 0 0 0, .exit g7),
    (fields 0x08 1 2 3 0 0 0 (64 * 1), .pand g7 ⟨1#3, 2#3, 3#3, true, false⟩), (fields 0x09 1 2 3 0 0 0 (64 * 2), .por g7 ⟨1#3, 2#3, 3#3, false, true⟩),
    (fields 0x0A 1 2 3 0 0 0 0, .pxor g7 ⟨1#3, 2#3, 3#3, false, false⟩), (fields 0x0B 1 2 0 0 0 0 64, .pnot g7 ⟨1#3, 2#3, true⟩),
    (fields 0x0C 1 2 0 0 0 0 0, .pmov g7 ⟨1#3, 2#3, false⟩), (fields 0x0D 9 0 0 0 0 0 0, .ppack g7 9#7), (fields 0x0E 0 9 0 0 0 0 0, .punpk g7 9#7),
    (fields 0x0F 1 2 127 5 6 0 16, .sel g7 ⟨.n32, 1#7, .v 2#7, .imm7 127#7, 5#3⟩)] = true := by decide
theorem test_decode_integer : reads [
    (fields 0x10 1 2 3 0 2 0 64, .iadd g7 true ⟨.i32, 1#7, .v 2#7, .reg (.v 3#7)⟩), (fields 0x11 1 2 3 0 0 0 0, .isub g7 false ⟨.i8, 1#7, .v 2#7, .reg (.v 3#7)⟩),
    (fields 0x12 1 63 3 0 4 0 1, .imul g7 ⟨.n8, 1#7, .s 63#6, .reg (.v 3#7)⟩), (fields 0x13 2 4 6 0 7 0 2, .imulh g7 ⟨.n64, 2#7, .v 4#7, .reg (.s 6#6)⟩),
    (fields 0x14 1 2 3 4 1 0 4, .imad g7 ⟨.i16, 1#7, .v 2#7, .reg (.v 3#7), .s 4#6⟩), (fields 0x15 1 2 3 0 5 0 0, .idiv g7 0#4 ⟨.n16, 1#7, .v 2#7, .reg (.v 3#7)⟩),
    (fields 0x16 1 2 3 0 6 0 0, .irem g7 0#4 ⟨.n32, 1#7, .v 2#7, .reg (.v 3#7)⟩), (fields 0x17 2 4 6 0 3 0 0, .imin g7 ⟨.i64, 2#7, .v 4#7, .reg (.v 6#7)⟩),
    (fields 0x18 1 2 3 0 2 0 0, .imax g7 ⟨.i32, 1#7, .v 2#7, .reg (.v 3#7)⟩), (fields 0x19 1 2 0 0 2 0 0, .iabs g7 ⟨.i32, 1#7, .v 2#7⟩),
    (fields 0x1A 1 2 0 0 6 0 0, .ineg g7 ⟨.n32, 1#7, .v 2#7⟩), (fields 0x1B 1 2 3 4 2 0 (64 * (2 + 2 * 8)), .iset g7 ⟨.lt, .i32, .or 4#3, 1#3, .v 2#7, .reg (.v 3#7)⟩),
    (fields 0x1C 64 64 3 0 6 0 (1 + 8 + 64 * 3), .lea g7 ⟨.n32, .sp, .sp, .reg (.v 3#7), 3#3⟩), (fields 0x1D 2 65 4 0 3 0 1, .add64 g7 ⟨.i64, .v 2#7, .ln, .reg (.v 4#7), 0#3⟩),
    (fields 0x1E 2 4 1 0 2 0 16, .sub64 g7 ⟨.i32, .v 2#7, .v 4#7, .imm7 1#7, 0#3⟩), (fields 0x1F 2 4 5 0 6 0 0, .mul64 g7 ⟨.n32, 2#7, .v 4#7, .reg (.v 5#7)⟩),
    (fields 0x20 1 2 3 0 6 0 0, .and g7 ⟨.n32, 1#7, .v 2#7, .reg (.v 3#7)⟩), (fields 0x21 1 2 3 0 6 0 0, .or g7 ⟨.n32, 1#7, .v 2#7, .reg (.v 3#7)⟩),
    (fields 0x22 1 2 3 0 6 0 0, .xor g7 ⟨.n32, 1#7, .v 2#7, .reg (.v 3#7)⟩), (fields 0x23 1 2 0 0 4 0 0, .not g7 ⟨.n8, 1#7, .v 2#7⟩),
    (fields 0x24 1 2 3 0 6 0 0, .shl g7 ⟨.n32, 1#7, .v 2#7, .reg (.v 3#7)⟩), (fields 0x25 2 4 3 0 7 0 0, .shr g7 ⟨.n64, 2#7, .v 4#7, .reg (.v 3#7)⟩),
    (fields 0x26 1 2 3 0 2 0 0, .sar g7 ⟨.i32, 1#7, .v 2#7, .reg (.v 3#7)⟩), (fields 0x27 1 2 3 0 6 0 0, .rol g7 ⟨.n32, 1#7, .v 2#7, .reg (.v 3#7)⟩),
    (fields 0x28 1 2 3 0 2 0 0, .bfx g7 ⟨.i32, 1#7, .v 2#7, .reg (.v 3#7)⟩), (fields 0x29 1 2 3 4 6 0 0, .bfi g7 ⟨.n32, 1#7, .v 2#7, .reg (.v 3#7), .v 4#7⟩),
    (fields 0x2A 1 2 0 0 7 0 0, .popc g7 ⟨.n64, 1#7, .v 2#7⟩), (fields 0x2B 1 2 0 0 6 0 0, .clz g7 ⟨.n32, 1#7, .v 2#7⟩),
    (fields 0x2C 1 2 0 0 6 0 0, .ctz g7 ⟨.n32, 1#7, .v 2#7⟩), (fields 0x2D 1 2 0 0 6 0 0, .brev g7 ⟨.n32, 1#7, .v 2#7⟩)] = true := by decide
theorem test_decode_moves : reads [
    (fields 0x30 4 8 0 0 8 0 0, .mov g7 ⟨.b128, .v 4#7, .reg (.v 8#7)⟩), (fields 0x30 65 0 5 0 7 0 24, .mov g7 ⟨.n64, .ln, .imm7 5#7⟩),
    (fields 0x31 1 0 0 0 2 0 2047, .movi g7 ⟨.i32, 1#7, 2047#11⟩), ([0x00001CCB#32, 0x000001C0#32, 0x3F800000#32], .lit g7 7#7 0x3F800000#32),
    (fields 0x33 5 2 0 0 6 0 8, .movs g7 ⟨.n32, 5#6, .reg (.v 2#7)⟩), (fields 0x34 2 8 0 0 0 0 0, .gets g7 2#7 .energy), (fields 0x35 9 2 0 0 0 0 0, .sets g7 .fpflags 2#7),
    (fields 0x36 1 0 63 0 6 0 16, .rngd g7 0#4 ⟨.n32, 1#7, .imm7 63#7⟩), (fields 0x37 0 2 4 0 7 0 0, .rngs g7 2#7 4#7),
    (fields 0x38 1 2 3 0 6 0 64, .bxq g7 0#4 ⟨false, true, 1#7, 2#7, 3#7⟩), (fields 0x39 1 2 3 0 7 0 0, .bxd g7 ⟨true, false, 1#7, 2#7, 3#7⟩),
    (fields 0x3A 8 2 0 0 6 0 (64 * (5 + 16)), .bxex g7 ⟨false, 8#7, 2#7, 5#4, true⟩)] = true := by decide
theorem test_decode_float : reads [
    (fields 0x40 1 2 3 0 1 1 0, .fadd g7 ⟨.f32, false, .rz, 1#7, .v 2#7, .reg (.v 3#7)⟩), (fields 0x41 2 4 6 0 0 2 0, .fsub g7 ⟨.f64, false, .ru, 2#7, .v 4#7, .reg (.v 6#7)⟩),
    (fields 0x42 1 2 3 0 3 3 32, .fmul g7 ⟨.bf16, true, .rd, 1#7, .v 2#7, .reg (.v 3#7)⟩), ([0x8C16290D#32, 0x000041C6#32], .ffma g7 ⟨.f32, false, .rn, 10#7, .v 11#7, .reg (.v 12#7), .v 13#7⟩),
    (fields 0x44 1 2 3 0 1 0 0, .fmin g7 ⟨.f32, false, .rn, 1#7, .v 2#7, .reg (.v 3#7)⟩), (fields 0x45 1 2 3 0 2 0 0, .fmax g7 ⟨.f16, false, .rn, 1#7, .v 2#7, .reg (.v 3#7)⟩),
    (fields 0x46 1 2 3 4 1 0 (64 * (5 + 8)), .fset g7 ⟨.ge, .f32, .and 4#3, 1#3, .v 2#7, .reg (.v 3#7)⟩), (fields 0x47 1 2 0 0 4 0 0, .fclass g7 ⟨.e4m3, .rn, 1#7, .v 2#7⟩),
    (fields 0x48 1 2 0 0 5 4 (64 * 1), .fcvt g7 ⟨.e5m2, .f32, .rs, 1#7, .v 2#7⟩), (fields 0x49 2 3 0 0 1 1 (64 * 7), .ftoi g7 ⟨.f32, .n64, .rz, 2#7, .v 3#7⟩),
    (fields 0x4A 1 2 0 0 1 0 0, .itof g7 ⟨.f32, .i8, .rn, 1#7, .v 2#7⟩), (fields 0x4B 1 2 0 0 1 2 0, .frnd g7 ⟨.f32, .ru, 1#7, .v 2#7⟩),
    (fields 0x50 1 2 3 0 1 0 0, .fdiv g7 0#4 ⟨.f32, false, .rn, 1#7, .v 2#7, .reg (.v 3#7)⟩), (fields 0x51 1 2 0 0 1 0 0, .fsqrt g7 0#4 ⟨.f32, .rn, 1#7, .v 2#7⟩),
    (fields 0x52 1 2 0 0 1 0 0, .frcp g7 0#4 ⟨.f32, .rn, 1#7, .v 2#7⟩), (fields 0x53 1 2 0 0 1 0 0, .frsq g7 0#4 ⟨.f32, .rn, 1#7, .v 2#7⟩),
    (fields 0x54 1 2 0 0 1 0 0, .fexp2 g7 0#4 ⟨.f32, .rn, 1#7, .v 2#7⟩), (fields 0x55 1 2 0 0 1 0 0, .flog2 g7 0#4 ⟨.f32, .rn, 1#7, .v 2#7⟩),
    (fields 0x56 1 2 0 0 1 0 0, .fsin g7 0#4 ⟨.f32, .rn, 1#7, .v 2#7⟩), (fields 0x57 1 2 0 0 1 0 0, .fcos g7 0#4 ⟨.f32, .rn, 1#7, .v 2#7⟩),
    (fields 0x58 1 2 0 0 2 0 0, .ftanh g7 0#4 ⟨.f16, .rn, 1#7, .v 2#7⟩)] = true := by decide
theorem test_decode_cross_lane : reads [
    (fields 0x61 1 2 0 0 0 0 (64 * 4), .vote g7 .uni 1#3 2#3), (fields 0x62 9 2 0 0 0 0 0, .ballot g7 9#7 2#3),
    (fields 0x63 1 2 0 0 1 1 64, .lred g7 0#4 ⟨.add, .flt .f32, .rz, false, 1#7, 2#7⟩), (fields 0x63 2 4 0 0 7 0 (64 * 10), .lred g7 0#4 ⟨.xor, .int .n64, .rn, false, 2#7, 4#7⟩),
    (fields 0x64 1 2 0 0 2 0 (64 * 18), .lscan g7 0#4 ⟨.min, .int .i32, .rn, true, 1#7, 2#7⟩), (fields 0x65 1 0 0 0 0 0 0, .elect g7 1#3),
    (fields 0x66 1 2 3 0 6 0 0, .readl g7 0#4 ⟨.n32, 1#7, 2#7, .reg (.v 3#7)⟩)] = true := by decide
/-- The memory operand of the words below: base pair v2, offset 4. -/
def off4 : MemOp := ⟨.v 2#7, false, none, 0#2, .imm7 4#7⟩
theorem test_decode_memory : reads [
    (fields 0x70 1 2 5 4 4 4 (2 + 4 * 3 + 16 + 32), .ld g7 0#4 ⟨.n8, .acq, .dev, 1#7, ⟨.v 2#7, true, some 5#7, 3#2, .imm7 4#7⟩⟩),
    (fields 0x71 4 64 0 4 8 0 1, .st g7 ⟨.b128, .relaxed, .th, 4#7, { off4 with base := .sp }⟩),
    (fields 0x72 1 2 5 6 6 4 (32 * 3 + 256 * 7), .atom g7 0#4 ⟨.cas, .n32, .acqrel, .dev, 1#7, at2, 5#7, 6#7⟩),
    (fields 0x73 1 2 5 4 6 4 0, .ordinit g7 ⟨false, .relaxed, .dev, 1#7, off4, 5#7⟩), (fields 0x74 4 2 6 4 7 4 64, .aaddf g7 ⟨true, .rel, .dev, 4#7, off4, 6#7⟩),
    (fields 0x75 0 0 0 0 0 4 (32 * 4), .fence g7 .sc .dev), (fields 0x76 3 1 0 0 0 4 0, .qfence g7 .dev 0x83#8), (fields 0x77 0 2 0 4 0 0 256, .pref g7 .th true off4),
    (fields 0x79 4 2 6 8 0 3 (256 * 3), .cpys g7 0#4 ⟨3#2, .team, 4#7, at2, 6#7, 8#7⟩), (fields 0x7A 4 2 6 4 0 3 0, .sleepto g7 ⟨.team, 4#7, off4, 6#7⟩),
    (fields 0x7B 9 0 0 0 0 3 (256 * 5), .srput g7 .team 5#3 9#7), (fields 0x7C 9 0 0 0 0 3 (256 * 5), .srget g7 0#4 .team 5#3 9#7),
    (fields 0x80 0 2 6 4 0 3 0, .tbinit g7 ⟨.team, 0#7, off4, 6#7⟩), (fields 0x81 0 2 6 4 0 3 0, .tbexp g7 ⟨.team, 0#7, off4, 6#7⟩),
    (fields 0x82 0 2 0 4 0 3 0, .tbarr g7 ⟨.team, 0#7, off4, 0#7⟩), (fields 0x83 0 2 6 4 0 3 0, .tbwait g7 ⟨.team, 0#7, off4, 6#7⟩),
    (fields 0x84 1 2 6 4 0 3 0, .tbtest g7 0#4 1#3 ⟨.team, 0#7, off4, 6#7⟩), (fields 0x88 0 2 0 4 0 4 0, .cinit g7 ⟨.dev, 0#7, off4, 0#7⟩),
    (fields 0x88 6 2 0 4 0 4 256, .cinitCount g7 ⟨.dev, 6#7, off4, 0#7⟩), (fields 0x89 6 2 0 4 0 4 256, .cfillCnt g7 ⟨.dev, 6#7, off4, 0#7⟩),
    (fields 0x8A 6 2 0 4 0 4 0, .cwait g7 ⟨.dev, 6#7, off4, 0#7⟩), (fields 0x8B 0 2 6 4 0 4 0, .cequ g7 ⟨.dev, 0#7, off4, 6#7⟩),
    (fields 0x8C 6 2 1 4 0 4 0, .ctest g7 0#4 1#3 ⟨.dev, 6#7, off4, 0#7⟩), (fields 0x8D 8 2 0 4 0 4 0, .cpeek g7 0#4 ⟨.dev, 8#7, off4, 0#7⟩)] = true := by decide
theorem test_decode_engines : reads [
    (fields 0x90 0 9 0 0 0 0 0, .mclaim g7 9#6), (fields 0x91 0 9 0 0 0 0 0, .mrel g7 9#6), (fields 0x92 1 2 4 9 0 0 0, .mld g7 ⟨1#4, 2#7, 4#7, 9#6⟩),
    (fields 0x93 1 0 0 1 0 0 6, .mzero g7 1#4 true 6#11), (fields 0x95 1 9 0 3 2 0 6, .mtrn g7 ⟨1#4, .f16, 6#11, 9#6, 3#7⟩),
    (fields 0x96 1 9 5 1 1 0 6, .mprm g7 ⟨1#4, .f32, 6#11, 9#6, 5#7, 1#7⟩), (fields 0x97 1 9 1 1 1 2 6, .mred g7 ⟨1#4, .f32, .ru, 6#11, 9#6, true, 1#7⟩),
    (fields 0x98 1 2 4 0 2 4 6, .mst g7 ⟨1#4, .f16, .rs, 2#7, 4#7, false, 6#11⟩), (fields 0x99 1 2 4 1 0 1 6, .mldc g7 ⟨1#4, .f64, .rz, 2#7, 4#7, true, 6#11⟩),
    (fields 0x9A 4 1 0 0 0 0 0, .mwait g7 4#7 1#4), (fields 0x9B 4 1 0 0 0 0 0, .mtest g7 4#3 1#4),
    (fields 0xA0 1 9 4 16 2 0 (64 * 2), .sighSrp g7 ⟨1#4, .f16, 9#6, 4#7, 2#2, 16#5⟩), (fields 0xA0 1 0 4 8 0 0 (64 * (1 + 4)), .sighKey g7 ⟨1#4, 4#7, 1#2, 8#7⟩),
    (fields 0xA2 1 0 4 0 1 0 (64 * 3), .sigs g7 ⟨1#4, false, false, 4#7, 3#2⟩), (fields 0xA3 1 0 4 0 0 0 (64 * (3 + 4)), .sigg g7 ⟨1#4, true, true, 4#7, 3#2⟩),
    (fields 0xA4 1 0 4 0 0 0 0, .sigmap g7 ⟨1#4, 4#7, 0#2⟩)] = true := by decide
theorem test_decode_threads : reads [
    (fields 0xB0 1 20 22 24 0 0 3, .fork g7 ⟨1#3, .s 20#6, .s 22#6, 24#7⟩), (fields 0xB2 5 0 1 0 0 0 0, .iter g7 1#3 5#7), (fields 0xB3 0 0 0 0 0 0 0, .join g7),
    (fields 0xB4 0 0 0 0 0 0 0, .joinr g7), (fields 0xB5 1 0 0 0 0 0 0, .fdrop g7 1#3), (fields 0xB6 9 0 0 0 0 0 0, .fdepth g7 9#7), (fields 0xB8 0 0 0 0 0 0 0, .unbind g7),
    (fields 0xB9 0 0 0 0 0 0 0, .reconv g7), (fields 0xBA 0 0 0 0 0 0 64, .yield g7 true), (fields 0xBB 0 0 0 0 0 0 0, .acquire g7),
    (fields 0xBC 1 2 5 0 0 0 0, .spawn g7 ⟨1#3, .v 2#7, 5#7⟩), (fields 0xBD 0 2 4 0 0 0 0, .tdone g7 (.v 2#7) 4#7), (fields 0xBD 0 0 0 0 0 0 64, .tdoneR g7),
    (fields 0xC0 1 2 5 0 0 0 0, .wlpush g7 ⟨1#3, .v 2#7, 5#7⟩), (fields 0xC1 5 2 1 0 0 0 0, .wlpop g7 0#4 ⟨1#3, 5#7, .v 2#7⟩),
    (fields 0xC2 1 2 5 0 0 0 0, .wlins g7 ⟨1#3, .v 2#7, 5#7⟩), (fields 0xC3 4 2 0 0 0 0 0, .wlcnt g7 0#4 ⟨4#7, .v 2#7⟩)] = true := by decide
/-- Words that 02 R63 reserves: a reserved opcode, format, rounding, ordering and comparison, an unused field, an odd pair, a
uniform bit, a lookahead and a literal that the entry does not admit; and a word past parcel 14 of its line (R47). -/
theorem test_decode_reserved : ([fields 0x2E 0 0 0 0 0 0 0, fields 0x10 1 2 3 0 9 0 0, fields 0x40 1 2 3 0 1 5 0, fields 0x71 4 2 0 0 6 0 32,
    fields 0x1B 1 2 3 0 2 0 (64 * 6), fields 0x00 1 0 0 0 0 0 0, fields 0x10 3 2 4 0 3 0 0, fields 0x44 1 2 3 0 1 0 4,
    fields 0x10 1 2 0x7F 0 2 0 (16 + 2), fields 0xD0 0 0 0 0 0 0 0, [0x00000003#32, 0x000001C0#32, 0#32],
    [0x00001CC9#32, 0x000001C0#32], [BitVec.ofNat 32 (0x10 * 4 + 1), 0x000085C0#32]] : List (List Word)).all (fun w =>
      match decodeParcels w with
      | .ok (.reservedEncoding _ .reserved _) => true
      | _ => false) = true := by decide
/-- The fates of words: hypotheses of DecodeOfEncode and WordsAreExact, and a word of two parcels at parcel 14. -/
theorem test_words_witness : isWord (Decode.word 0x8C16290D#32 0x000041C6#32 0#32) = true ∧
    isWord (Decode.word 0x7000007C#32 0#32 0#32) = true ∧ isWord (Decode.word 0x000003C9#32 0x000001C0#32 0#32) = true ∧
    (Decode.word 0x8C16290D#32 0x000041C6#32 0#32).wellFormed = true ∧
    15 < 14 + Decode.parcelCount 0x8C16290D#32 ∧ decodeAt 14 0x8C16290D#32 0x000041C6#32 0#32 =
      .reservedEncoding g7 .lineCrossing ⟨2#2, 0x8C16290D#32, 0x000041C6#32⟩ ∧
    isWord (decodeAt 13 0x8C16290D#32 0x000041C6#32 0#32) = true := by decide

/-! The step, and instructions whose effect lies in registers. -/

/-- StepRunsDecoded: the base state, whose thread is about to issue the NOP at 0x40000. -/
theorem test_step_witness : base.agenda = [] ∧ base.issue = [0] ∧ (base.thr 0).isSome = true ∧
    (here base).status = .ready 0 ∧ (here base).ending = false ∧ mayIssue { base with issue := [] } 0 (here base) = true ∧
    passes (fetchLine { base with issue := [] } 0 0 0 0x40000#64) = true := by decide +kernel
theorem test_step_nop : (match step base with
    | .next s => (s.thr 0).map fun t => (t.pc, t.issued)
    | _ => none) = some (0x40004#64, 1) := by decide +kernel
theorem test_agenda_witness : isEvent .beat = true ∧ ({ base with agenda := [.beat] } : State).agenda = [.beat] := by decide +kernel
/-- GoingOn: the last parcel of a line, the one before it, and a long-latency instruction's entry on the scoreboard. -/
theorem test_next_pc : nextPc 0x38#64 1 = 0x40#64 ∧ nextPc 0x34#64 1 = 0x38#64 ∧ nextPc 0x30#64 3 = 0x40#64 ∧
    nextPc 0x34#64 2 = 0x40#64 ∧ lookahead (.idiv g7 3#4 ⟨.i32, 4#7, .v 8#7, .imm7 2#7⟩) = some 3 ∧ lookahead (.nop g7) = none := by decide +kernel
/-- RegisterResult (06 R158): a pair, a signed byte, an unsigned byte. -/
theorem test_register_result : ((here base).setI .n64 4#7 0x1_0000_0002).rv64 4#7 = 0x1_0000_0002#64 ∧
    ((here base).setI .i8 4#7 0x80).rv 4#7 = 0xFFFFFF80#32 ∧ ((here base).setI .n8 4#7 0x180).rv 4#7 = 0x80#32 ∧
    (4#7).getLsbD 0 = false := by decide +kernel

/-- v8 = 7, v9 = -3, v10 = -2^31, v12 = 0x201, v14:v15 = 2^40 + 1, v6:v7 = 3. -/
def ints : State := holding base [(8#7, 7#32), (9#7, 0xFFFFFFFD#32), (10#7, 0x80000000#32), (12#7, 0x201#32), (14#7, 1#32),
  (15#7, 0x100#32), (6#7, 3#32)]
/-- MNEMONIC.fmt v4, va, vb. -/
def a3 (f : IFmt) (a b : VReg) : Alu3 := ⟨f, 4#7, .v a, .reg (.v b)⟩
def i3 (f : IFmt) (a : VReg) (b : BitVec 7) : Alu3 := ⟨f, 4#7, .v a, .imm7 b⟩
/-- The integer forms of one register and their results by 07 Table 2 and R195 to R198. -/
def intCases : List (Instr × Word) := [
  (.iadd g7 false (a3 .i32 8#7 9#7), 4#32), (.iadd g7 false (i3 .i32 10#7 127#7), 0x7FFFFFFF#32), (.iadd g7 true (i3 .i32 10#7 127#7), 0x80000000#32),
  (.isub g7 false (i3 .n8 8#7 9#7), 0xFE#32), (.isub g7 false (i3 .i8 8#7 9#7), 0xFFFFFFFE#32), (.isub g7 true (i3 .n32 8#7 9#7), 0#32),
  (.imul g7 (a3 .i32 8#7 9#7), 0xFFFFFFEB#32), (.imulh g7 (a3 .i32 10#7 9#7), 1#32), (.imulh g7 (a3 .n32 10#7 9#7), 0x7FFFFFFE#32),
  (.imad g7 ⟨.i32, 4#7, .v 8#7, .reg (.v 9#7), .v 8#7⟩, 0xFFFFFFF2#32),
  (.idiv g7 0#4 (i3 .i32 9#7 2#7), 0xFFFFFFFF#32), (.irem g7 0#4 (i3 .i32 9#7 2#7), 0xFFFFFFFF#32),
  (.idiv g7 0#4 (i3 .i32 8#7 0#7), 0xFFFFFFFF#32), (.idiv g7 0#4 (i3 .i32 9#7 0#7), 1#32), (.idiv g7 0#4 (i3 .n32 8#7 0#7), 0xFFFFFFFF#32),
  (.irem g7 0#4 (i3 .i32 9#7 0#7), 0xFFFFFFFD#32), (.idiv g7 0#4 (i3 .i32 10#7 127#7), 0x80000000#32), (.irem g7 0#4 (i3 .i32 10#7 127#7), 0#32),
  (.imin g7 (a3 .i32 8#7 9#7), 0xFFFFFFFD#32), (.imin g7 (a3 .n32 8#7 9#7), 7#32), (.imax g7 (a3 .n32 8#7 9#7), 0xFFFFFFFD#32),
  (.iabs g7 ⟨.i32, 4#7, .v 10#7⟩, 0x80000000#32), (.iabs g7 ⟨.i32, 4#7, .v 9#7⟩, 3#32), (.ineg g7 ⟨.i32, 4#7, .v 8#7⟩, 0xFFFFFFF9#32),
  (.sel g7 ⟨.n32, 4#7, .v 8#7, .reg (.v 9#7), 0#3⟩, 0xFFFFFFFD#32), (.sel g7 ⟨.n32, 4#7, .v 8#7, .reg (.v 9#7), 7#3⟩, 7#32),
  (.and g7 (a3 .n32 8#7 9#7), 5#32), (.or g7 (a3 .n32 8#7 9#7), 0xFFFFFFFF#32), (.xor g7 (a3 .n32 8#7 9#7), 0xFFFFFFFA#32), (.not g7 ⟨.n8, 4#7, .v 8#7⟩, 0xF8#32),
  (.shl g7 (i3 .n32 8#7 1#7), 14#32), (.shl g7 (i3 .n32 8#7 32#7), 0#32), (.shr g7 (i3 .n32 10#7 31#7), 1#32), (.sar g7 (i3 .i32 10#7 40#7), 0xFFFFFFFF#32),
  (.rol g7 (i3 .n32 10#7 33#7), 1#32), (.bfx g7 (a3 .i32 9#7 12#7), 0xFFFFFFFE#32), (.bfx g7 (a3 .n32 9#7 12#7), 2#32), (.bfx g7 (i3 .i32 9#7 0#7), 0#32),
  (.bfi g7 ⟨.n32, 4#7, .v 8#7, .reg (.v 9#7), .v 12#7⟩, 3#32), (.popc g7 ⟨.n32, 4#7, .v 9#7⟩, 31#32), (.clz g7 ⟨.n32, 4#7, .v 8#7⟩, 29#32),
  (.ctz g7 ⟨.n32, 4#7, .v 11#7⟩, 32#32), (.ctz g7 ⟨.n32, 4#7, .v 10#7⟩, 31#32), (.brev g7 ⟨.n32, 4#7, .v 8#7⟩, 0xE0000000#32),
  (.iaddShort g7 ⟨4#7, 8#7, 9#7⟩, 4#32), (.isubShort g7 ⟨4#7, 8#7, 9#7⟩, 10#32), (.imulShort g7 ⟨4#7, 8#7, 9#7⟩, 0xFFFFFFEB#32),
  (.iminShort g7 ⟨4#7, 8#7, 9#7⟩, 0xFFFFFFFD#32), (.imaxShort g7 ⟨4#7, 8#7, 9#7⟩, 7#32), (.andShort g7 ⟨4#7, 8#7, 9#7⟩, 5#32),
  (.orShort g7 ⟨4#7, 8#7, 9#7⟩, 0xFFFFFFFF#32), (.xorShort g7 ⟨4#7, 8#7, 9#7⟩, 0xFFFFFFFA#32), (.shlShort g7 ⟨4#7, 8#7, 12#7⟩, 14#32),
  (.shrShort g7 ⟨4#7, 8#7, 12#7⟩, 3#32), (.sarShort g7 ⟨4#7, 10#7, 12#7⟩, 0xC0000000#32), (.movShort g7 ⟨4#7, 8#7⟩, 7#32),
  (.mov g7 ⟨.n8, .v 4#7, .reg (.v 9#7)⟩, 0xFD#32), (.mov g7 ⟨.n32, .v 4#7, .imm7 127#7⟩, 0xFFFFFFFF#32), (.movi g7 ⟨.i32, 4#7, 0x7FF#11⟩, 0xFFFFFFFF#32),
  (.movi g7 ⟨.n32, 4#7, 0x7FF#11⟩, 0x7FF#32), (.lit g7 4#7 0x3F800000#32, 0x3F800000#32), (.ppack g7 4#7, 0x80#32)]
theorem test_integers : gives ints intCases = true := by decide +kernel
theorem test_integers_witness : (intCases.map (·.1)).all (fun i => readyB g7 i ints) = true := by decide +kernel
theorem test_integers_ready : ∀ i ∈ intCases.map (·.1), Ready g7 i ints (here ints) := ready_all test_integers_witness
/-- The forms of pairs: 07 R194, R199, R201, R202. -/
def pairCases : List (Instr × DWord) := [
  (.iadd g7 false (a3 .i64 14#7 6#7), 0x100_0000_0004#64), (.imulh g7 (a3 .n64 14#7 14#7), 0x10000#64), (.shl g7 (i3 .n64 14#7 1#7), 0x200_0000_0002#64),
  (.lea g7 ⟨.i32, .v 4#7, .v 14#7, .reg (.v 9#7), 2#3⟩, 0xFF_FFFF_FFF5#64), (.lea g7 ⟨.n32, .v 4#7, .v 14#7, .reg (.v 9#7), 0#3⟩, 0x100_FFFF_FFFE#64),
  (.add64 g7 ⟨.i32, .v 4#7, .v 14#7, .imm7 127#7, 0#3⟩, 0x100_0000_0000#64), (.sub64 g7 ⟨.i64, .v 4#7, .v 14#7, .reg (.v 6#7), 0#3⟩, 0xFF_FFFF_FFFE#64),
  (.mul64 g7 (a3 .i32 9#7 8#7), 0xFFFFFFFF_FFFFFFEB#64), (.mul64 g7 (i3 .n32 8#7 127#7), 0x6_FFFF_FFF9#64), (.mov g7 ⟨.n64, .v 4#7, .reg (.v 14#7)⟩, 0x100_0000_0001#64),
  (.mov g7 ⟨.n64, .v 4#7, .reg .sp⟩, 0x200_0000_8000#64), (.mov g7 ⟨.b128, .v 4#7, .reg (.v 12#7)⟩, 0x201#64), (.mov g7 ⟨.b128, .v 4#7, .imm7 5#7⟩, 5#64),
  (.mov g7 ⟨.b128, .v 4#7, .lit 5#32⟩, 5#64), (.movi g7 ⟨.i64, 4#7, 0x7FF#11⟩, 0xFFFFFFFF_FFFFFFFF#64), (.gets g7 4#7 .stklim, 0x200_0000_7C00#64)]
theorem test_pairs : gives64 ints pairCases = true := by decide +kernel
theorem test_pairs_witness : (pairCases.map (·.1)).all (fun i => readyB g7 i ints) = true := by decide +kernel
/-- Writes of sp and ln: in range, below the limit, off a multiple of 16 (07 R200), and the same of LEA. -/
theorem test_stack_pointer : got (·.sp) (.add64 g7 ⟨.i32, .sp, .sp, .imm7 112#7, 0#3⟩) ints = some 0x200_0000_7FF0#64 ∧
    takes (.add64 g7 ⟨.i32, .sp, .sp, .lit 0xFFFFFBF0#32, 0#3⟩) ints = some (.stackLimit, 0) ∧
    takes (.add64 g7 ⟨.i32, .sp, .sp, .imm7 8#7, 0#3⟩) ints = some (.stackLimit, 0) ∧
    got (·.sp) (.lea g7 ⟨.i32, .sp, .sp, .lit 0xFFFFFC00#32, 0#3⟩) ints = some 0x200_0000_7C00#64 ∧
    got (·.ln) (.mov g7 ⟨.n64, .ln, .imm7 4#7⟩) ints = some 4#64 ∧
    [(.add64 g7 ⟨.i32, .sp, .sp, .imm7 112#7, 0#3⟩ : Instr), .sub64 g7 ⟨.i32, .ln, .sp, .imm7 112#7, 0#3⟩,
      .mov g7 ⟨.n64, .sp, .reg (.v 14#7)⟩, .mov g7 ⟨.n64, .ln, .imm7 4#7⟩].all (fun i => readyB g7 i ints) = true := by decide +kernel
/-- Writes of s registers, %fpflags and %stklim (07 R204, R225), and their hypotheses. -/
theorem test_uniform : ((after (.movs g7 ⟨.n64, 2#6, .reg (.v 14#7)⟩) ints).map fun s => (sread s (here s) 2#6, sread s (here s) 3#6)) =
      some (1#32, 0x100#32) ∧
    got (·.fpflags) (.sets g7 .fpflags 9#7) ints = some 0x1D#5 ∧ got (·.stklim) (.sets g7 .stklim 14#7) ints = some 0x100_0000_0000#64 ∧
    (ints.team (here ints).team).isSome = true ∧ (homeGang ints (here ints)).isSome = true ∧
    [(.movs g7 ⟨.n64, 2#6, .reg (.v 14#7)⟩ : Instr), .sets g7 .fpflags 9#7, .sets g7 .stklim 14#7, .rngs g7 14#7 6#7].all
      (fun i => readyB g7 i ints) = true := by decide +kernel
/-- GETS of every special register of the base state (07 R224). -/
theorem test_special_registers : gives ints [(.gets g7 4#7 .chron, 0#32), (.gets g7 4#7 .beat, 0#32), (.gets g7 4#7 .lane, 0#32), (.gets g7 4#7 .bank, 0#32),
      (.gets g7 4#7 .core, 0#32), (.gets g7 4#7 .tid, 0#32), (.gets g7 4#7 .gang, 0#32), (.gets g7 4#7 .team, 0#32), (.gets g7 4#7 .energy, 0#32),
      (.gets g7 4#7 .fpflags, 0#32), (.gets g7 4#7 .fsp, 0#32), (.gets g7 4#7 .region, 0x40000#32), (.gets g7 4#7 .pnone, 0#32),
      (.gets g7 4#7 .pskip, 0#32), (.gets g7 4#7 .pdefer, 0#32)] = true ∧
    gives (edit ints fun t => { t with gang := none }) [(.gets g7 4#7 .gang, 0xFFFFFFFF#32)] = true := by decide +kernel
/-- Predicates: q0 = true, the rest false; 07 R191, R192, R196, and q7 as source and destination. -/
def preds : State := edit ints fun t => t.setPred 0#3 true
def predCases : List (Instr × Bool) := [(.pand g7 ⟨1#3, 0#3, 2#3, false, true⟩, true), (.por g7 ⟨1#3, 2#3, 3#3, false, false⟩, false),
  (.pxor g7 ⟨1#3, 0#3, 7#3, false, false⟩, false), (.pnot g7 ⟨1#3, 0#3, true⟩, true), (.pmov g7 ⟨1#3, 7#3, false⟩, true), (.pandShort g7 1#3 0#3 7#3, true),
  (.porShort g7 1#3 0#3 2#3, true), (.pxorShort g7 1#3 0#3 2#3, true), (.pnotShort g7 1#3 2#3, true), (.pmovShort g7 1#3 0#3, true),
  (.punpk g7 8#7, true), (.iset g7 ⟨.lt, .i32, .none, 1#3, .v 9#7, .reg (.v 8#7)⟩, true), (.iset g7 ⟨.lt, .n32, .none, 1#3, .v 9#7, .reg (.v 8#7)⟩, false),
  (.iset g7 ⟨.eq, .i32, .or 0#3, 1#3, .v 9#7, .reg (.v 8#7)⟩, true), (.iset g7 ⟨.ne, .i32, .and 2#3, 1#3, .v 9#7, .reg (.v 8#7)⟩, false),
  (.iset g7 ⟨.ge, .i8, .none, 1#3, .v 8#7, .imm7 7#7⟩, true)]
theorem test_predicates : decides preds predCases = true := by decide +kernel
theorem test_predicates_witness : (predCases.map (·.1)).all (fun i => readyB g7 i preds) = true := by decide +kernel
theorem test_q7 : got (·.q) (.pmov g7 ⟨7#3, 2#3, false⟩) preds = some (here preds).q ∧ (here preds).pred 7#3 = true := by decide +kernel
/-- The generator: the worked draws of 06 Table 7 at position 0 of a key 0, and position 1 with its key moved to that row's
input; an inactive RNGD still counts (07 R222). -/
theorem test_generator : gives64 base [(.rngd g7 0#4 ⟨.n64, 4#7, .imm7 0#7⟩, 0#64)] = true ∧
    gives64 (edit base fun t => { t with key := some 0x9E3779B97F4A7C15#64 }) [(.rngd g7 0#4 ⟨.n64, 4#7, .imm7 0#7⟩, 0xE220A8397B1DCDAF#64)] = true ∧
    gives (edit base fun t => { t with key := some 0x9E3779B97F4A7C15#64 }) [(.rngd g7 0#4 ⟨.n32, 4#7, .imm7 0#7⟩, 0xE220A839#32)] = true ∧
    got (·.ctr) (.rngd gN 0#4 ⟨.n32, 4#7, .imm7 0#7⟩) base = some 1#64 ∧ got (·.ctr) (.rngs g7 14#7 6#7) ints = some 3#64 ∧
    ((after (.rngs g7 14#7 6#7) ints).bind fun s => (homeGang s (here s)).map (·.key)) = some 0x100_0000_0001#64 ∧
    got (·.key) (.rngs g7 14#7 6#7) (edit ints fun t => { t with gang := none }) = some (some 0x100_0000_0001#64) ∧
    readyB g7 (.rngd g7 0#4 ⟨.n64, 4#7, .imm7 0#7⟩) base = true ∧ readyB g7 (.rngs g7 14#7 6#7) (edit ints fun t => { t with gang := none }) = true := by
  decide +kernel

/-! Floating point. -/

/-- v8 = 1.0, v9 = 2.0, v10 = 1.5, v11 = a signalling NaN, v12 = -0, v13 = +inf, v14 = 4.0, v15 = 2.5; v0 = 0. -/
def flts : State := holding base [(8#7, 0x3F800000#32), (9#7, 0x40000000#32), (10#7, 0x3FC00000#32), (11#7, 0x7F800001#32), (12#7, 0x80000000#32),
  (13#7, 0x7F800000#32), (14#7, 0x40800000#32), (15#7, 0x40200000#32)]
def f3 (a b : VReg) : Flt3 := ⟨.f32, false, .rn, 4#7, .v a, .reg (.v b)⟩
def f2 (a : VReg) : Flt2 := ⟨.f32, .rn, 4#7, .v a⟩
/-- Results and flags: 06 R164, R170, Table 3; 07 R205 to R213. Flags are invalid 1, div_zero 2, overflow 4, underflow 8, inexact 16. -/
def fltCases : List (Instr × Word × BitVec 5) := [
  (.fadd g7 (f3 8#7 9#7), 0x40400000#32, 0#5), (.fsub g7 (f3 8#7 9#7), 0xBF800000#32, 0#5), (.fmul g7 (f3 9#7 10#7), 0x40400000#32, 0#5),
  (.fadd g7 (f3 8#7 11#7), 0x7FC00000#32, 1#5), (.ffma g7 ⟨.f32, false, .rn, 4#7, .v 9#7, .reg (.v 10#7), .v 8#7⟩, 0x40800000#32, 0#5),
  (.fmin g7 (f3 12#7 0#7), 0x80000000#32, 0#5), (.fmax g7 (f3 12#7 0#7), 0#32, 0#5), (.fmax g7 (f3 8#7 11#7), 0x3F800000#32, 1#5), (.fmin g7 (f3 11#7 11#7), 0x7FC00000#32, 1#5),
  (.faddShort g7 ⟨4#7, 8#7, 9#7⟩, 0x40400000#32, 0#5), (.fsubShort g7 ⟨4#7, 8#7, 9#7⟩, 0xBF800000#32, 0#5), (.fmulShort g7 ⟨4#7, 9#7, 10#7⟩, 0x40400000#32, 0#5),
  (.ffmaShort g7 ⟨4#7, 9#7, 10#7⟩, 0x40400000#32, 0#5), (.fminShort g7 ⟨4#7, 8#7, 9#7⟩, 0x3F800000#32, 0#5), (.fmaxShort g7 ⟨4#7, 8#7, 9#7⟩, 0x40000000#32, 0#5),
  (.fadd g7 ⟨.f16, true, .rn, 4#7, .v 9#7, .lit 0x3C00#32⟩, 0x40003C00#32 + 0x2000000#32, 0#5), (.fclass g7 (f2 11#7), 1#32, 0#5), (.fclass g7 (f2 13#7), 0x200#32, 0#5),
  (.fclass g7 (f2 12#7), 0x20#32, 0#5), (.fcvt g7 ⟨.f16, .f32, .rn, 4#7, .v 10#7⟩, 0x3E00#32, 0#5), (.ftoi g7 ⟨.f32, .i32, .rn, 4#7, .v 15#7⟩, 2#32, 16#5),
  (.ftoi g7 ⟨.f32, .i32, .rn, 4#7, .v 13#7⟩, 0x7FFFFFFF#32, 1#5), (.itof g7 ⟨.f32, .i32, .rn, 4#7, .v 0#7⟩, 0#32, 0#5), (.frnd g7 ⟨.f32, .ru, 4#7, .v 15#7⟩, 0x40400000#32, 16#5),
  (.frnd g7 (f2 11#7), 0x7FC00000#32, 1#5), (.fdiv g7 0#4 (f3 8#7 9#7), 0x3F000000#32, 0#5), (.fdiv g7 0#4 (f3 8#7 12#7), 0xFF800000#32, 2#5),
  (.fdiv g7 0#4 (f3 0#7 12#7), 0x7FC00000#32, 1#5), (.fdiv g7 0#4 (f3 13#7 12#7), 0xFF800000#32, 0#5), (.fdiv g7 0#4 (f3 8#7 13#7), 0#32, 0#5), (.fdiv g7 0#4 (f3 12#7 8#7), 0x80000000#32, 0#5),
  (.fsqrt g7 0#4 (f2 14#7), 0x40000000#32, 0#5), (.fsqrt g7 0#4 (f2 12#7), 0x80000000#32, 0#5), (.frcp g7 0#4 (f2 9#7), 0x3F000000#32, 0#5), (.frcp g7 0#4 (f2 12#7), 0xFF800000#32, 2#5),
  (.frsq g7 0#4 (f2 14#7), 0x3F000000#32, 0#5), (.fexp2 g7 0#4 (f2 9#7), 0x40800000#32, 0#5), (.flog2 g7 0#4 (f2 14#7), 0x40000000#32, 0#5), (.flog2 g7 0#4 (f2 12#7), 0xFF800000#32, 2#5),
  (.fsin g7 0#4 (f2 12#7), 0x80000000#32, 0#5), (.fsin g7 0#4 (f2 13#7), 0x7FC00000#32, 1#5), (.fcos g7 0#4 (f2 0#7), 0x3F800000#32, 0#5), (.ftanh g7 0#4 (f2 12#7), 0x80000000#32, 0#5),
  (.fsqrt g7 0#4 (f2 11#7), 0x7FC00000#32, 1#5), (.bxd g7 ⟨false, false, 4#7, 0#7, 0#7⟩, 0#32, 0#5)]
theorem test_floats : givesF flts fltCases = true := by decide +kernel
theorem test_floats_witness : (fltCases.map (·.1)).all (fun i => readyB g7 i flts) = true := by decide +kernel
theorem test_fset : decides flts [(.fset g7 ⟨.lt, .f32, .none, 1#3, .v 8#7, .reg (.v 9#7)⟩, true), (.fset g7 ⟨.eq, .f32, .none, 1#3, .v 12#7, .reg (.v 0#7)⟩, true),
      (.fset g7 ⟨.ge, .f32, .or 2#3, 1#3, .v 8#7, .reg (.v 11#7)⟩, false), (.fset g7 ⟨.ne, .f32, .none, 1#3, .v 8#7, .reg (.v 11#7)⟩, true)] = true ∧
    readyB g7 (.fset g7 ⟨.lt, .f32, .none, 1#3, .v 8#7, .reg (.v 9#7)⟩) flts = true := by decide +kernel
/-- 06 Table 2, the worked conversions, to the bit and to the flag. -/
theorem test_worked_conversions : Numbers.round .bf16 .rn 0 (Numbers.decode .f32 0x3F808000) = (0x3F80, 16#5) ∧
    Numbers.round .e4m3 .rn 0 (Numbers.ofInt 300) = (0x79, 16#5) ∧ Numbers.round .e4m3 .rn 0 (Numbers.ofInt 500) = (0x7E, 20#5) ∧
    Numbers.round .e5m2 .rn 0 (Numbers.ofInt 500) = (0x60, 16#5) ∧ Numbers.round .e4m3 .rz 0 (.inf false) = (0x7F, 1#5) ∧
    Numbers.round .f16 .rn 0 (.fin false 1 (-25)) = (0x0000, 24#5) ∧ Numbers.round .f16 .ru 0 (.fin false 1 (-25)) = (0x0001, 24#5) ∧
    Numbers.roundInt .i32 .rn (.fin true 5 (-1)) = (-2, 16#5) ∧ Numbers.roundInt .i32 .rd (Numbers.ofInt 3000000000) = (2147483647, 1#5) := by decide +kernel
/-- The example after 06 Table 7: stochastic rounding of 1 + 2^-8 to .bf16 by the draws of threads 1 and 2. -/
theorem test_stochastic : givesF (holding (edit base fun t => { t with key := some 0x9E3779B97F4A7C15#64 }) [(8#7, 0x3F808000#32)])
      [(.fcvt g7 ⟨.bf16, .f32, .rs, 4#7, .v 8#7⟩, 0x3F80#32, 16#5)] = true ∧
    givesF (holding (edit base fun t => { t with key := some 0x3C6EF372FE94F82A#64 }) [(8#7, 0x3F808000#32)])
      [(.fcvt g7 ⟨.bf16, .f32, .rs, 4#7, .v 8#7⟩, 0x3F81#32, 16#5)] = true := by decide +kernel
/-- Elements by 06 Table 5: .bx8 selector 1, sign 1, m 3 under E_lo 132 is -3; .bx4 selector 0, m 2 under E_hi 127 is 1; an
exponent of 255 is a NaN; BXEX replaces one half (07 R216). -/
theorem test_blocks : gives (holding base [(8#7, 0xC3#32), (9#7, 0x84FF#32)]) [(.bxd g7 ⟨false, false, 4#7, 8#7, 9#7⟩, 0xC0400000#32)] = true ∧
    gives (holding base [(8#7, 2#32), (9#7, 0x7F0000#32)]) [(.bxd g7 ⟨true, true, 4#7, 8#7, 9#7⟩, 0x3F800000#32)] = true ∧
    gives (holding base [(8#7, 2#32), (9#7, 0xFF#32)]) [(.bxd g7 ⟨true, false, 4#7, 8#7, 9#7⟩, 0x7FC00000#32)] = true ∧
    gives (holding base [(8#7, 0x12345678#32), (4#7, 0xAAAABBBB#32)]) [(.bxex g7 ⟨false, 0#7, 8#7, 1#4, true⟩, 0x5678BBBB#32),
      (.bxex g7 ⟨false, 4#7, 8#7, 0#4, false⟩, 0xAAAA5678#32)] = true ∧
    readyB g7 (.bxex g7 ⟨false, 0#7, 8#7, 1#4, true⟩) base = true := by decide +kernel

/-! Control transfer, exceptions and emulation. -/

/-- The base state with parcels 0, 1 and 2 of its line marked as targets: v14:v15 = ln = 0x40000, v16 and above not held. -/
def code : State := edit (holding (base.write 0x4003C [7#8]) [(8#7, 7#32), (9#7, 0xFFFFFFFD#32), (14#7, 0x40000#32)])
  fun t => { t with ln := 0x40000#64 }
def jumps : List (Instr × DWord × DWord) := [
  (.braShort g7 2#21, 0x40008#64, 0x40000#64), (.bra g7 (.d28 1#28), 0x40004#64, 0x40000#64), (.bra g7 (.d32 2#32), 0x40008#64, 0x40000#64),
  (.brx g7 (.v 14#7), 0x40000#64, 0x40000#64), (.ret g7, 0x40000#64, 0x40000#64), (.retShort g7, 0x40000#64, 0x40000#64),
  (.callShort g7 2#21, 0x40008#64, 0x40004#64), (.call g7 (.d28 1#28), 0x40004#64, 0x40008#64), (.call g7 (.d32 2#32), 0x40008#64, 0x4000C#64),
  (.callx g7 .ln, 0x40000#64, 0x40008#64), (.nop g7, 0x40008#64, 0x40000#64), (.nopShort g7, 0x40004#64, 0x40000#64),
  (.brc g7 ⟨.lt, .int .i32, 9#7, 8#7, .d18 1#18⟩, 0x40004#64, 0x40000#64), (.brc g7 ⟨.gt, .int .i32, 9#7, 8#7, .d18 1#18⟩, 0x40008#64, 0x40000#64),
  (.brc g7 ⟨.ge, .flt .f32, 0#7, 1#7, .d32 1#32⟩, 0x40004#64, 0x40000#64)]
theorem test_jumps : jumps.all (fun e => got (fun t => (t.pc, t.ln)) e.1 code == some e.2) = true := by decide +kernel
theorem test_jumps_witness : (jumps.map (·.1)).all (fun i => readyB g7 i code) = true ∧
    passes (checkTarget code 0 0 0 0x40000#64) = true ∧ passes (checkTarget code 0 0 0 0x40008#64) = true := by decide +kernel
/-- 02 R68: a misaligned target, one at a line word, one whose mask bit is clear, and one nothing maps. -/
theorem test_bad_targets : ([0x40002#64, 0x4003C#64, 0x4000C#64] : List DWord).all (fun v =>
      takes (.ret g7) (edit code fun t => { t with ln := v }) == some (.badTarget, 0)) = true ∧
    takes (.brx g7 (.v 14#7)) (holding code [(15#7, 1#32)]) = some (.absence, 0) ∧
    passes (fetchLine code 0 0 0 0x4000C#64) = true ∧ got (·.pc) (.ret g7) (edit code fun t => { t with ln := 2#64 }) = some 0x40000#64 := by
  decide +kernel
theorem test_system : takes (.trap g7 5#11) base = some (.systemCall, 0) ∧ takes (.bkpt g7 5#11) base = some (.breakpoint, 0) ∧
    got (fun t => (t.pc, t.region, t.tag)) (.region g7 5#11) code = some (0x40008#64, 0x40008#57, 5#11) ∧
    [(.trap g7 5#11 : Instr), .bkpt g7 5#11, .region g7 5#11].all (fun i => readyB g7 i code) = true := by decide +kernel
/-- 19 R401, the example: an alignment record of context 5, core 17, lane 40, slot 3. -/
theorem test_record_example : leNat ((threadRecord { base with teams := [(1, { fetchTeam with ctx := 5 })] } (placeOf 17 40 3)
      { here base with team := 1 } (mkTrap .alignment 0 0#64)).take 8) = 0x000006A044014061 ∧ ctxOf base (here base) < 4096 := by decide +kernel
theorem test_reserved : takes (.reservedEncoding g7 .reserved ⟨1#2, 0x70000078#32, 0#32⟩) base = some (.illegalInstruction, 0) ∧
    takes (.reservedEncoding gN .lineCrossing ⟨2#2, 1#32, 0#32⟩) base = some (.illegalInstruction, 3) ∧
    got (·.pc) (.reservedEncoding gN .reserved ⟨1#2, 0#32, 0#32⟩) base = some 0x40004#64 ∧
    readyB g7 (.reservedEncoding g7 .reserved ⟨1#2, 0x70000078#32, 0#32⟩) base = true := by decide +kernel
/-- A context whose emulation entry is 0x40000 and a stack in the aperture, 0x1000 bytes above its limit. -/
def emul : State := edit (setCfield (setCfield code 0 704 57 0x40000) 0 2 1 1) fun t => { t with sp := 0x100_0000_1000#64, stklim := 0x100_0000_0000#64 }
theorem test_retired : got (fun t => (t.pc, t.sp, t.emu.isSome)) (.retiredOpcodeShort g7 0x7000027C#32) emul = some (0x40000#64, 0x100_0000_0FC0#64, true) ∧
    ((after (.retiredOpcodeShort g7 0x7000027C#32) emul).map fun s => leNat (s.read (2 ^ 52 + 0xFC0) 8)) = some 0x7000027C ∧
    takes (.retiredOpcodeShort g7 0x7000027C#32) code = some (.retiredOpcode, 0) ∧
    takes (.retiredOpcodeShort g7 0x7000027C#32) (edit emul fun t => { t with stklim := 0x100_0000_0FD0#64 }) = some (.stackLimit, 0) ∧
    takes (.retiredOpcode g7 ⟨2#2, 0x3C1#32, 0x1C0#32⟩) (edit emul fun t => { t with emu := some none }) = some (.illegalInstruction, 4) ∧
    [(.retiredOpcodeShort g7 0x7000027C#32 : Instr), .retiredOpcode g7 ⟨2#2, 0x3C1#32, 0x1C0#32⟩].all (fun i => readyB g7 i emul) = true ∧
    passes (locateRange emul 0 (here emul) false 0x100_0000_0FC0#64 64 Access.store) = true := by decide +kernel
/-- In emulation, at a record of the short word above whose result is 0x55 in mode 1, with ln 0x1234. -/
def emulated : State := edit ((emul.write (2 ^ 52 + 0xFC0) (toBytes 8 0x7000027C ++ toBytes 8 0x40000 ++ toBytes 8 0x1234)).write (2 ^ 52 + 0xFF0)
  (toBytes 8 0x55 ++ toBytes 8 1)) fun t => { t with emu := some none, sp := 0x100_0000_0FC0#64 }
theorem test_emuret : got (fun t => (t.pc, t.rv 4#7, t.ln, t.sp)) (.emuret g7) emulated =
      some (0x40004#64, 0x55#32, 0x1234#64, 0x100_0000_1000#64) ∧ got (·.emu.isSome) (.emuret g7) emulated = some false ∧ takes (.emuret g7) emul = some (.illegalInstruction, 4) := by decide +kernel
theorem test_emuret_witness : readyB g7 (.emuret g7) emulated = true ∧ passes (locateRange emulated 0 (here emulated) false 0x100_0000_0FC0#64 64 Access.load) = true ∧
    passes (checkTarget emulated 0 0 0 0x40004#64) = true ∧
    (here emulated).emu.isSome = true ∧ (here emulated).group = none := by decide +kernel
/-- The allotment rule at its bound (12 R283), and the role rule (12 R282, Table 2). -/
theorem test_issue_rules : takes (.iadd g7 false ⟨.n32, 16#7, .v 1#7, .imm7 5#7⟩) base = some (.illegalInstruction, 1) ∧
    got (·.rv 15#7) (.iadd g7 false ⟨.n32, 15#7, .v 1#7, .imm7 5#7⟩) base = some 5#32 ∧
    takes (.bxex g7 ⟨false, 12#7, 8#7, 1#4, false⟩) base = some (.illegalInstruction, 1) ∧
    takes (.fadd g7 (f3 8#7 9#7)) { base with teams := [(1, { fetchTeam with gangs := [{ fetchGang with role := .copy }] })] } = some (.illegalRole, 0) ∧
    takes (.cpy g7 0#4 ⟨.n32, 0#2, .team, 4#7, at2, 6#7, false, 8#7⟩)
      { base with teams := [(1, { fetchTeam with gangs := [{ fetchGang with role := .vector }] })] } = some (.illegalRole, 0) := by decide +kernel
/-- 02 R62: an inactive thread goes on, whatever the instruction. -/
theorem test_inactive : ([.iadd gN false (a3 .i32 8#7 9#7), .bra gN (.d28 9#28), .ld gN 0#4 ⟨.n32, .relaxed, .th, 4#7, at2⟩, .exit gN, .trap gN 0#11,
      .iadd gN false ⟨.n32, 99#7, .v 1#7, .imm7 5#7⟩] : List Instr).all (fun i => got (fun t => (t.pc, t.rv 4#7, t.status)) i ints ==
        some (0x40008#64, 0#32, .ready 0)) = true := by decide +kernel

/-! Bound groups and cross-lane operations. -/

/-- The thread at a place of a state, or the one `here` makes up. -/
def thrAt (s : State) (p : Nat) : Thread := here { s with cur := p }
/-- `Gathered` as a Bool. -/
def gatheredB (engine : Bool) (g : Guard) (i : Instr) (s : State) (ps : List Nat) : Bool :=
  decide ps.Nodup && ps.contains s.cur &&
  ps.all (fun p => (s.thr p).isSome && (groupMembers s (thrAt s p) == some ps)
    && (p == s.cur || decide ((thrAt s p).status = .stalled .meet)) && ((thrAt s p).pc == (here s).pc)
    && (!active g (thrAt s p) || (match roleOf i with
      | none => true
      | some r => decide (threadRole s (thrAt s p) = .general) || decide (threadRole s (thrAt s p) = r) || (thrAt s p).emu.isSome))
    && (!active g (thrAt s p) ||
      (memberReads engine i (positionIn ps p) (ps.find? (fun q => ((s.thr q).map (active g)).getD false) == some p)).all fun n =>
        (thrAt s p).isPoisoned (BitVec.ofNat 7 n) == false)) &&
  ps.any (fun p => active g (thrAt s p)) &&
  (!active g (here s) || (memberReads engine i (positionIn ps s.cur) true ++ (if engine then [] else vwrites i)).all
    (decide <| · < (here s).allot))

theorem thr_at {s : State} {p : Nat} (h : (s.thr p).isSome = true) : s.thr p = some (thrAt s p) :=
  here_eq (s := { s with cur := p }) h

theorem gathered_of {engine : Bool} {g : Guard} {i : Instr} {s : State} {ps : List Nat} (h : gatheredB engine g i s ps = true) :
    Gathered engine g i s ps := by
  simp only [gatheredB, Bool.and_eq_true, decide_eq_true_eq, List.all_eq_true, List.any_eq_true, beq_iff_eq, Bool.or_eq_true,
    Bool.not_eq_true', List.contains_iff_mem] at h
  obtain ⟨⟨⟨⟨h1, h2⟩, h3⟩, h4⟩, h5⟩ := h
  have eqt : ∀ p ∈ ps, ∀ t, s.thr p = some t → t = thrAt s p := fun p hp t ht => by
    have := thr_at (h3 p hp).1.1.1.1.1
    rw [ht] at this; exact Option.some.inj this
  refine ⟨h1, h2, fun p hp => ⟨_, thr_at (h3 p hp).1.1.1.1.1, (h3 p hp).1.1.1.1.2⟩, ?_, ⟨(here s).pc, ?_⟩, ?_, ?_, ?_, ?_⟩
  · intro p hp hne
    exact ⟨_, thr_at (h3 p hp).1.1.1.1.1, ((h3 p hp).1.1.1.2).resolve_left hne⟩
  · intro p hp
    rw [thr_at (h3 p hp).1.1.1.1.1, Option.map_some, (h3 p hp).1.1.2]
  · obtain ⟨p, hp, ha⟩ := h4
    exact ⟨p, hp, _, thr_at (h3 p hp).1.1.1.1.1, ha⟩
  · intro t ht ha n hn
    have := eqt _ h2 t ht
    subst this
    exact (h5.resolve_left (by simpa [thrAt] using ha)) n hn
  · intro p hp t ht ha r hr
    have := eqt p hp t ht
    subst this
    have h6 := (h3 p hp).1.2.resolve_left (by simpa using ha)
    rw [hr] at h6
    simpa [or_assoc] using h6
  · intro p hp t ht ha n hn
    have := eqt p hp t ht
    subst this
    exact (h3 p hp).2.resolve_left (by simpa using ha) n hn

theorem gathered_whole_of {engine : Bool} {g : Guard} {i : Instr} {s : State} {ps : List Nat} (h : gatheredB engine g i s ps = true)
    (hl : ps.length = 32) (ha : ps.all (fun p => active g (thrAt s p)) = true) : GatheredWhole engine g i s ps := by
  refine ⟨gathered_of h, hl, fun p hp t ht => ?_⟩
  obtain ⟨t', ht', -⟩ := (gathered_of h).members p hp
  have : t = thrAt s p := by
    have := thr_at (s := s) (p := p) (by simp [ht])
    rw [ht] at this; exact Option.some.inj this
  subst this
  exact (List.all_eq_true.1 ha) p hp

/-- The places of a group of `w` on the first lanes. -/
def row (w : Nat) : List Nat := (List.range w).map (16 * ·)
/-- A bound group of `w`: all but the thread at place 0 wait at its address, member k changed by `f k`. -/
def bound (w : Nat) (f : Nat → Thread → Thread) : State :=
  { base with
    threads := (List.range w).map fun k => (16 * k, f k { here base with
      group := some 9, status := if k = 0 then .ready 0 else .stalled .meet, tid := BitVec.ofNat 32 k })
    groups := [(9, ⟨1, row w, [], true⟩)] }
/-- What each member holds after an instruction. -/
def all {α : Type} (f : Thread → α) (w : Nat) (i : Instr) (s : State) : List α :=
  match after i s with
  | some s' => (row w).map fun p => f (thrAt s' p)
  | none => []
/-- Four members with v8 = 10, 11, 12, 13 and q0 true in the first two. -/
def four : State := bound 4 fun k t => (t.setV 8#7 (BitVec.ofNat 32 (10 + k))).setPred 0#3 (decide (k < 2))
/-- 07 R218, R219. -/
theorem test_shuffles : all (·.rv 4#7) 4 (.shfl g7 0#4 ⟨.idx, .n32, 4#7, 8#7, .imm7 6#7⟩) four = [12#32, 12#32, 12#32, 12#32] ∧
    all (·.rv 4#7) 4 (.shfl g7 0#4 ⟨.up, .n32, 4#7, 8#7, .imm7 1#7⟩) four = [13#32, 10#32, 11#32, 12#32] ∧
    all (·.rv 4#7) 4 (.shfl g7 0#4 ⟨.dn, .n32, 4#7, 8#7, .imm7 1#7⟩) four = [11#32, 12#32, 13#32, 10#32] ∧
    all (·.rv 4#7) 4 (.shfl g7 0#4 ⟨.xor, .n32, 4#7, 8#7, .imm7 1#7⟩) four = [11#32, 10#32, 13#32, 12#32] ∧
    all (·.rv 4#7) 4 (.shfl ⟨false, 0#3⟩ 0#4 ⟨.xor, .n32, 4#7, 8#7, .imm7 2#7⟩) four = [10#32, 11#32, 0#32, 0#32] ∧
    all (·.rv 4#7) 4 (.readl g7 0#4 ⟨.n32, 4#7, 8#7, .imm7 2#7⟩) four = [12#32, 12#32, 12#32, 12#32] := by decide +kernel
theorem test_votes : all (·.pred 1#3) 4 (.vote g7 .all 1#3 0#3) four = [false, false, false, false] ∧
    all (·.pred 1#3) 4 (.vote g7 .any 1#3 0#3) four = [true, true, true, true] ∧ all (·.pred 1#3) 4 (.vote g7 .uni 1#3 0#3) four = [false, false, false, false] ∧
    all (·.pred 1#3) 4 (.vote ⟨false, 0#3⟩ .all 1#3 0#3) four = [true, true, false, false] ∧
    all (·.rv 4#7) 4 (.ballot g7 4#7 0#3) four = [3#32, 3#32, 3#32, 3#32] ∧ all (·.pred 1#3) 4 (.elect g7 1#3) four = [true, false, false, false] ∧
    all (·.pred 1#3) 4 (.elect ⟨true, 0#3⟩ 1#3) four = [false, false, true, false] := by decide +kernel
/-- Eight members with the values of the example of 07 R221. -/
def eight : State := bound 8 fun k t => t.setV 8#7 (if k = 0 then 0x4B800000#32 else if k < 4 then 0x3F800000#32 else 0#32)
theorem test_reductions : all (fun t => (t.rv 4#7, t.fpflags)) 8 (.lred g7 0#4 ⟨.add, .flt .f32, .rn, false, 4#7, 8#7⟩) eight =
      List.replicate 8 (0x4B800001#32, 16#5) ∧
    all (fun t => (t.rv 4#7, t.fpflags)) 8 (.lscan g7 0#4 ⟨.add, .flt .f32, .rn, false, 4#7, 8#7⟩) eight =
      [(0x4B800000#32, 0#5), (0x4B800000#32, 16#5), (0x4B800000#32, 16#5)] ++ List.replicate 5 (0x4B800001#32, 16#5) ∧
    all (·.rv 4#7) 4 (.lred g7 0#4 ⟨.max, .int .i32, .rn, false, 4#7, 8#7⟩) four = [13#32, 13#32, 13#32, 13#32] ∧
    all (·.rv 4#7) 4 (.lscan g7 0#4 ⟨.add, .int .n32, .rn, true, 4#7, 8#7⟩) four = [0#32, 10#32, 21#32, 33#32] := by decide +kernel
theorem test_cross_lane_witness : ([.shfl g7 0#4 ⟨.xor, .n32, 4#7, 8#7, .imm7 1#7⟩, .readl g7 0#4 ⟨.n32, 4#7, 8#7, .imm7 2#7⟩, .vote g7 .all 1#3 0#3,
      .ballot g7 4#7 0#3, .elect g7 1#3, .lred g7 0#4 ⟨.max, .int .i32, .rn, false, 4#7, 8#7⟩, .lscan g7 0#4 ⟨.add, .int .n32, .rn, true, 4#7, 8#7⟩]
      : List Instr).all (fun i => gatheredB false g7 i four (row 4)) = true := by decide +kernel
theorem test_cross_lane_gathered : Gathered false g7 (.elect g7 1#3) four (row 4) :=
  gathered_of (List.all_eq_true.1 test_cross_lane_witness _ (by simp))
/-- An unbound thread, an inactive one, and one that comes before the others (07 R217; 12 R283). -/
theorem test_groups_meet : takes (.elect g7 1#3) base = some (.illegalConvergence, 0) ∧ got (·.pc) (.elect gN 1#3) base = some 0x40008#64 ∧
    got (·.status) (.elect g7 1#3) { four with threads := four.threads.map fun e => (e.1, { e.2 with status := .ready 0 }) } = some (.stalled .meet) ∧
    groupMembers four (here four) = some (row 4) := by decide +kernel
/-- A whole bank, each v8 = 1.0, its slots and tiles as `f` leaves core 0. -/
def bank (f : CoreState → CoreState) : State :=
  let s := bound 32 fun _ t => t.setV 8#7 0x3F800000#32
  s.setCore 0 (f (s.core 0))
/-- 06 R176: 32 values 1.0 in .bx8: Fit(1) is 127, since 2^5 = 32 is at most 63 and 2^6 is not; S is empty, so E_lo is 127 and
each element takes selector 1, m = 32. -/
theorem test_block_quantise : all (fun t => (t.rv 4#7, t.rv 5#7)) 32 (.bxq g7 0#4 ⟨false, false, 4#7, 8#7, 5#7⟩) (bank id) =
      List.replicate 32 (0xA0#32, 0x7F7F#32) ∧ takes (.bxq g7 0#4 ⟨false, false, 4#7, 8#7, 5#7⟩) four = some (.illegalConvergence, 0) := by
  decide +kernel
theorem test_block_quantise_witness : GatheredWhole false g7 (.bxq g7 0#4 ⟨false, false, 4#7, 8#7, 5#7⟩) (bank id) (row 32) :=
  gathered_whole_of (by decide +kernel) (by decide +kernel) (by decide +kernel)

/-! Memory, in core 0's slice: byte o of the aperture at 2^40 is location 2^52 + o (03 R78). -/

/-- v2:v3 = 2^40 + 0x100, v8 = 0x81828384, v9 = 3, v10:v11 = -1, v12:v13 = 2^40 + 0x200, v6:v7 = (0, 1); the aperture admits
ordered cells; bytes 0x100 to 0x107 hold 0x80, 1, 2, 3, 4, 5, 6, 7. -/
def mems : State := (holding (setCfield base 0 2 1 1) [(2#7, 0x100#32), (3#7, 0x100#32), (8#7, 0x81828384#32), (9#7, 3#32), (10#7, 0xFFFFFFFF#32),
  (11#7, 0xFFFFFFFF#32), (12#7, 0x200#32), (13#7, 0x100#32), (7#7, 1#32)]).write (2 ^ 52 + 0x100) [0x80#8, 1#8, 2#8, 3#8, 4#8, 5#8, 6#8, 7#8]
/-- The memory of core 0's slice after an instruction. -/
def mem (o n : Nat) (i : Instr) (s : State) : Option Nat := (after i s).map fun s' => leNat (s'.read (2 ^ 52 + o) n)
def off2 (k : BitVec 7) : MemOp := { at2 with off := .imm7 k }
def ld (f : IFmt) (d : VReg) (m : MemOp) : Instr := .ld g7 0#4 ⟨f, .relaxed, .th, d, m⟩
def st (f : IFmt) (d : VReg) (m : MemOp) : Instr := .st g7 ⟨f, .relaxed, .th, d, m⟩
def atom (op : AtomOp) (f : IFmt) (b c : VReg) : Instr := .atom g7 0#4 ⟨op, f, .relaxed, .th, 4#7, at2, b, c⟩
theorem test_loads : gives mems [(ld .n32 4#7 at2, 0x03020180#32), (ld .i8 4#7 at2, 0xFFFFFF80#32), (ld .n8 4#7 at2, 0x80#32), (ld .i16 4#7 at2, 0x0180#32),
      (ld .n16 4#7 (off2 2#7), 0x0302#32), (ld .n8 4#7 { at2 with idx := some 9#7, shift := 1#2 }, 6#32),
      (ld .n32 4#7 { at2 with win := true, off := .lit 0xFFFFFFFC#32 }, 0#32), (ld .n64 4#7 at2, 0x03020180#32), (ld .b128 4#7 at2, 0x03020180#32)] = true := by
  decide +kernel
theorem test_stores : mem 0x100 8 (st .n16 8#7 at2) mems = some 0x0706050403028384 ∧ mem 0x100 8 (st .n64 10#7 at2) mems = some 0xFFFFFFFFFFFFFFFF ∧
    mem 0x104 4 (st .b128 8#7 at2) mems = some 3 ∧ mem 0x0F8 8 (st .n32 8#7 (off2 120#7)) mems = some 0x81828384 := by decide +kernel
/-- Poison of a load, a cleared poison of a whole store (19 R398). -/
theorem test_poison : got (·.isPoisoned 4#7) (ld .n32 4#7 at2) { mems with poison := [2 ^ 48 + 0x10] } = some true ∧
    ((after (st .b128 8#7 at2) { mems with poison := [2 ^ 48 + 0x10] }).map (·.poison)) = some [] ∧
    takes (.iadd g7 false ⟨.n32, 4#7, .v 8#7, .imm7 1#7⟩) (edit mems fun t => t.markV 8#7) = some (.poison, 2) := by decide +kernel
theorem test_alignment : ([ld .n16 4#7 (off2 1#7), st .n64 8#7 (off2 4#7),
      .atom g7 0#4 ⟨.add, .n32, .relaxed, .th, 4#7, (off2 2#7), 5#7, 0#7⟩, .ordinit g7 ⟨false, .relaxed, .th, 4#7, (off2 8#7), 5#7⟩,
      .tbarr g7 ⟨.team, 0#7, (off2 8#7), 0#7⟩, .sleepto g7 ⟨.team, 6#7, (off2 8#7), 5#7⟩] : List Instr).all (fun i =>
      takes i mems == some (.alignment, 0) && readyB g7 i mems) = true := by decide +kernel
/-- 04 Table 2 on the word 0x03020180, b = v8 = 0x81828384 or v9 = 3. -/
theorem test_atomics : ([(atom .add .n32 9#7 0#7, 0x03020183), (atom .min .i32 8#7 0#7, 0x81828384), (atom .min .n32 8#7 0#7, 0x03020180), (atom .max .n32 8#7 0#7, 0x81828384),
      (atom .and .n32 9#7 0#7, 0), (atom .or .n32 9#7 0#7, 0x03020183), (atom .xor .n32 8#7 0#7, 0x82808204), (atom .exch .n32 9#7 0#7, 3),
      (atom .cas .n32 9#7 9#7, 0x03020180), (atom .cas .n32 9#7 4#7, 3)] : List (Instr × Nat)).all (fun e =>
      mem 0x100 4 e.1 (holding mems [(4#7, 0x03020180#32)]) == some e.2 && got (·.rv 4#7) e.1 (holding mems [(4#7, 0x03020180#32)]) == some 0x03020180#32) = true ∧
    mem 0x100 8 (atom .add .n64 10#7 0#7) mems = some 0x070605040302017F := by decide +kernel
theorem test_memory_witness : ([ld .n32 4#7 at2, st .n32 8#7 at2, st .b128 8#7 at2, atom .add .n32 9#7 0#7, atom .cas .n64 10#7 8#7] : List Instr).all
      (fun i => readyB g7 i mems) = true ∧ memWf mems.mem = true ∧ isLost mems (2 ^ 52 + 0x100) = false ∧
    passes (locate mems 0 (here mems) false 0x100_0000_0100#64 16 Access.both) = true ∧
    passes (locate mems 0 (here mems) true 0xFFFFFFFC#64 4 Access.both) = false ∧ dieAt mems (2 ^ 52) = some 0 ∧
    dieAt mems (sliceLoc 143 0) = some 7 := by decide +kernel
/-- A write to another die waits in the mesh when the device takes that outcome (03 R97). -/
theorem test_mesh_store : ((after (st .n32 8#7 at2) (holding { mems with choices := { mems.choices with mesh := true }, ctxs := [(0, { Ctx.reset with
      desc := fetchDesc 0x1000 ||| (3#1024 <<< 462) ||| 4#1024 })] } [(2#7, 0x23C00100#32)])).map fun s => s.mesh.map fun w => (w.dest, w.bytes.length)) =
    some [(7, 4)] := by decide +kernel
/-- Ordered cells (04 R115 to R117): ORDINIT of 1.0 with 3 ranks; an add of 1.0 at rank 0; one at rank 1 that is held. -/
def ord : State := match exec (.ordinit g7 ⟨false, .relaxed, .th, 8#7, at2, 9#7⟩) (holding mems [(8#7, 0x3F800000#32)]) with
  | .next s => s
  | _ => base
theorem test_ordered : leNat (ord.read (2 ^ 52 + 0x100) 16) = 0x3F800000 + (3 * 2 ^ 24 + 2 ^ 54) * 2 ^ 64 ∧ ord.ordered.length = 1 ∧
    mem 0x100 8 (.aaddf g7 ⟨false, .relaxed, .th, 6#7, at2, 8#7⟩) ord = some 0x40000000 ∧
    mem 0x108 3 (.aaddf g7 ⟨false, .relaxed, .th, 6#7, at2, 8#7⟩) ord = some 1 ∧
    mem 0x100 8 (.aaddf g7 ⟨false, .relaxed, .th, 6#7, at2, 8#7⟩) (holding ord [(6#7, 1#32)]) = some 0x3F800000 ∧
    takes (st .n32 8#7 at2) ord = some (.orderedCell, 0) := by decide +kernel
theorem test_ordered_witness : readyB g7 (.ordinit g7 ⟨false, .relaxed, .th, 8#7, at2, 9#7⟩) mems = true ∧
    readyB g7 (.aaddf g7 ⟨false, .relaxed, .th, 6#7, at2, 8#7⟩) ord = true ∧ readyB g7 (st .n32 8#7 at2) ord = true ∧
    passes (locate ord 0 (here ord) false 0x100_0000_0100#64 16 Access.cell) = true ∧ mems.ordered = [] ∧
    ord.ordered.map (fun c => (c.loc, c.n, c.e, c.f64, c.window)) = [(2 ^ 52 + 0x100, 3, 0, false, [])] ∧ memWf ord.mem = true := by decide +kernel
/-- Copies (04 R122, R126) from the aperture to the window, their barrier at window offset 0x40. -/
def cpy : Instr := .cpy g7 0#4 ⟨.b128, 1#2, .team, 4#7, { at2 with win := true }, 12#7, false, 8#7⟩
def cpys : Instr := .cpys g7 0#4 ⟨2#2, .team, 4#7, { at2 with win := true }, 12#7, 8#7⟩
def copying : State := holding mems [(8#7, 0x40#32)]
def striding : State := holding mems [(8#7, 0x20020#32), (9#7, 0x40#32), (10#7, 0xFFFFFFC0#32), (11#7, 0x40#32)]
theorem test_copies : ((after cpy copying).map fun s => ((queueAt s 0 1).length, s.mem == mems.mem)) = some (1, true) ∧
    ((after cpys striding).map fun s => (queueAt s 0 2).map (·.bytes)) = some [64] ∧ readyB g7 cpy copying = true ∧ readyB g7 cpys striding = true ∧
    passes (cpyChecks copying 0 (here copying) ⟨.b128, 1#2, .team, 4#7, { at2 with win := true }, 12#7, false, 8#7⟩) = true ∧
    passes (cpysChecks striding 0 (here striding) ⟨2#2, .team, 4#7, { at2 with win := true }, 12#7, 8#7⟩) = true := by decide +kernel
/-- A state whose queue `q` of core 0 holds 64 entries. -/
def crowded (s : State) (q : Nat) : State :=
  s.setCore 0 { s.core 0 with queues := Vector.ofFn fun k => if k.val = q then List.replicate 64 ⟨0, 0, 1, 16, false, .copy [] none, none⟩ else [] }
theorem test_copy_stalls : got (·.status) cpy (crowded copying 1) = some (.stalled (.room 1 0)) ∧
    64 ≤ (queueAt (crowded copying 1) 0 1).length := by decide +kernel
theorem test_fences : got (·.pc) (.fence g7 .sc .dev) mems = some 0x40008#64 ∧ got (·.pc) (.pref g7 .th true at2) mems = some 0x40008#64 ∧
    got (·.pc) (.qfence g7 .dev 0x83#8) mems = some 0x40008#64 ∧ ((after cpy copying).bind (after (.qfence g7 .dev 0x82#8)) |>.map fun s => (queueAt s 0 7).length) = some 1 ∧
    ((after (.qfence g7 .dev 0x82#8) mems).map fun s => (queueAt s 0 7).length) = some 0 ∧
    [(.fence g7 .sc .dev : Instr), .pref g7 .th true at2, .qfence g7 .dev 0x83#8].all (fun i => readyB g7 i mems) = true := by decide +kernel
/-- Rings whose entries are all full of 7. -/
def fullRing : Ring := { Ring.empty with entries := Vector.replicate 16 ⟨7#32, true⟩ }
def ringed : State := { mems with teams := [(1, { fetchTeam with rings := Vector.replicate 8 fullRing })] }
/-- Stage rings (04 R133, R134). -/
theorem test_rings : ((after (.srput g7 .team 5#3 9#7) mems).bind fun s => (s.team 1).map fun t => ((t.ring 5#3).entries[0].value, (t.ring 5#3).put)) = some (3#32, 1#4) ∧
    got (·.status) (.srget g7 0#4 .team 5#3 4#7) mems = some (.stalled (.ring 5)) ∧
    got (·.rv 4#7) (.srget g7 0#4 .team 5#3 4#7) ringed = some 7#32 ∧
    got (·.status) (.srput g7 .team 5#3 9#7) ringed = some (.stalled (.ring 5)) ∧
    [(.srput g7 .team 5#3 9#7 : Instr), .srget g7 0#4 .team 5#3 4#7].all (fun i => readyB g7 i mems) = true := by decide +kernel
/-- Barriers (04 Tables 6 and 7) at 0x200, v12:v13. -/
def atBar : MemOp := { at2 with base := .v 12#7 }
def bar (arr sec ph reload : Nat) : State := mems.write (2 ^ 52 + 0x200) (toBytes 16 (reload * 2 ^ 64 + sec * 2 ^ 32 + arr * 2 ^ 4 + ph))
theorem test_barriers : mem 0x200 16 (.tbinit g7 ⟨.team, 0#7, atBar, 9#7⟩) mems = some (3 * 2 ^ 64 + 3 * 2 ^ 4) ∧
    mem 0x200 16 (.tbexp g7 ⟨.team, 0#7, atBar, 9#7⟩) (bar 1 2 15 1) = some (2 ^ 64 + 5 * 2 ^ 32 + 2 ^ 4 + 15) ∧
    mem 0x200 16 (.tbarr g7 ⟨.team, 0#7, atBar, 0#7⟩) (bar 1 0 15 2) = some (2 * 2 ^ 64 + 2 * 2 ^ 4) ∧
    mem 0x200 16 (.tbarr g7 ⟨.team, 0#7, atBar, 0#7⟩) (bar 1 1 15 2) = some (2 * 2 ^ 64 + 2 ^ 32 + 15) ∧
    got (·.status) (.tbarr g7 ⟨.team, 0#7, atBar, 0#7⟩) (bar 0 1 15 2) = some (.stalled (.arrival (2 ^ 52 + 0x200) 15#4)) ∧
    got (·.status) (.tbwait g7 ⟨.team, 0#7, atBar, 9#7⟩) (bar 1 0 3 1) = some (.parked (.barrier (2 ^ 52 + 0x200) 3#4)) ∧
    got (·.pc) (.tbwait g7 ⟨.team, 0#7, atBar, 9#7⟩) (bar 1 0 4 1) = some 0x40008#64 ∧
    got (·.pred 1#3) (.tbtest g7 0#4 1#3 ⟨.team, 0#7, atBar, 9#7⟩) (bar 1 0 4 1) = some true := by decide +kernel
theorem test_sleepto : got (·.pc) (.sleepto g7 ⟨.team, 4#7, atBar, 9#7⟩) (bar 1 0 4 1) = some 0x40008#64 ∧
    got (·.status) (.sleepto g7 ⟨.team, 4#7, atBar, 9#7⟩) (bar 1 0 3 1) = some (.parked (.barrier (2 ^ 52 + 0x200) 3#4)) ∧
    takes (.sleepto g7 ⟨.team, 4#7, atBar, 9#7⟩) (setCfield (bar 1 0 3 1) 0 920 1 1) = some (.promiseMiss, 0) ∧
    got (·.status) (.sleepto g7 ⟨.team, 10#7, atBar, 9#7⟩) (bar 1 0 3 1) =
      some (.parked (.sleep 0x100_0000_0200#64 (2 ^ 52 + 0x200) 3#4 0xFFFFFFFFFFFFFFFF#64)) := by decide +kernel
theorem test_barriers_witness : passes (locateBar (bar 1 0 3 1) 0 (here mems) atBar) = true ∧ barRoom (bar 1 0 3 1) (2 ^ 52 + 0x200) = true ∧
    memWf (bar 1 0 3 1).mem = true ∧ ([.tbinit g7 ⟨.team, 0#7, atBar, 9#7⟩, .tbexp g7 ⟨.team, 0#7, atBar, 9#7⟩, .tbarr g7 ⟨.team, 0#7, atBar, 0#7⟩,
      .tbwait g7 ⟨.team, 0#7, atBar, 9#7⟩, .tbtest g7 0#4 1#3 ⟨.team, 0#7, atBar, 9#7⟩, .sleepto g7 ⟨.team, 4#7, atBar, 9#7⟩] : List Instr).all
      (fun i => readyB g7 i (bar 1 0 3 1)) = true := by decide +kernel

/-! Threads, frames, groups, lists and cells. -/

/-- The memory state above with ln = 0x40000, parcels 0, 1 and 2 of the line targets, and frames on chip. -/
def framed (l : List Frame) : State := edit (mems.write 0x4003C [7#8]) fun t => { t with ln := 0x40000#64, chip := l }
/-- A frame with the entry 0x40000 and the join cell at 2^40 + 0x100: ten argument words, or a range from 3 up to `hi`. -/
def aFrame (range promoted : Bool) (hi : Word) : Frame :=
  { entry := 0x40000#57, range := range, bound := false, promoted := promoted, join := 0x100_0000_0100#64, lo := if range then 3#32 else 0#32, hi := hi
    grain := if range then 1#32 else 0#32, args := if range then [11#32, 12#32, 13#32, 14#32] else [11#32, 12#32, 13#32, 14#32, 15#32, 16#32]
    site := 0x40000#57, bwidth := 0#2, bpos := 0#5, dv := Vector.replicate 8 0, poison := false }
theorem test_thread_ends : ([.exit g7, .exitShort g7] : List Instr).all (fun i => (after i mems).any fun s => (s.thr 0).isNone && s.mem == mems.mem) = true ∧
    ((after (.tdoneR g7) mems).any fun s => (s.thr 0).isNone) = true ∧ got (·.pc) (.tdoneR g7) (framed []) = some 0x40000#64 ∧
    takes (.exit g7) four = some (.illegalConvergence, 3) ∧ (here mems).ln = 0#64 ∧ passes (checkTarget (framed []) 0 0 0 0x40000#64) = true ∧
    [(.exit g7 : Instr), .exitShort g7, .tdoneR g7, .reconv g7, .yield g7 true, .acquire g7].all (fun i => readyB g7 i mems) = true := by decide +kernel
/-- Two threads of one gang in one bank, the second running. -/
def pair : State := { base with threads := [(0, here base), (16, { here base with tid := 1#32 })] }
theorem test_yield_and_reconv : got (·.pc) (.yield g7 false) base = some 0x40008#64 ∧ got (·.status) (.yield g7 true) base = some (.parked .beat) ∧
    got (·.pc) (.reconv g7) base = some 0x40008#64 ∧ got (fun t => (t.status, t.pc)) (.reconv g7) pair = some (.held 0, 0x40000#64) ∧
    (pair.threads.map (·.1)).Nodup ∧ (thrAt pair 16).gang = some 0 ∧ running (thrAt pair 16) = true ∧ readyB g7 (.reconv g7) pair = true := by decide +kernel
/-- A kernel of 32 registers, its thread lent 16; and a lane with no more than 8 left. -/
def wide : State := { mems with teams := [(1, { fetchTeam with gangs := [{ fetchGang with allot := 32 }] })] }
def tight : State := { wide with threads := wide.threads ++ [(1, { here base with allot := 2024 })] }
theorem test_acquire : got (fun t => (t.allot, t.rv 8#7, t.rv 20#7)) (.acquire g7) (holding wide [(20#7, 5#32)]) = some (32, 0x81828384#32, 0#32) ∧
    got (·.pc) (.acquire g7) mems = some 0x40008#64 ∧ got (fun t => (t.allot, t.pc)) (.acquire g7) tight = some (16, 0x40000#64) ∧
    poolOfLane wide 0 = 2032 ∧ poolOfLane tight 0 = 8 ∧ (homeGang wide (here wide)).isSome = true := by decide +kernel
/-- 13 R303: FORK at v4 to v9 and FORKR at v8 to v14, entry v14:v15, cell v2:v3. -/
theorem test_fork : ((after (.fork g7 ⟨1#3, .v 14#7, .v 2#7, 4#7⟩) (framed [])).bind fun s => (s.thr 0).map fun t => (t.chip.map (·.args), t.pred 1#3, t.region)) =
      some ([[0#32, 0#32, 0#32, 1#32, 0x81828384#32, 3#32]], true, 0x40008#57) ∧
    mem 0x100 16 (.fork g7 ⟨1#3, .v 14#7, .v 2#7, 4#7⟩) (framed []) = some 0 ∧
    mem 0x100 16 (.forkr g7 ⟨1#3, .v 14#7, .v 2#7, 8#7⟩) (framed []) = some (3 * 2 ^ 126 + 1) ∧
    got (fun t => t.chip.map fun f => (f.lo, f.hi, f.grain)) (.forkr g7 ⟨1#3, .v 14#7, .v 2#7, 8#7⟩) (framed []) = some [(0x81828384#32, 3#32, 1#32)] ∧
    got (fun t => (t.spilled.length, t.pred 1#3)) (.fork g7 ⟨1#3, .v 14#7, .v 2#7, 4#7⟩)
      (edit (framed []) fun t => { t with spilled := List.replicate 64 (Vector.replicate 8 0) }) = some (64, false) := by decide +kernel
theorem test_fork_witness : readyB g7 (.fork g7 ⟨1#3, .v 14#7, .v 2#7, 4#7⟩) (framed []) = true ∧ readyB g7 (.forkr g7 ⟨1#3, .v 14#7, .v 2#7, 8#7⟩) (framed []) = true ∧
    passes (checkTarget (framed []) 0 0 0 0x40008#64) = true ∧ passes (locate (framed []) 0 (here (framed [])) false 0x100_0000_0100#64 16 Access.store) = true ∧
    waitersAt (framed []) (2 ^ 52 + 0x100) = [] ∧ memWf (framed []).mem = true ∧ poolOfLane (framed []) 0 = 2032 := by decide +kernel
/-- 13 R304, R308, R309. -/
theorem test_frames : got (fun t => (t.rv 4#7, t.pred 1#3, t.chip.map (·.lo))) (.iter g7 1#3 4#7) (framed [aFrame true false 5#32]) = some (3#32, true, [4#32]) ∧
    got (·.pred 1#3) (.iter g7 1#3 4#7) (framed [aFrame true false 3#32]) = some false ∧ got (·.pred 1#3) (.iter g7 1#3 4#7) (framed [aFrame false false 0#32]) = some false ∧
    got (fun t => (t.chip.length, t.pred 1#3)) (.fdrop g7 1#3) (framed [aFrame false false 0#32, aFrame true false 5#32]) = some (1, true) ∧
    got (fun t => (t.chip.length, t.pred 1#3)) (.fdrop g7 1#3) (framed [aFrame false true 0#32]) = some (1, false) ∧
    got (·.rv 4#7) (.fdepth g7 4#7) (framed [aFrame false false 0#32, aFrame true true 5#32]) = some 0x302#32 ∧
    got (·.rv 4#7) (.fdepth g7 4#7) (framed []) = some 0#32 ∧
    [(.iter g7 1#3 4#7 : Instr), .fdrop g7 1#3, .fdepth g7 4#7].all (fun i => readyB g7 i (framed [aFrame true true 5#32])) = true := by decide +kernel
/-- The state above with the bits x in the cell at 0x100 and y in the one at 0x200. -/
def cells (l : List Frame) (x y : Nat) : State := ((framed l).write (2 ^ 52 + 0x100) (toBytes 16 x)).write (2 ^ 52 + 0x200) (toBytes 16 y)
theorem test_joins : got (fun t => (t.pc, t.ln, t.chip.length, t.rv 5#7, t.rv 6#7)) (.join g7) (framed [aFrame false false 0#32]) = some (0x40000#64, 0x40008#64, 0, 16#32, 0#32) ∧
    got (fun t => (t.pc, t.rv64 0#7, t.chip.length)) (.join g7) (cells [aFrame false true 0#32] (2 ^ 126 + 77) 0) = some (0x40008#64, 77#64, 0) ∧
    got (·.status) (.join g7) (cells [aFrame false true 0#32] 0 0) = some (.parked (.cell .join)) ∧
    got (fun t => (t.pc, t.ln, t.chip.length, t.rv 3#7)) (.joinr g7) (framed [aFrame true false 5#32]) = some (0x40000#64, 0x40000#64, 1, 14#32) ∧
    mem 0x100 16 (.joinr g7) (cells [aFrame true false 3#32] (3 * 2 ^ 126 + 2) 0) = some (3 * 2 ^ 126 + 1) ∧
    takes (.join g7) (framed [aFrame true false 5#32]) = some (.illegalInstruction, 2) ∧ takes (.joinr g7) (framed [aFrame false false 0#32]) = some (.illegalInstruction, 2) := by
  decide +kernel
theorem test_joins_witness : readyB g7 (.join g7) (framed [aFrame false false 0#32]) = true ∧ readyB g7 (.joinr g7) (framed [aFrame true false 5#32]) = true ∧
    passes (checkTarget (framed [aFrame true false 5#32]) 0 0 0 0x40000#64) = true ∧ recordRoom (framed []) (2 ^ 52 + 0x100) (none, 0) 0 = true ∧
    (match reachCell (cells [] (3 * 2 ^ 126 + 2) 0) 0 0x100_0000_0100 0x100_0000_0100 Access.both with
      | .ok x => x == (2 ^ 52 + 0x100, BitVec.ofNat 128 (3 * 2 ^ 126 + 2))
      | _ => false) = true := by decide +kernel
/-- Four threads of one gang on lanes 0 to 3, the last to come to BIND at place 0; and the group of four, the same at UNBIND. -/
def unbound : State := { four with threads := four.threads.map fun e => (e.1, { e.2 with group := none }), groups := [] }
theorem test_binding : all (fun t => (t.group.isSome, t.pc)) 4 (.bind g7 0#2) unbound = List.replicate 4 (true, 0x40008#64) ∧
    ((after (.bind g7 0#2) unbound).map fun s => s.groups.map (·.2.members)) = some [row 4] ∧
    all (fun t => (t.group.isSome, t.pc)) 4 (.unbind g7) four = List.replicate 4 (false, 0x40008#64) ∧
    blockThreads unbound 0 (here unbound) 4 = row 4 ∧ isLegacy unbound (here unbound) = false ∧ (here unbound).gang.isSome = true ∧
    (row 4).all (fun p => (thrAt unbound p).pred 7#3 && ((thrAt unbound p).pc == 0x40000#64) && (p == 0 || decide ((thrAt unbound p).status = .stalled .meet))) = true := by
  decide +kernel
/-- A work list whose header stands at 2^40 + 0x100, its ring of 1,024 slots at 2^40 + 0x4000, one entry spilled or none; entries l on chip. -/
def lists (head tail : Nat) (l : List WlEntry) : State :=
  let s := mems.write (2 ^ 52 + 0x100) (toBytes 8 (2 ^ 40 + 0x4000) ++ toBytes 8 10 ++ toBytes 8 0 ++ toBytes 8 head ++ toBytes 8 tail ++ toBytes 8 0)
  s.setCore 0 { s.core 0 with wl := l }
def entry (v : Word) : WlEntry := ⟨1, 0, 0x100_0000_0100#64, v⟩
theorem test_work_lists : ((after (.wlpush g7 ⟨1#3, .v 2#7, 9#7⟩) (lists 0 0 [])).map fun s => (s.core 0).wl) = some [entry 3#32] ∧
    ((after (.wlins g7 ⟨1#3, .v 2#7, 9#7⟩) (lists 0 0 [entry 4#32])).map fun s => (s.core 0).wl) = some [entry 4#32, entry 3#32] ∧
    got (·.pred 1#3) (.wlins g7 ⟨1#3, .v 2#7, 9#7⟩) (lists 0 0 [entry 3#32]) = some false ∧
    got (fun t => (t.rv 4#7, t.pred 1#3)) (.wlpop g7 0#4 ⟨1#3, 4#7, .v 2#7⟩) (lists 0 0 [entry 4#32, entry 5#32]) = some (4#32, true) ∧
    got (·.pred 1#3) (.wlpop g7 0#4 ⟨1#3, 4#7, .v 2#7⟩) (lists 7 7 []) = some false ∧
    mem 0x128 1 (.wlpop g7 0#4 ⟨1#3, 4#7, .v 2#7⟩) (lists 7 7 []) = some 1 ∧
    got (·.rv64 4#7) (.wlcnt g7 0#4 ⟨4#7, .v 2#7⟩) (lists 7 9 [entry 4#32]) = some 3#64 ∧
    got (·.pred 1#3) (.wlpush g7 ⟨1#3, .v 2#7, 9#7⟩) (lists 0 0 (List.replicate 4096 ⟨2, 0, 0#64, 0#32⟩)) = some false := by decide +kernel
/-- Queue 3 of context 0, device-resident, its ring of 16 slots at 2^40 + 0x8000 and its template at 2^40 + 0x9000, with 13 or 14 slots full. -/
def spawning (w : Nat) : State :=
  (holding (lists 0 0 []) [(9#7, 3#32)]).setQueue 3 { Queue.reset with
    desc := BitVec.ofNat 512 (2 ^ 40 + 0x8000 + 2 ^ 59 + 4 * 2 ^ 64 + w * 2 ^ 128 + (2 ^ 40 + 0x9000) * 2 ^ 256) }
theorem test_spawn : ((after (.spawn g7 ⟨1#3, .v 2#7, 9#7⟩) (spawning 13)).map fun s => qfield s 3 128 32) = some 16 ∧
    got (·.pred 1#3) (.spawn g7 ⟨1#3, .v 2#7, 9#7⟩) (spawning 13) = some true ∧ got (·.pred 1#3) (.spawn g7 ⟨1#3, .v 2#7, 9#7⟩) (spawning 14) = some false := by decide +kernel
theorem test_lists_witness : ([.wlpush g7 ⟨1#3, .v 2#7, 9#7⟩, .wlins g7 ⟨1#3, .v 2#7, 9#7⟩, .wlpop g7 0#4 ⟨1#3, 4#7, .v 2#7⟩, .wlcnt g7 0#4 ⟨4#7, .v 2#7⟩,
      .spawn g7 ⟨1#3, .v 2#7, 9#7⟩] : List Instr).all (fun i => readyB g7 i (spawning 13)) = true ∧ passes (locateHead (spawning 13) 0 (here (spawning 13)) 0x100_0000_0100#64) = true ∧
    memWf (spawning 13).mem = true ∧ passes (spawnPlan (spawning 13) 0 (here (spawning 13)) 0x100_0000_0100#64 3) = true := by decide +kernel
/-- Promise cells at 0x100, and 0x200 for CEQU: 05 Tables 1 and 2. -/
def cell (d b : VReg) : CellOps := ⟨.team, d, at2, b⟩
theorem test_cells : mem 0x100 16 (.cinit g7 (cell 0#7 0#7)) (cells [] 5 0) = some 0 ∧ mem 0x100 16 (.cinitCount g7 (cell 12#7 0#7)) (cells [] 5 0) = some (3 * 2 ^ 126 + 0x100_0000_0200) ∧
    mem 0x100 16 (.cinitCount g7 (cell 0#7 0#7)) (cells [] 5 0) = some (2 ^ 126) ∧ mem 0x100 16 (.cfill g7 (cell 10#7 0#7)) (cells [] 0 0) = some (2 ^ 126 + 2 ^ 64 - 1) ∧
    got (·.pc) (.cfill g7 (cell 10#7 0#7)) (cells [] (2 ^ 126 + 2 ^ 64 - 1) 0) = some 0x40008#64 ∧ takes (.cfill g7 (cell 12#7 0#7)) (cells [] (2 ^ 126) 0) = some (.conflictingFill, 0) ∧
    mem 0x100 16 (.cfillCnt g7 (cell 10#7 0#7)) (cells [] (3 * 2 ^ 126 + 5) 0) = some (3 * 2 ^ 126 + 4) ∧ mem 0x100 16 (.cfillCnt g7 (cell 10#7 0#7)) (cells [] (3 * 2 ^ 126 + 1) 0) = some (2 ^ 126) ∧
    got (·.rv64 4#7) (.cwait g7 (cell 4#7 0#7)) (cells [] (2 ^ 126 + 9) 0) = some 9#64 ∧ mem 0x100 16 (.cwait g7 (cell 4#7 0#7)) (cells [] 0 0) = some (2 ^ 112) ∧
    got (·.status) (.cwait g7 (cell 4#7 0#7)) (cells [] 0 0) = some (.parked (.cell (.wait 4#7))) ∧
    got (fun t => (t.pred 1#3, t.rv64 4#7)) (.ctest g7 0#4 1#3 (cell 4#7 0#7)) (cells [] (2 ^ 126 + 9) 0) = some (true, 9#64) ∧
    got (fun t => (t.rv64 4#7, t.rv64 6#7)) (.cpeek g7 0#4 (cell 4#7 0#7)) (cells [] (3 * 2 ^ 126 + 9) 0) = some (9#64, 0xC000_0100_0000_0100#64) ∧
    got (fun t => (t.pc, t.rv64 0#7)) (.tdone g7 (.v 2#7) 10#7) (cells [] 0 0) = some (0x40000#64, 0xFFFFFFFFFFFFFFFF#64) ∧
    mem 0x100 16 (.tdone g7 (.v 2#7) 10#7) (cells [] 0 0) = some (2 ^ 126 + 2 ^ 64 - 1) := by decide +kernel
theorem test_cells_witness : ([.cinit g7 (cell 0#7 0#7), .cinitCount g7 (cell 12#7 0#7), .cfill g7 (cell 10#7 0#7), .cfillCnt g7 (cell 10#7 0#7), .cwait g7 (cell 4#7 0#7),
      .ctest g7 0#4 1#3 (cell 4#7 0#7), .cpeek g7 0#4 (cell 4#7 0#7), .tdone g7 (.v 2#7) 10#7, .cequ g7 (cell 0#7 12#7)] : List Instr).all (fun i => readyB g7 i (cells [] 0 0)) = true ∧
    passes (locateCell (cells [] 0 0) 0 (here (cells [] 0 0)) at2 Access.both) = true ∧ memWf (cells [] 0 (2 ^ 126)).mem = true ∧
    passes (reachCell (cells [] 0 0) 0 0x100_0000_0100 0x100_0000_0200 Access.both) = true ∧ (here (cells [] 0 0)).ln ≠ 0#64 ∧
    passes (translate (cells [] 0 0) 144 0 0x100_0000_0100#64 Access.store) = true := by decide +kernel
theorem test_equate : mem 0x200 16 (.cequ g7 (cell 0#7 12#7)) (cells [] 0 0) = some (2 * 2 ^ 126 + 2 ^ 40 + 0x100) ∧
    mem 0x200 16 (.cequ g7 (cell 0#7 12#7)) (cells [] (2 ^ 126 + 9) 0) = some (2 ^ 126 + 9) ∧ mem 0x100 16 (.cequ g7 (cell 0#7 12#7)) (cells [] 0 (2 ^ 126 + 9)) = some (2 ^ 126 + 9) ∧
    got (·.pc) (.cequ g7 (cell 0#7 12#7)) (cells [] (2 ^ 126 + 9) (2 ^ 126 + 9)) = some 0x40008#64 ∧
    takes (.cequ g7 (cell 0#7 12#7)) (cells [] (2 ^ 126 + 9) (2 ^ 126 + 8)) = some (.conflictingFill, 0) := by decide +kernel
/-- A thread at place 16 that waits at the cell wakes with the value a fill gives. -/
def waited : State := { cells [] 0 0 with
  threads := [(0, here (cells [] 0 0)), (16, { here base with status := .parked (.cell (.wait 6#7)), npc := 0x40008#64 })]
  cellWaiters := [⟨2 ^ 52 + 0x100, 0x100_0000_0100, 0, 16, none, none, 0⟩] }
theorem test_fill_wakes : ((after (.cfill g7 (cell 10#7 0#7)) waited).map fun s => ((thrAt s 16).status, (thrAt s 16).pc, (thrAt s 16).rv64 6#7, s.cellWaiters)) =
      some (.ready 0, 0x40008#64, 0xFFFFFFFFFFFFFFFF#64, []) ∧ readyB g7 (.cfill g7 (cell 10#7 0#7)) waited = true ∧ (waited.threads.map (·.1)).Nodup := by decide +kernel
/-! The matrix engine and the signature stage. -/

/-- A whole bank with v2:v3 = 2^40 + 0x1000, v8 = 1.0, v9 = 256, v12:v13 = 2^40 + 0x8000, v14 = 2; its team holds names 2 and 3 in
slots 5 and 6, and tiles 4 to 11; the core has 1,000 nJ, and buffer 0 two rows and a .group map of them. -/
def rig : State :=
  let s := bound 32 fun _ t => ([(2#7, 0x1000#32), (3#7, 0x100#32), (8#7, 0x3F800000#32), (9#7, 256#32), (12#7, 0x8000#32), (13#7, 0x100#32),
    (14#7, 2#32)] : List (VReg × Word)).foldl (fun t e => t.setV e.1 e.2) t
  s.setCore 0 { s.core 0 with
    energy := 1000, binds := [⟨5, 1, 2⟩, ⟨6, 1, 3⟩], shares := [⟨1, 4, 8⟩]
    bufs := [{ SigBuf.fresh 1 0 with rows := 2, map := List.replicate 2048 0#8 ++ toBytes 8 (2 + 2 ^ 16 + 2 ^ 36) ++ List.replicate 56 0#8 }] }
/-- What the operation accepted into a queue reads and writes: slots, tiles, sectors of memory. -/
def caps (q : Nat) (i : Instr) (s : State) : Option (List Nat × List Nat × List Nat × List Nat × Nat) :=
  (after i s).bind fun s => (queueAt s 0 q).head?.bind fun e => match e.kind with
    | .eng op => some (op.slotsR, op.slotsW, op.tilesR, op.tilesW, op.locs.length)
    | _ => none
def matrices : List (Instr × List Nat × List Nat × List Nat × List Nat × Nat) := [
  (.mld g7 ⟨1#4, 2#7, 9#7, 3#6⟩, [], [6], [], [], 256), (.mldc g7 ⟨1#4, .f32, .rn, 2#7, 9#7, false, 1#11⟩, [], [], [], [5], 128),
  (.mst g7 ⟨1#4, .f16, .rn, 2#7, 9#7, false, 1#11⟩, [], [], [5], [], 64), (.mzero g7 1#4 true 1#11, [], [], [], [5, 6], 0),
  (.mma g7 ⟨1#4, .f32, 1#11, 2#6, 3#6, 0#7⟩, [5, 6], [], [5], [5], 0), (.mma g7 ⟨1#4, .f64, 0#11, 2#6, 2#6, 0#7⟩, [5, 5], [], [4, 5], [4, 5], 0),
  (.mtrn g7 ⟨1#4, .f32, 1#11, 2#6, 0#7⟩, [5], [], [], [5], 0), (.mprm g7 ⟨1#4, .f32, 1#11, 2#6, 8#7, 0#7⟩, [5], [], [], [5], 0),
  (.mred g7 ⟨1#4, .f32, .rn, 1#11, 2#6, false, 0#7⟩, [5], [], [5], [5], 0)]
theorem test_matrix_acceptance : matrices.all (fun e => caps 4 e.1 rig == some e.2) = true := by decide +kernel
def signatures : List (Instr × List Nat × List Nat × List Nat × List Nat × Nat) := [
  (.sighSrp g7 ⟨1#4, .f32, 2#6, 12#7, 0#2, 16#5⟩, [5], [], [], [], 0), (.sighKey g7 ⟨1#4, 12#7, 0#2, 8#7⟩, [], [], [], [], 0),
  (.sigb g7 ⟨1#4, .group, .f32, 3#6, 2#6, 12#7, 0#2⟩, [5], [6], [], [], 1), (.sigs g7 ⟨1#4, false, false, 12#7, 0#2⟩, [], [], [6], [4], 0),
  (.sigg g7 ⟨1#4, false, false, 12#7, 0#2⟩, [], [], [6], [4], 0), (.sigmap g7 ⟨1#4, 12#7, 0#2⟩, [], [], [], [], 1)]
theorem test_signature_acceptance : signatures.all (fun e => caps 6 e.1 rig == some e.2) = true := by decide +kernel
/-- One token of the group is pending, every member has gone on; a name not held, a full queue, a group of four. -/
theorem test_acceptance : all (fun t => (t.pc, (t.token 1#4).pend.isSome)) 32 (.mzero g7 1#4 false 1#11) rig = List.replicate 32 (0x40008#64, true) ∧
    takes (.mma g7 ⟨1#4, .f32, 1#11, 2#6, 9#6, 0#7⟩) rig = some (.slotOwnership, 0) ∧ takes (.mzero g7 1#4 false 8#11) rig = some (.slotOwnership, 0) ∧
    got (·.status) (.mzero g7 1#4 false 1#11) (crowded rig 4) = some (.stalled (.groupRoom 4)) ∧ got (·.status) (.sigmap g7 ⟨1#4, 12#7, 0#2⟩) (crowded rig 6) = some (.stalled (.groupRoom 6)) ∧
    takes (.mzero g7 1#4 false 1#11) four = some (.illegalConvergence, 0) := by decide +kernel
theorem test_acceptance_witness : (matrices ++ signatures).all (fun e => gatheredB true g7 e.1 rig (row 32)) = true ∧ rig.cur ∈ row 32 := by decide +kernel
theorem test_acceptance_gathered : GatheredWhole true g7 (.mzero g7 1#4 true 1#11) rig (row 32) :=
  gathered_whole_of (List.all_eq_true.1 test_acceptance_witness.1 (.mzero g7 1#4 true 1#11, [], [], [], [5, 6], 0) (by simp [matrices]))
    (by decide +kernel) (by decide +kernel)
theorem test_slots : ((after (.mclaim g7 9#6) rig).map fun s => (s.core 0).binds) = some [⟨5, 1, 2⟩, ⟨6, 1, 3⟩, ⟨0, 1, 9⟩] ∧
    ((after (.mrel g7 2#6) rig).map fun s => (s.core 0).binds) = some [⟨6, 1, 3⟩] ∧ takes (.mclaim g7 2#6) rig = some (.slotOwnership, 0) ∧
    takes (.mrel g7 9#6) rig = some (.slotOwnership, 0) ∧ [(.mclaim g7 9#6 : Instr), .mrel g7 2#6].all (fun i => gatheredB true g7 i rig (row 32)) = true := by decide +kernel
/-- Tokens: one with no operation, one that waits, one whose operations are complete with flags 1 and 16. -/
def tokens (l : List (Nat × Option (BitVec 5))) : State :=
  { edit rig fun t => { t with tok := t.tok.set 1 ⟨some (9, 3), 0#5⟩ } with groups := [(9, ⟨1, row 32, l, true⟩)] }
theorem test_tokens : got (·.rv 4#7) (.mwait g7 4#7 1#4) (tokens [(2, some 1#5), (3, some 16#5)]) = some 17#32 ∧
    got (·.status) (.mwait g7 4#7 1#4) (tokens [(2, some 1#5), (3, none)]) = some (.parked (.token 1#4 4#7)) ∧
    got (·.status) (.mwait g7 4#7 1#4) (tokens [(2, none), (3, some 1#5)]) = some (.parked (.token 1#4 4#7)) ∧
    got (·.rv 4#7) (.mwait g7 4#7 2#4) (tokens []) = some 0#32 ∧ got (·.pred 1#3) (.mtest g7 1#3 1#4) (tokens [(3, none)]) = some false ∧
    got (·.pred 1#3) (.mtest g7 1#3 2#4) (tokens []) = some true ∧ [(.mwait g7 4#7 1#4 : Instr), .mtest g7 1#3 1#4].all (fun i => readyB g7 i (tokens [])) = true := by
  decide +kernel
/-- The operation a queue holds after an instruction. -/
def opIn (q : Nat) (i : Instr) : Option (State × Nat) := (after i rig).bind fun s => (queueAt s 0 q).head?.map fun e => (s, e.id)
/-- Its start, and its end. -/
def performed (q : Nat) (i : Instr) : Option State :=
  (opIn q i).bind fun x => (after (if q = 6 then .sigOpStart 0 else .tileOpStart 0 q) x.1).bind (after (if q = 6 then .sigOpComplete 0 else .tileOpComplete 0 q x.2))
/-- 08 R248, Table 2: the debits of MZERO, 1 nJ, and of an FP32 MMA, 44 nJ; the array busy; then the queue empty, the log written. -/
theorem test_operations : ((opIn 4 (.mma g7 ⟨1#4, .f32, 1#11, 2#6, 3#6, 0#7⟩)).bind fun x => (after (.tileOpStart 0 4) x.1).map fun s =>
      ((s.core 0).energy, decide ((s.core 0).arr0 = .busy))) = some (956, true) := by decide +kernel
theorem test_operations_end : ((performed 4 (.mzero g7 1#4 false 1#11)).map fun s => ((queueAt s 0 4).length, (s.core 0).energy, decide ((s.core 0).arr0 = .idle), (s.group 9).any fun g => g.log.map (·.2) == [some 0#5])) =
      some (0, 999, true, true) ∧
    ((performed 6 (.sighKey g7 ⟨1#4, 12#7, 0#2, 9#7⟩)).map fun s => ((getBuf s 0 1 0).rows, (getBuf s 0 1 0).sigs.take 3)) = some (2, [256#16, 256#16, 0#16]) := by
  decide +kernel
theorem test_operations_witness : ((opIn 4 (.mzero g7 1#4 false 1#11)).map fun x => (match nextEng x.1 0 4 with
      | some (e, op) => depsDone x.1 0 op && covered x.1 0 e op && (e.id == x.2)
      | none => false) && decide (arrayOf (x.1.core 0) 4 = .idle)) = some true ∧
    ((opIn 6 (.sighKey g7 ⟨1#4, 12#7, 0#2, 8#7⟩)).map fun x => (runningSig x.1 0).isNone && ((after (.sigOpStart 0) x.1).map fun s => (runningSig s 0).isSome) == some true) = some true ∧
    ((opIn 4 (.mzero g7 1#4 false 1#11)).bind fun x => (after (.tileOpStart 0 4) x.1).map fun s => tileMayEnd s 0 4 x.2 && (findOp s 0 4 x.2).isSome) = some true := by
  decide +kernel
/-- A line of .bf16 elements: pairs of place and code. -/
def bfLine (l : List (Nat × Nat)) : List Byte := (List.range 128).flatMap fun k => toBytes 2 ((l.find? (·.1 == k)).map (·.2) |>.getD 0)
/-- The worked window of 09: the keys of its five rows, the map SIGB.mean writes, and the means. -/
def winRows : List (List Byte) := [bfLine [(0, 0x3F80)], bfLine [(2, 0x3F80)], bfLine [(0, 0xBF80)], bfLine [(0, 0x4000), (2, 0x3F80)], bfLine []]
def winMap : List Byte := buildMap .mean (planOf { capture (.nop g7) 0 with words := [0#32, 5#32, 2#32, 3#32, 1#32, 0#32, 3#32, 0#32] })
theorem test_worked_keys : (((winRows.drop 3).take 1).map fun r => (fineSig .bf16 0#64 r).toNat % 4) = [3] := by decide +kernel
theorem test_worked_map : (List.range 3).map (fun k => mapWord (winMap.take 12) k) = [0x20002#32, 0x10101#32, 0x20200#32] := by decide +kernel
theorem test_worked_buckets : (List.range 3).map (fun k => mapWord (winMap.drop 1024) k) = [0x1000000#32, 0x10001#32, 0x1020003#32] := by decide +kernel
theorem test_worked_header : mapHeader winMap = 0x0000000220030005#64 := by decide +kernel
theorem test_worked_means : meanRow .bf16 [bfLine [(0, 0xBF80)], bfLine []] = (bfLine [(0, 0xBF00)], 0#5) ∧
    meanRow .bf16 [bfLine [(0, 0x3F80)], bfLine [(0, 0x4000), (2, 0x3F80)]] = (bfLine [(0, 0x3FC0), (2, 0x3F00)], 0#5) := by decide +kernel
/-- A copy's line on its way: the sector of a CPY from the aperture to the window lands, and its barrier has one sector fewer. -/
def moving : Option (State × Nat) :=
  ((after cpy (copying.write (2 ^ 52 + 0x40) (toBytes 16 (2 * 2 ^ 32 + 2 ^ 4)))).map fun s => (s.setCore 0 { s.core 0 with energy := 10 })).bind fun s =>
    (after (.copyOperationStart 0 1) s).bind fun s => (queueAt s 0 1).head?.map fun e => (s, e.id)
theorem test_copy_operation : (moving.map fun x => (x.1.core 0).energy) = some 8 ∧
    (moving.bind fun x => (after (.copyLanding 0 1 x.2 0) x.1).map fun s => (s.read (2 ^ 52 + 0x100) 4 == s.read (2 ^ 52 + 0x200) 4, (queueAt s 0 1).length,
      leNat (s.read (2 ^ 52 + 0x40) 16))) = some (true, 0, 2 ^ 32 + 2 ^ 4) ∧
    (moving.map fun x => copyMayStart x.1 0 1) = some false ∧ (moving.map fun x => memWf x.1.mem && (findOp x.1 0 1 x.2).isSome) = some true := by decide +kernel
theorem test_copy_start_witness : ((after cpy copying).map fun s => let s := s.setCore 0 { s.core 0 with energy := 10 }
      (nextCopy s 0 1).isSome && copyMayStart s 0 1) = some true := by decide +kernel
/-- A transport sector on its way: its connection fails, or its acknowledgement comes (22 R432). -/
def sending : State := mems.setCore 0 { mems.core 0 with queues := Vector.ofFn fun k => if k.val = 7 then [⟨40, 0, 1, 32, true, .copy
  [(0, ⟨4095 * 2 ^ 40, 2 ^ 52 + 0x200, 32, some (2 ^ 52 + 0x40), false, some 0, true, 1, false, 0, 0⟩)] none, none⟩] else [] }
theorem test_transport : ((after (.transportFailed 0 40 0) sending).map fun s => (s.records.map fun r => (r.unit, r.kind), (queueAt s 0 7).length)) = some ([(578, 2)], 0) ∧
    ((after (.transportAck 0 40 0) sending).map fun s => (queueAt s 0 7).length) = some 0 ∧ firstOfConn sending 0 40 0 (some 0) = true ∧ heldCount sending 578 0 = 0 := by
  decide +kernel
/-! The device's own steps on threads and cells. -/

/-- The memory state whose thread has a status; npc is 0x40008 and the chronometer stands at 100. -/
def being (st : Status) : State := { edit mems fun t => { t with status := st, npc := 0x40008#64 } with chron := 100 }
def at0 (i : Instr) (s : State) : Option (Status × DWord) := (after i s).bind fun s => (s.thr 0).map fun t => (t.status, t.pc)
def nap (u : DWord) : Status := .parked (.sleep 0x100_0000_0200#64 (2 ^ 52 + 0x200) 3#4 u)
theorem test_sleep_expiry : at0 (.sleeptoExpiry 0) (being (nap 200#64)) = some (nap 200#64, 0x40000#64) ∧
    at0 (.sleeptoExpiry 0) (being (nap 100#64)) = some (.ready 0, 0x40008#64) ∧
    at0 (.sleeptoExpiry 0) ((being (nap 100#64)).write (2 ^ 52 + 0x200) [3#8]) = some (.parked (.barrier (2 ^ 52 + 0x200) 3#4), 0x40000#64) ∧
    (at0 (.sleeptoExpiry 0) (setCfield ((being (nap 100#64)).write (2 ^ 52 + 0x200) [3#8]) 0 920 1 1)).map (·.1) =
      some (.parked (.trap ⟨.promiseMiss, 0, 0x100_0000_0200#64, 3#64, 100#64, 0#64, none, some (2 ^ 52 + 0x200)⟩ false)) := by decide +kernel
/-- A thread held since cycle 5, and another of its gang that runs. -/
def heldPair : State := { being (.held 5) with threads := [(0, here (being (.held 5))), (16, { here base with tid := 1#32 })] }
theorem test_thread_events : at0 (.reconvTimeout 0 0 0x40000#64) { being (.held 5) with cycle := 261 } = some (.ready 261, 0x40008#64) ∧
    at0 (.reconvTimeout 0 0 0x40000#64) { heldPair with cycle := 260 } = some (.held 5, 0x40000#64) ∧
    at0 (.reconvTimeout 0 0 0x40000#64) { heldPair with cycle := 261 } = some (.ready 261, 0x40008#64) ∧
    at0 (.pageRequestResponse 0 true) (being (.stalled (.page 4 9))) = some (.ready 0, 0x40000#64) ∧
    ((after (.pageRequestResponse 0 true) (being (.stalled (.page 4 9)))).map (·.ats)) = some [(4, 9)] ∧
    at0 (.gangStart 1 0) (being (.waiting 100)) = some (.ready 0, 0x40000#64) ∧ at0 (.gangStart 1 0) (being (.waiting 101)) = some (.waiting 101, 0x40000#64) ∧
    ((after (.writeAcknowledgement 7) { mems with unacked := [⟨7, 0, 3⟩, ⟨8, 0, 3⟩] }).map fun s => s.unacked.map (·.id)) = some [8] := by decide +kernel
theorem test_lane_lend : ((after (.laneLend 0) (edit (being (.parked .beat)) fun t => { t with chip := [aFrame false false 0#32] })).bind fun s => (s.thr 0).map fun t =>
      (t.lent, t.chip.length, t.spilled.length)) = some (true, 0, 1) ∧
    ((after (.longLatencyCompletion 0 4) (edit mems fun t => { t with board := [⟨4, 0, 1, [4#7], none, false⟩] })).bind fun s => (s.thr 0).map (·.board.length)) = some 0 := by
  decide +kernel
/-- A QFENCE at the pc whose marker waited for room in queue 1. -/
def waiting1 : State := edit (base.withFetchWord 64 (leNat ((encode (.qfence g7 .team 2#8)).flatMap fun w => toBytes 4 w.toNat)))
  fun t => { t with status := .stalled (.markers 9 2#8) }
theorem test_queue_accept : at0 (.engineQueueAccept 0) waiting1 = some (.ready 0, 0x40008#64) ∧ waitsForEngine (here waiting1) = true ∧
    ((peek waiting1 0 (here waiting1)).map (·.2.2)) = some (.qfence g7 .team 2#8) := by decide +kernel
/-- An add held by its window, at its instruction, its rank now the next. -/
def windowed : State :=
  let w := base.withFetchWord 64 (leNat ((encode (.aaddf g7 ⟨false, .relaxed, .th, 6#7, at2, 8#7⟩)).flatMap fun w => toBytes 4 w.toNat))
  { edit (setCfield w 0 2 1 1) fun t => { { (here ord) with pc := t.pc, status := .stalled (.window (2 ^ 52 + 0x100)), team := t.team } with npc := 0#64 } with
    ordered := ord.ordered }
theorem test_window_accept : at0 (.orderedAddArrival 0) windowed = some (.ready 0, 0x40008#64) := by decide +kernel
/-- Messages one step at a time: a fill of the cell at 0x100 that is linked to the EMPTY one at 0x200; a wait at a FULL one. -/
def sent (i : Instr) (x y : Nat) : Option State := (after i { cells [] x y with choices := { mems.choices with mesh := true } })
def stageOf (s : State) : Option Stage := s.msgs.head?.map (·.2.stage)
def linked : Nat := 2 * 2 ^ 126 + 2 ^ 40 + 0x200
theorem test_walk : ((sent (.cfill g7 (cell 10#7 0#7)) linked 0).bind stageOf) = some (.walk 0x100_0000_0100) ∧
    (((sent (.cfill g7 (cell 10#7 0#7)) linked 0).bind fun s => after (.walkStep 1) { s with serial := 90, msgs := s.msgs.map fun m => (1, m.2) }).bind stageOf) = some (.walk 0x100_0000_0200) := by
  decide +kernel
/-- The messages of a state numbered 1. -/
def one (s : State) : State := { s with msgs := s.msgs.map fun m => (1, m.2) }
def steps (l : List Instr) (s : Option State) : Option State := l.foldl (fun s i => s.bind (after i)) (s.map one)
theorem test_fill_event : ((steps [.walkStep 1, .walkStep 1] (sent (.cfill g7 (cell 10#7 0#7)) linked 0)).bind stageOf) = some (.event (.fill 0xFFFFFFFFFFFFFFFF#64) 0x100_0000_0200) ∧
    ((steps [.walkStep 1, .walkStep 1, .fillEvent 1, .walkReply 1] (sent (.cfill g7 (cell 10#7 0#7)) linked 0)).map fun s => (leNat (s.read (2 ^ 52 + 0x200) 16), s.msgs.length)) =
      some (2 ^ 126 + 2 ^ 64 - 1, 0) := by decide +kernel
theorem test_walk_reply : ((steps [.walkStep 1, .walkStep 1, .walkReply 1] (sent (.cwait g7 (cell 4#7 0#7)) linked (2 ^ 126 + 9))).map fun s => leNat (s.read (2 ^ 52 + 0x100) 16)) =
      some (2 ^ 126 + 9) ∧
    ((steps [.walkStep 1, .walkStep 1, .walkReply 1, .waitEvent 1] (sent (.cwait g7 (cell 4#7 0#7)) linked (2 ^ 126 + 9))).map fun s => (here s).rv64 4#7) = some 9#64 := by
  decide +kernel
theorem test_other_events : ((steps [.walkStep 1, .countEvent 1] (sent (.cfillCnt g7 (cell 10#7 0#7)) (3 * 2 ^ 126 + 5) 0)).map fun s => leNat (s.read (2 ^ 52 + 0x100) 16)) = some (3 * 2 ^ 126 + 4) ∧
    ((steps [.walkStep 1, .queryEvent 1] (sent (.ctest g7 0#4 7#3 (cell 4#7 0#7)) 0 0)).map fun s => s.msgs.length) = some 0 ∧
    ((steps [.initEvent 1] (sent (.cinit g7 (cell 0#7 0#7)) 5 0)).map fun s => leNat (s.read (2 ^ 52 + 0x100) 16)) = some 0 ∧
    ((steps [.walkStep 1, .walkStep 1, .linkEvent 1] (sent (.cequ g7 (cell 0#7 12#7)) 0 0)).map fun s => leNat (s.read (2 ^ 52 + 0x200) 16)) = some (2 * 2 ^ 126 + 2 ^ 40 + 0x100) := by
  decide +kernel
/-- A record on its way from the cell at 0x200 to the one at 0x100. -/
def forwarding (x : Nat) : State := { cells [] x 0 with
  threads := [(0, { here base with status := .parked (.cell (.wait 6#7)), npc := 0x40008#64 })]
  forwards := [(5, ⟨2 ^ 52 + 0x200, 0x100_0000_0100, none, 0, none, 0, [(0, none)]⟩)] }
theorem test_forward : at0 (.waiterRecordForward 5) (forwarding (2 ^ 126 + 9)) = some (.ready 0, 0x40008#64) ∧
    ((after (.waiterRecordForward 5) (forwarding linked)).map fun s => s.forwards.map (·.2.va)) = some [0x100_0000_0200] := by decide +kernel
/-- A write in the causal buffer of die 0, whose stamp needs `n` writes of die 1. -/
def onMesh (n : Nat) : State := { mems with mesh := [⟨6, 0, some 0, none, none, (6, 2 ^ 52 + 0x100, 1), 2, 0, (Vector.replicate 8 0).set 1 n, 2 ^ 52 + 0x100, [0xAA#8], false⟩] }
theorem test_causal : ((after (.causalApply 6) (onMesh 0)).map fun s => (s.mesh.length, s.read (2 ^ 52 + 0x100) 2, (dieVector s 5)[2])) = some (0, [0xAA#8, 1#8], 1) ∧
    ((after (.causalApply 6) (onMesh 1)).map (·.mesh.length)) = some 1 := by decide +kernel
/-! The command processor, teams, recovery and management. -/

/-- Queue 3 of context 0 in the aperture, its ring of 16 slots at 2^40 + 0x8000, running or idle, its indices w and r. -/
def queued (st w r : Nat) : State := mems.setQueue 3 { Queue.reset with
  desc := BitVec.ofNat 512 (2 ^ 40 + 0x8000 + 2 ^ 58 + 2 ^ 59 + 4 * 2 ^ 64 + 2 ^ 72 + w * 2 ^ 128 + r * 2 ^ 160 + st * 2 ^ 192 + (2 ^ 40 + 0x9000) * 2 ^ 256)
  seen := BitVec.ofNat 32 r }
theorem test_doorbell : ((after (.doorbell 0 192 9#64) (queued 1 0 0)).map fun s => (qfield s 3 128 32, qstate s 3)) = some (9, 1) ∧
    ((after (.doorbell 0 192 17#64) (queued 1 0 0)).map fun s => (qstate s 3, s.records.length)) = some (2, 1) ∧
    ((after (.doorbell 0 192 9#64) (queued 2 0 0)).map fun s => qfield s 3 128 32) = some 0 ∧ (queued 1 0 0).stage ≠ 0#2 := by decide +kernel
theorem test_queue_enable : ((after (.queueEnable 3 (queued 0 0 0 |>.queue 3).desc) (mems.setQueue 3 Queue.reset)).map fun s => (qstate s 3, qfield s 3 58 1)) = some (1, 1) ∧
    ((after (.queueRecovery 3 (queued 0 5 2 |>.queue 3).desc) (queued 2 7 7)).map fun s => (qstate s 3, qfield s 3 160 32)) = some (1, 5) ∧
    queueFieldsOk mems (mergeDesc Queue.reset.desc (queued 0 0 0 |>.queue 3).desc) = true ∧ (queued 0 0 0 |>.queue 3).desc.getLsbD 58 = true := by decide +kernel
/-- One slot at index 0: a JOIN of scope .dev that signals its done cell at 2^40 + 0x200; and the queue with that packet read. -/
def joinBytes : List Byte := toBytes 8 (4 + 2 ^ 8 + 2 ^ 11 + 5 * 2 ^ 13) ++ toBytes 8 (2 ^ 40 + 0x200) ++ List.replicate 48 0#8
def slotted (bs : List Byte) : State := ((queued 1 1 0).write (2 ^ 52 + 0x8000) bs).write (2 ^ 52 + 0x200) (toBytes 16 0)
theorem test_lookahead : ((after (.packetLookahead 3) (slotted joinBytes)).map fun s => s.packets.map fun e => (e.2.typ, e.2.status, e.2.queue)) = some [(4, 0, 3)] ∧
    ((after (.packetLookahead 3) (slotted (joinBytes.set 16 1#8))).map fun s => s.packets.map (·.2.status)) = some [1] ∧
    passes (ringRead (slotted joinBytes) 3 0) = true ∧ packetSlots joinBytes = 1 ∧ slotsOk 4 1 0 false = true ∧ (unhanded (slotted joinBytes) 3).length = 0 := by decide +kernel
def aPacket (typ status : Nat) (bs : List Byte) : Packet :=
  { queue := 3, ctx := 0, typ := typ, addr := 0, bytes := bs, parent := none, stage := .read, rank := 0#32, order := 0, kds := [], total := 1, placed := 0
    live := 0, warm := 0, status := status, next := 0 }
/-- That queue with packets read. -/
def reading (l : List (Nat × Packet)) : State := { slotted joinBytes with packets := l }
theorem test_join_packet : ((after (.joinPacket 3) (reading [(7, aPacket 4 0 joinBytes)])).map fun s => (s.packets.length, leNat (s.read (2 ^ 52 + 0x200) 16))) = some (0, 2 ^ 126) ∧
    ((after (.joinPacket 3) (reading [(6, { aPacket 8 0 [] with stage := .resident }), (7, aPacket 4 0 joinBytes)])).map fun s => s.packets.map fun e => decide (e.2.stage = .held)) =
      some [false, true] ∧
    ((after (.joinPacket 3) (reading [(7, aPacket 4 1 joinBytes)])).map fun s => (s.packets.length, leNat (s.read (2 ^ 52 + 0x200) 16), s.records.length)) = some (0, 2 ^ 126 + 1, 1) ∧
    ((after (.callbufPacket 3) (reading [(7, aPacket 3 0 joinBytes)])).map fun s => s.packets.map fun e => decide (e.2.stage = .resident)) = some [true] := by decide +kernel
theorem test_join_witness : (headPacket (reading [(7, aPacket 4 0 joinBytes)]) 3).map (·.1) = some 7 ∧ earlierDone (reading [(7, aPacket 4 0 joinBytes)]) 3 7 (aPacket 4 0 joinBytes) = true ∧
    earlierDone (reading [(6, { aPacket 8 0 [] with stage := .resident }), (7, aPacket 4 0 joinBytes)]) 3 7 (aPacket 4 0 joinBytes) = false := by decide +kernel
/-- SIGNAL of the value 9, and WAIT, at the cell at 2^40 + 0x200. -/
def cellBytes : List Byte := toBytes 8 (6 + 2 ^ 8 + 5 * 2 ^ 13) ++ toBytes 8 0 ++ toBytes 8 (2 ^ 40 + 0x200) ++ toBytes 8 9 ++ List.replicate 32 0#8
theorem test_signal_and_wait : ((after (.signalPacket 3) (reading [(7, aPacket 6 0 cellBytes)])).map fun s => (s.packets.length, leNat (s.read (2 ^ 52 + 0x200) 16))) = some (0, 2 ^ 126 + 9) ∧
    ((after (.waitPacket 3) (reading [(7, aPacket 7 0 cellBytes)])).map fun s => s.packets.map fun e => decide (e.2.stage = .held)) = some [true] ∧
    ((after (.waitPacketQueryAttempt 3) ((reading [(7, { aPacket 7 0 cellBytes with stage := .held })]).write (2 ^ 52 + 0x20F) [0x40#8])).map (·.packets.length)) = some 0 ∧
    ((after (.packetCompletion 7) (reading [(7, { aPacket 8 0 joinBytes with stage := .resident })])).map (·.packets.length)) = some 0 ∧
    packetOver (reading []) 7 { aPacket 8 0 joinBytes with stage := .resident } = true := by decide +kernel
/-- 14 R339 on a queue of weight 1 alone: d = 1, the rank is the later of vfin and gvt, vfin moves one on. -/
theorem test_rank_program : runRank { queued 1 1 0 with gvt := 1000#32 } (aPacket 8 0 joinBytes) (rankWords mems 0) ⟨0#32, 0#32, 0#32, 0#32, false⟩ =
      ⟨1000#32, 1001#32, 1001#32, 0#32, true⟩ ∧ rankOk (rankWords mems 0) = true := by decide +kernel
theorem test_copy_packet : ((after (.copyPacket 3) { reading [(7, aPacket 8 0 joinBytes)] with gvt := 1000#32 }).map fun s => (s.packets.map fun e => (decide (e.2.stage = .distributed), e.2.rank),
      (s.queue 3).vfin)) = some ([(true, 1000#32)], 1001#32) ∧ mayInsert (reading [(7, aPacket 8 0 joinBytes)]) 3 = true ∧
    ((after (.copyPacket 3) (reading ((List.range 64).map (fun k => (k, { aPacket 8 0 [] with stage := .resident })) ++ [(70, aPacket 8 0 joinBytes)]))).map fun s =>
      (s.queue 3).stalled.isSome) = some true := by decide +kernel
theorem test_beat : ((after .beat { base with chron := 4095 }).map (·.beat)) = some 0#64 ∧
    ((after .beat { edit base fun t => { t with status := .parked .beat, npc := 0x40008#64 } with chron := 4096 }).map fun s => (s.beat, s.nextBeat, (here s).status, (s.core 0).energy)) =
      some (1#64, 8192, .ready 0, 32768) := by decide +kernel
/-- A team whose threads have ended, its packet live; and a parked team that is to leave. -/
def ended : State := { reading [(7, { aPacket 1 0 joinBytes with stage := .resident, live := 1 })] with
  threads := [], teams := [(1, { fetchTeam with packet := 7 })], groups := [(9, ⟨1, [], [], false⟩)] }
theorem test_team_end : ((after (.teamEnd 1) ended).map fun s => (s.teams.length, s.groups.length, s.packets.map (·.2.live))) = some (0, 0, [0]) ∧
    teamOver ended 1 { fetchTeam with packet := 7 } = true := by decide +kernel
/-- A trapped thread whose record is written, and a recovery command that names it. -/
def trappedBy (c : Cause) (op : BitVec 4) (mode : BitVec 2) : State :=
  { edit code fun t => { t with status := .parked (.trap ⟨c, 0, 0#64, 0#64, 0#64, 0#64, none, none⟩ true) } with
    rec_ := { Block8.reset with op := op, mode := mode, setv := true, busy := true, a := 1#64, b := 0x77#64 } }
theorem test_resume : ((after .resume (trappedBy .systemCall 1#4 2#2)).map fun s => ((here s).pc, (here s).status, (here s).rv64 0#7, s.rec_.busy, s.rec_.status)) =
      some (0x40004#64, .ready 0, 0x77#64, false, 0#2) ∧
    ((after .resume (trappedBy .absence 1#4 1#2)).map fun s => ((here s).pc, (here s).status)) = some (0x40000#64, .ready 0) ∧
    ((after .resume (edit (trappedBy .absence 1#4 0#2) fun t => { t with pc := 0x40008#64 })).map fun s => ((here s).pc, (here s).replays)) = some (0x40000#64, 1) ∧
    ((after .resumeall (trappedBy .breakpoint 2#4 0#2)).map fun s => ((here s).pc, (here s).status)) = some (0x40000#64, .ready 0) ∧
    ((namedThread (trappedBy .absence 1#4 1#2)).map (·.1)) = some 0 ∧ (here code).region = 0x40000#57 := by decide +kernel
theorem test_preempt : ((after .preempt (trappedBy .absence 3#4 0#2)).map fun s => (pstate s 0, (s.ctx 0).deadline)) = some (1, some 2000000) ∧
    ((after .restart (setCfield (trappedBy .absence 4#4 0#2) 0 921 2 2)).map fun s => pstate s 0) = some 0 ∧
    ((after (.preemptDrained 0) { setCfield base 0 921 2 1 with teams := [], threads := [] }).map fun s => (pstate s 0, s.records.map (·.kind))) = some (2, [3]) := by decide +kernel
/-- RecoveryCommands: a reset commanded, and a deadline that passes with a team resident. -/
theorem test_forced_reset_witness : recRuns (trappedBy .absence 5#4 0#2) 5#4 = true ∧ recCtx (trappedBy .absence 5#4 0#2) = 0 ∧
    pstate (setCfield { base with chron := 50 } 0 921 2 1) 0 = 1 ∧ (base.teams.map fun e => (e.2.ctx, e.2.saved.isNone)) = [(0, true)] ∧
    (ctxPlaces base 0) = [0] ∧ (ctxTeams base 0) = [1] := by decide +kernel
/-- A record of a queue at 2^40 + 0x4000 of 2^1 slots, of which the device has written 3 and software read 2, where software has stored 9 in
its count. -/
def recorded : State := { (setCfield (setCfield mems 0 768 57 (2 ^ 40 + 0x4000)) 0 825 5 1).write (2 ^ 52 + 0x4000) (toBytes 4 9 ++ toBytes 4 2) with
  ctxs := [(0, { (setCfield (setCfield mems 0 768 57 (2 ^ 40 + 0x4000)) 0 825 5 1).ctx 0 with frq := ⟨3#32, 0#32⟩ })]
  records := [⟨5, 576, 0, 2, none, none, List.replicate 64 0x11#8⟩] }
theorem test_record_write : ((after (.faultRecordWrite 5) recorded).map fun s => (leNat (s.read (2 ^ 52 + 0x4000) 4), s.read (2 ^ 52 + 0x4080) 2, s.read (2 ^ 52 + 0x40C0) 1, s.records.length)) =
      some (4, [0x11#8, 0x11#8], [0#8], 0) ∧ recordRipe recorded ⟨5, 576, 0, 2, none, none, List.replicate 64 0x11#8⟩ = true := by decide +kernel
/-- A LAUNCH packet of one team of one gang of 16 on one core, distributed; core 0 free at beat 1; the local region in the aperture. -/
def launchBytes : List Byte := toBytes 8 (1 + 2 * 2 ^ 8 + 5 * 2 ^ 13) ++ toBytes 8 0 ++ toBytes 8 0x1000 ++ toBytes 4 1 ++ toBytes 4 161 ++ toBytes 8 1 ++
  List.replicate 8 0#8 ++ toBytes 4 0x1234 ++ List.replicate 76 0#8
def launching : State := { setCfield (setCfield (reading [(7, { aPacket 1 0 launchBytes with stage := .distributed, kds := [⟨0x40000, .general, 16, false⟩] })])
    0 192 57 (2 ^ 40 + 2 ^ 21)) 0 256 40 (2 ^ 21) with
  beat := 1#64, teams := [], threads := [] }
theorem test_placement : ((after .teamPlacement launching).any fun s => s.threads.length == 16 && (s.teams.map fun e => (e.2.x0, e.2.y0, e.2.count, e.2.gangs.length)) == [(0, 0, 16, 1)] &&
      (s.packets.map fun e => (e.2.placed, e.2.live)) == [(1, 1)]) = true ∧
    ((after .teamPlacement launching).bind fun s => (s.thr 16).map fun t => (t.pc, t.tid, sread s t 0#6)) = some (0x40000#64, 1#32, 0x1234#32) := by decide +kernel
theorem test_placement_witness : placing launching 0 = true ∧ copiesOut launching 7 = false ∧ canEverFit launching 0 (packetShape 1 launchBytes) = true ∧
    (findRect launching 0 (packetShape 1 launchBytes)).isSome = true ∧ (takeBlocks launching 0 1 16 []).isSome = true ∧
    ((takeBlocks launching 0 1 16 []).map fun l => (zeroAll launching 0 (l.map ((0, ·)))).2) = some (List.replicate 16 false) := by
  decide +kernel
/-- A parked team of a context that drains, with a swap area of 8 MiB in the slices of cores 1 and 2; and a team saved, its thread woken. -/
def draining : State := setCfield (setCfield (setCfield (setCfield (edit base fun t => { t with status := .parked .beat }) 0 921 2 1) 0 576 57 (2 ^ 40 + 2 ^ 22)) 0 640 40 (2 ^ 23))
  0 320 144 7
theorem test_swap_out_witness : swapWanted draining fetchTeam = true ∧ quiescent draining 1 fetchTeam = true ∧ (teamThreads draining 1).all (fun e => isParked e.2) = true ∧
    swapSize draining 1 fetchTeam = 32768 * (1 + 1 + 1 + 128 + 1) ∧ swapRoom draining 0 (swapSize draining 1 fetchTeam) = some 0 ∧
    (swapTargets draining 0 0 (swapSize draining 1 fetchTeam)).isSome = true := by decide +kernel
def savedOnce : Saved := { threads := [(0, { here base with status := .ready 0 })], where_ := [(0, 0)], window := [(0x100, 7#8)], windowP := [], slots := [], tiles := [], bufs := [], wl := [], shareN := 0 }
def swapped : State := { base with beat := 1#64, threads := [], teams := [(1, { fetchTeam with saved := some savedOnce, area := some (0, 4325376) })] }
theorem test_resume_team : ((after (.teamResume 1) swapped).map fun s => (s.threads.map (·.1), s.teams.map fun e => e.2.saved.isNone, memByte s.mem (2 ^ 52 + 0x100))) =
      some ([0], [true], 7#8) ∧ placing swapped 0 = true ∧ anyWoken swapped savedOnce = true ∧ (reserved swapped).isNone = true ∧
    (resumeRect swapped { fetchTeam with saved := some savedOnce, area := some (0, 4325376) } savedOnce).isSome = true := by decide +kernel
/-! Isolation, management, the outside, and the invariants. -/

/-- A command of the isolation block: on context or key slot 0, one frame of 32 KiB at 2^20. -/
def isolating (op : BitVec 4) (key : BitVec 13) : State :=
  { base with iso := { Block8.reset with op := op, key := key, busy := true, a := 0x100000#64, key1 := 5#256, key2 := 6#256 } }
theorem test_grant : ((after .grant (isolating 2#4 0#13)).map fun s => (s.iso.busy, s.iso.status, rget s.frames 32)) = some (false, 0#2, some 0) ∧
    ((after .grant (isolating 2#4 9#13)).map fun s => (s.iso.status, rget s.frames 32)) = some (1#2, none) ∧
    ((after .release { isolating 3#4 0#13 with frames := [⟨32, 2, 0⟩] }).map fun s => (s.iso.status, rget s.frames 32, rget s.frames 33)) = some (0#2, none, some 0) ∧
    rangeOwn (isolating 2#4 0#13) 0x100000 32768 = true ∧ rcount [⟨32, 2, 0⟩] 32 1 0 = 1 := by decide +kernel
theorem test_keys : ((after .keyload (isolating 4#4 9#13)).map fun s => (s.iso.status, mget s.keys 9)) = some (0#2, some (5#256, 6#256)) ∧
    ((after .keyclear { isolating 5#4 9#13 with keys := [(9, (1#256, 2#256))] }).map fun s => (s.iso.status, mget s.keys 9)) = some (0#2, none) ∧
    ((after .keyload { isolating 4#4 9#13 with frames := [⟨32, 1, 9⟩] }).map (·.iso.status)) = some 1#2 := by decide +kernel
theorem test_inval : ((after .inval { isolating 1#4 0#13 with tlb := [⟨0, 0, 0x100000, 4096, 0#64, 0⟩, ⟨0, 0, 0x200000, 4096, 0#64, 0⟩, ⟨0, 1, 0x100000, 4096, 0#64, 0⟩] }).map fun s =>
      (s.iso.status, s.tlb.map fun e => (e.ctx, e.base))) = some (0#2, [(0, 0x200000), (1, 0x100000)]) ∧ ctxUnderWay (isolating 1#4 0#13) 0 = false := by decide +kernel
/-- A context whose fields are in their ranges, not enabled: its records at 2^40 in 16 slots. -/
def readyCtx : State := setCfield (setCfield (setCfield base 0 0 1 0) 0 768 57 (2 ^ 40)) 0 825 5 4
theorem test_contexts : ((after (.contextEnable 0) readyCtx).map fun s => (ctxEnabled s 0, cfield s 0 30 2)) = some (true, 1) ∧
    ((after (.contextEnable 0) (setCfield readyCtx 0 825 5 3)).map fun s => (ctxEnabled s 0, cfield s 0 30 2)) = some (false, 2) ∧
    ((after (.contextDisable 0) { base with teams := [] }).map fun s => (ctxEnabled s 0, cfield s 0 30 2)) = some (false, 0) ∧ ctxFieldsOk readyCtx 0 = true := by decide +kernel
theorem test_partition : ((after (.partitionWrite 0 3#144) base).map fun s => (inPartition s 0 1, (s.core 1).changed, inPartition s 0 0)) = some (true, 0, true) ∧
    ((after (.partitionWrite 0 2#144) base).map fun s => (inPartition s 0 0, (s.core 0).leaving)) = some (true, true) ∧ coreFree base 0 1 = true ∧
    (residentOn base 0).isSome = true ∧ (residentOn base 1).isNone = true := by decide +kernel
/-- CERTIFY of a text whose certificate cannot be read; FWLOAD with a context enabled. -/
theorem test_firmware_commands : ((after .certify { base with inst := { Block8.reset with op := 1#4, busy := true } }).map (·.inst.status)) = some 1#2 ∧
    certifyFrames base 0 0 0 = none ∧ ((after .fwload { base with mail := { Block8.reset with op := 1#4, busy := true } }).map (·.mail.status)) = some 1#2 := by decide +kernel
theorem test_management : ((after (.bellowsWrite 3#32) base).map (·.period)) = some 64#15 ∧ ((after (.bellowsWrite 16384#32) base).map (·.period)) = some 16384#15 ∧
    ((after (.interruptMapWrite 5 0x840#32) base).map fun s => mget s.intMap 5) = some none ∧ ((after (.interruptMapWrite 5 0x80000808#32) base).map fun s => intEntry s 5) = some 0x80000808#32 ∧
    ((after (.registerWrite 0x44 [0x43#8, 0#8, 0#8, 0#8]) base).map (·.step)) = some 3#6 ∧ ((after (.moduleWrite 2#32) { base with ctxs := [] }).map fun s => (s.module, memByte s.mem (2 * 2 ^ 40 + 0x40000))) =
      some (2#12, 2#8) := by decide +kernel
def trainingNow : State := { State.reset with stage := 1#2, training := true }
/-- 22 R436, R438: temperatures in 1/16 degree: 105 is 1680, 115 is 1840. -/
def readings (t : BitVec 16) (p : Word) : Readings := ⟨t :: List.replicate 8 0#16, p, 0#16⟩
theorem test_stages : ((after (.dramTrainingDone 4#144) trainingNow).map fun s => (s.stage, s.coreOff, s.msi)) = some (2#2, 4#144, [(0, 0)]) ∧
    ((after (.thermalThrottle (readings 1680#16 0#32)) base).map fun s => (s.overTemp, s.overPower)) = some (true, false) ∧
    ((after (.thermalThrottle (readings 1679#16 2800001#32)) base).map fun s => (s.overTemp, s.overPower)) = some (false, true) ∧
    ((after (.thermalThrottleEnd (readings 1519#16 0#32)) { base with overTemp := true }).map (·.overTemp)) = some false ∧
    ((after (.thermalRecovery (readings 1519#16 0#32)) { base with shut := true, stage := 1#2 }).map fun s => (s.shut, s.checking)) = some (false, true) := by decide +kernel
theorem test_shutdown_witness : (readings 1840#16 0#32).temps.length = 9 ∧ (1840 : Int) ≤ (1840#16).toInt ∧ base.stage = 2#2 := by decide +kernel
/-- Requests of a peer module to the frame of the base state, and of the host under PASID 0 to its aperture. -/
theorem test_outside : ((after (.remoteAccess 0 0 false 0x40000 (.write [9#8] false)) base).map fun s => memByte s.mem 0x40000) = some 9#8 ∧
    ((after (.remoteAccess 0 1 true 0x40000 (.write [9#8] false)) base).map fun s => memByte s.mem 0x40000) = some 2#8 ∧
    ((after (.hostRequest 0#20 0x100_0000_0100#64 (.write [9#8] false)) mems).map fun s => memByte s.mem (2 ^ 52 + 0x100)) = some 9#8 ∧
    remoteOk base 0 0x40000 1 = true ∧ remoteOk base 4097 0x40000 1 = false ∧ pasidCtx mems 0 = some 0 ∧
    passes (translate mems 0 0 0x100_0000_0100#64 Access.store false 1) = true := by decide +kernel
theorem test_outside_events : ((after (.atsInvalidation 0#20 0x1000 4096) { base with ats := [(0, 1), (0, 2)] }).map (·.ats)) = some [(0, 2)] ∧
    hostUnderWay base 0 0x1000 4096 = false ∧
    ((after (.moduleUnreachable 5#12) { base with unacked := [⟨1, 0, 5⟩, ⟨2, 0, 6⟩] }).map fun s => (s.unreachable, s.unacked.map (·.id))) = some ([5], [2]) ∧
    ((after (.eccError (.sector 0x1010) false) base).map fun s => (s.poison, s.sensors.poisoned)) = some ([0x100, 0x101], 1#64) ∧
    ((after (.eccError (.sector 0x1010) true) base).map fun s => (s.poison, s.sensors.corrected)) = some ([], 1#64) ∧
    ((after (.holtlinkFlitRetransmit 17) base).map fun s => (s.sensors.link[17], s.sensors.link[16])) = some (1#64, 0#64) ∧
    ((after (.ethernetSectorRetransmit 7) base).map fun s => (s.sensors.eth[7], s.sensors.eth[6])) = some (1#64, 0#64) := by decide +kernel
theorem test_reset : State.reset.chron = 0 ∧ State.reset.period = 64#15 ∧ State.reset.nextBeat = 4096 ∧ allowance State.reset 143 = 8000 ∧
    intEntry State.reset 2041 = 9#32 ∧ memWf State.reset.mem = true := by decide +kernel
theorem test_invariants_witness : memWf mems.mem = true ∧ (4 ≤ mems.period.toNat ∧ mems.period.toNat ≤ 16384) ∧ (match step mems with
      | .next _ => true
      | _ => false) = true := by decide +kernel
/-- RegisterFrame: an instruction it covers that answers a next state. -/
theorem test_frame_witness : regOnly (.iadd g7 false (a3 .i32 8#7 9#7)) = true ∧ (ints.thr ints.cur).isSome = true ∧ (after (.iadd g7 false (a3 .i32 8#7 9#7)) ints).isSome = true := by
  decide +kernel
/-! Clauses of the statements at the edges of their ranges, and their hypotheses. -/

/-- EmulatedWords: a live cell in the record's bytes; in emulation, a reserved field, another group, and a register at the
allotment in mode 0 (03 R105; 19 R411). -/
theorem test_emulation_edges : takes (.retiredOpcodeShort g7 0x7000027C#32) { emul with ordered := [⟨2 ^ 52 + 0xFB8, 3, 2, false, 0, []⟩] } = some (.orderedCell, 0) ∧
    takes (.retiredOpcodeShort g7 0x7000027C#32) { emul with ordered := [⟨2 ^ 52 + 0xFB0, 3, 2, false, 0, []⟩] } = none ∧
    takes (.emuret g7) (emulated.write (2 ^ 52 + 0xFF8) [3#8]) = some (.illegalInstruction, 4) ∧
    takes (.emuret g7) (edit emulated fun t => { t with emu := some (some [0#32]) }) = some (.illegalConvergence, 0) ∧
    takes (.emuret g7) ((emulated.write (2 ^ 52 + 0xFF8) [0#8]).write (2 ^ 52 + 0xFC0) (toBytes 8 0x7000087C)) = some (.illegalInstruction, 1) ∧
    got (·.pc) (.emuret g7) ((emulated.write (2 ^ 52 + 0xFF8) [0#8]).write (2 ^ 52 + 0xFC0) (toBytes 8 0x700007FC)) = some 0x40004#64 := by decide +kernel
/-- IssueRules: a group instruction of an unbound thread at its allotment, and a whole bank of a copy gang at MZERO. -/
theorem test_group_rules : takes (.ballot g7 16#7 0#3) base = some (.illegalInstruction, 1) ∧ takes (.ballot g7 15#7 0#3) base = some (.illegalConvergence, 0) ∧
    all (fun t => match t.status with
      | .parked (.trap tr _) => some (tr.cause, tr.info1)
      | _ => none) 32 (.mzero g7 1#4 false 1#11) { rig with teams := [(1, { fetchTeam with gangs := [{ fetchGang with role := .copy }] })] } =
      List.replicate 32 (some (.illegalRole, 1#64)) := by decide +kernel
/-- CopiesAndFences: two lanes of one issue group copy between the same two lines, and become one line operation with one
promised time (04 R124, R125); in the next cycle they do not. -/
def twoCopies : State := { copying with threads := [(0, here copying), (16, ((here copying).setV 2#7 0x110#32).setV 12#7 0x210#32)] }
theorem test_line_merging : (((after cpy twoCopies).bind fun s => after cpy { s with cur := 16 }).map fun s => (queueAt s 0 1).map (·.bytes)) = some [32] ∧
    (((after cpy twoCopies).bind fun s => after cpy { s with cur := 16, cycle := 1 }).map fun s => (queueAt s 0 1).map (·.bytes)) = some [16, 16] ∧
    ((after cpy twoCopies).map fun s => ((startable s 0 1).find? (sameLine (issueKey s 16 (thrAt s 16)) ⟨2 ^ 52 + 0x110, 2 ^ 52 + 0x210, 16, none, false, none, false, 1, false, 0, 0⟩)).isSome) = some true := by
  decide +kernel
/-- CPYS from the aperture to a transport window, at 2^30, and host memory beyond it, at 2^31 (22 R432). -/
def splitCopy : State := ((holding mems [(2#7, 0x40000000#32), (3#7, 0#32), (8#7, 0x20020#32), (9#7, 0#32), (10#7, 0x40000000#32), (11#7, 0x40#32)]).write 0x3008
  (toBytes 8 (4095 * 2 ^ 40 + 0xF))).write 0x3010 (toBytes 8 0x8F)
def cpysOut : Instr := .cpys g7 0#4 ⟨2#2, .team, 4#7, at2, 12#7, 8#7⟩
theorem test_split_copy : ((after cpysOut splitCopy).map fun s => ((queueAt s 0 2).map (·.bytes), (queueAt s 0 7).map (·.bytes))) = some ([32], [32]) ∧
    readyB g7 cpysOut splitCopy = true ∧ got (·.status) cpysOut (crowded splitCopy 7) = some (.stalled (.room 7 0)) ∧
    got (·.status) cpysOut (crowded splitCopy 2) = some (.stalled (.room 2 0)) ∧
    passes (cpysChecks splitCopy 0 (here splitCopy) ⟨2#2, .team, 4#7, at2, 12#7, 8#7⟩) = true := by decide +kernel
/-- A marker behind a copy; one that waits for room in queue 1, entered in queue 2 already. -/
theorem test_qfence_edges : ((after cpy copying).bind (after (.qfence g7 .dev 0x6#8)) |>.map fun s => ((queueAt s 0 1).length, (queueAt s 0 2).length, (here s).pc)) = some (2, 1, 0x40010#64) ∧
    ((after (.qfence g7 .dev 0x6#8) (crowded mems 1)).map fun s => ((queueAt s 0 2).length, (here s).status)) = some (1, .stalled (.markers mems.serial 2#8)) ∧
    ripeMarker (crowded mems 1) 0 = none := by decide +kernel
/-- `CellsFit` of context 0 as a Bool. -/
def fitB (s : State) (l : List Nat) : Bool := allFit s 0 ((l ++ l).flatMap fun va => ((devLoc s 0 va Access.none).toList).map (·, 16))
/-- ThreadLife: EXIT with a task frame, with a range, with a promoted frame whose cell is FULL (07 R189; 13 R307). -/
theorem test_exit_frames : got (fun t => (t.pc, t.ln, t.chip.length, t.rv 5#7)) (.exit g7) (framed [aFrame false false 0#32]) = some (0x40000#64, 0x40000#64, 0, 16#32) ∧
    got (fun t => (t.pc, t.chip.length, t.rv 3#7)) (.exitShort g7) (framed [aFrame true false 5#32]) = some (0x40000#64, 1, 14#32) ∧
    got (fun t => (t.pc, t.ln, t.chip.length)) (.tdoneR g7) (edit (framed [aFrame false false 0#32]) fun t => { t with ln := 0#64 }) = some (0x40000#64, 0#64, 0) ∧
    got (fun t => (t.pc, t.chip.length, t.rv64 0#7)) (.exit g7) (cells [aFrame false true 0#32] (2 ^ 126 + 77) 0) = some (0x40000#64, 0, 77#64) ∧
    (here (framed [])).group = none ∧ fitB (cells [] 0 0) [0x100_0000_0100] = true := by decide +kernel
/-- Frames: with 64 frames FORK still makes its cell EMPTY and FORKR does not touch it; ITER below a task frame. -/
def full64 : State := edit (cells [] 5 0) fun t => { t with spilled := List.replicate 64 (Vector.replicate 8 0) }
theorem test_frames_edges : mem 0x100 16 (.fork g7 ⟨1#3, .v 14#7, .v 2#7, 4#7⟩) full64 = some 0 ∧ mem 0x100 16 (.forkr g7 ⟨1#3, .v 14#7, .v 2#7, 8#7⟩) full64 = some 5 ∧
    got (fun t => (t.rv 4#7, t.pred 1#3, t.chip.map (·.lo))) (.iter g7 1#3 4#7) (framed [aFrame true false 5#32, aFrame false false 0#32]) = some (3#32, true, [4#32, 0#32]) ∧
    readyB g7 (.forkr g7 ⟨1#3, .v 14#7, .v 2#7, 8#7⟩) full64 = true := by decide +kernel
/-- WorkListsAndSpawn: a filter of 2^10 bits at 2^40 + 0x6000 that has and has not seen 3 (13 R317); the slots of a packet. -/
def filtered (w : Nat) : State := ((lists 0 0 []).write (2 ^ 52 + 0x109) (toBytes 1 10 ++ toBytes 6 0 ++ toBytes 8 (2 ^ 40 + 0x6000))).write (2 ^ 52 + 0x6000) (toBytes 4 w)
theorem test_filter : got (·.pred 1#3) (.wlins g7 ⟨1#3, .v 2#7, 9#7⟩) (filtered 8) = some false ∧ got (·.pred 1#3) (.wlins g7 ⟨1#3, .v 2#7, 9#7⟩) (filtered 4) = some true ∧
    mem 0x6000 4 (.wlins g7 ⟨1#3, .v 2#7, 9#7⟩) (filtered 4) = some 12 ∧ ((after (.wlins g7 ⟨1#3, .v 2#7, 9#7⟩) (filtered 4)).map fun s => (s.core 0).wl) = some [entry 3#32] := by decide +kernel
theorem test_spawn_slots : mem 0x8340 8 (.spawn g7 ⟨1#3, .v 2#7, 9#7⟩) (spawning 13) = some 0x8302 ∧ mem 0x83C0 8 (.spawn g7 ⟨1#3, .v 2#7, 9#7⟩) (spawning 13) = some (2 ^ 40 + 0x4000) ∧
    (match spawnPlan (spawning 13) 0 (here (spawning 13)) 0x100_0000_0100#64 3 with
      | .ok (some (bs, l)) => (bs.length, l.map (·.loc))
      | _ => (0, [])) = (192, [2 ^ 52 + 0x8340, 2 ^ 52 + 0x8380, 2 ^ 52 + 0x83C0]) := by decide +kernel
/-- CellClasses: the conflicts of 05 R150, and a COUNT with an EMPTY cell of either side. -/
def ceq : Instr := .cequ g7 (cell 0#7 12#7)
theorem test_class_conflicts : takes ceq (cells [] (3 * 2 ^ 126 + 5) (3 * 2 ^ 126 + 5)) = some (.conflictingFill, 1) ∧ takes ceq (cells [] (2 ^ 126) (3 * 2 ^ 126 + 5)) = some (.conflictingFill, 1) ∧
    mem 0x200 16 ceq (cells [] (3 * 2 ^ 126 + 5) 0) = some (2 ^ 127 + 2 ^ 40 + 0x100) ∧ mem 0x100 16 ceq (cells [] 0 (3 * 2 ^ 126 + 5)) = some (2 ^ 127 + 2 ^ 40 + 0x200) ∧
    fitB (cells [] 0 0) [0x100_0000_0100, 0x100_0000_0200] = true ∧ readyB g7 ceq (cells [] 0 0) = true := by decide +kernel
/-- EngineAcceptance: the register words and the draws an operation captures (08 R242 to R246; 09 R257, R260, R263). -/
def capsW (q : Nat) (i : Instr) : Option (Nat × Nat × Nat) :=
  (after i rig).bind fun s => (queueAt s 0 q).head?.bind fun e => match e.kind with
    | .eng op => some (op.words.length, op.draws.length, op.debit)
    | _ => none
theorem test_captured_words : [capsW 4 (.mst g7 ⟨1#4, .f16, .rs, 2#7, 9#7, false, 1#11⟩), capsW 4 (.mprm g7 ⟨1#4, .f32, 1#11, 2#6, 8#7, 0#7⟩), capsW 4 (.mma g7 ⟨1#4, .bx8, 1#11, 2#6, 3#6, 0#7⟩),
      capsW 6 (.sighSrp g7 ⟨1#4, .f32, 2#6, 12#7, 0#2, 16#5⟩), capsW 6 (.sighKey g7 ⟨1#4, 12#7, 0#2, 8#7⟩), capsW 6 (.sigb g7 ⟨1#4, .group, .f32, 3#6, 2#6, 12#7, 0#2⟩)] =
    [some (0, 32, 3), some (32, 0, 44), some (256, 0, 26), some (3, 0, 4), some (3, 0, 1), some (5, 0, 2)] := by decide +kernel
/-- EngineOperations: an array that a reset left QUIET or HOLDING is released before its next operation starts (08 R249). -/
theorem test_array_release : ([(.quiet, .idle), (.holding, .busy)] : List (ArrayState × ArrayState)).all (fun e =>
    ((opIn 4 (.mzero g7 1#4 false 1#11)).bind fun x => (after (.tileOpStart 0 4) (x.1.setCore 0 { x.1.core 0 with arr0 := e.1 })).map fun s => decide ((s.core 0).arr0 = e.2)) == some true) = true := by
  decide +kernel
/-- EngineResults: every matrix operation of the list above may end once it has started, and every signature operation runs. -/
theorem test_results_witness : matrices.all (fun e => ((opIn 4 e.1).bind fun x => (after (.tileOpStart 0 4) x.1).map fun s => tileMayEnd s 0 4 x.2 && (findOp s 0 4 x.2).isSome) == some true) = true ∧
    signatures.all (fun e => ((opIn 6 e.1).bind fun x => (after (.sigOpStart 0) x.1).map fun s => (runningSig s 0).isSome) == some true) = true ∧
    inRect fetchTeam 0 = true := by decide +kernel
/-- MTRN of a slot whose line 3 begins with 1.0: element (0, 3) of the tile (08 R244). -/
theorem test_transpose : (((opIn 4 (.mtrn g7 ⟨1#4, .f32, 1#11, 2#6, 0#7⟩)).map fun x => x.1.setCore 0 { x.1.core 0 with slots := memWrite (x.1.core 0).slots (5 * 8192 + 3 * 256) (toBytes 4 0x3F800000) }).bind fun s =>
      (after (.tileOpStart 0 4) s).bind fun s => (queueAt s 0 4).head?.bind fun e => (after (.tileOpComplete 0 4 e.id) s).map fun s => ((tileRow s 0 5 false 0)[3]?, (tileRow s 0 5 false 3)[0]?)) =
      some (some 0x3F800000, some 0) := by decide +kernel
/-- CopyOperations: an element toward die 7 goes on the mesh as two units and its operation stays until the last is
performed (03 R94, R96, R97); a packet's element is translated as it lands, and waits for its budget (14 R332, R348). -/
def elemAt (dst src : Nat) (late : Bool) : CopyElem := ⟨dst, src, 16, if late then none else some (2 ^ 52 + 0x40), late, none, true, 1, false, 0, 0⟩
def copyEntry (x : CopyElem) (pk : Option Nat) : QEntry := ⟨40, 0, 1, 16, true, .copy [(0, x)] pk, none⟩
def oneCopy (s : State) (q : Nat) (e : QEntry) : State := s.setCore 0 { s.core 0 with queues := Vector.ofFn fun k => if k.val = q then [e] else [] }
def meshCopy : State := oneCopy { mems.write (2 ^ 52 + 0x40) (toBytes 16 (2 * 2 ^ 32 + 2 ^ 4)) with choices := { mems.choices with mesh := true } } 1 (copyEntry (elemAt (sliceLoc 143 0) (2 ^ 52 + 0x100) false) none)
theorem test_mesh_copy : ((after (.copyLanding 0 1 40 0) meshCopy).map fun s => (s.mesh.map fun w => (w.loc - sliceLoc 143 0, w.bytes, w.dest), (queueAt s 0 1).length, s.mem == meshCopy.mem)) =
      some ([(0, [0x80#8, 1#8, 2#8, 3#8, 4#8, 5#8, 6#8, 7#8], 7), (8, List.replicate 8 0#8, 7)], 1, true) ∧ meshDie meshCopy 0 (sliceLoc 143 0) = some 7 ∧ bufferFull meshCopy 7 = false ∧
    ((after (.copyLanding 0 1 40 0) meshCopy).bind fun s => match s.mesh with
      | [a, b] => (after (.causalApply a.id) s).bind fun s1 => (after (.causalApply b.id) s1).map fun s2 => (s1.read (sliceLoc 143 0) 2, (queueAt s1 0 1).length, (queueAt s2 0 1).length, leNat (s2.read (2 ^ 52 + 0x40) 16))
      | _ => none) = some ([0x80#8, 1#8], 1, 0, 2 ^ 32 + 2 ^ 4) := by decide +kernel
def lateCopy (w : Nat) : State := setCfield (oneCopy mems 3 (copyEntry (elemAt (2 ^ 40 + 0x300) 0x40000 true) (some 7))) 0 832 32 w
theorem test_late_copy : ((after (.copyLanding 0 3 40 0) (lateCopy 0)).map fun s => (s.read (2 ^ 52 + 0x300) 4 == mems.read 0x40000 4, (queueAt s 0 3).length)) = some (true, 0) ∧
    passes (translate (lateCopy 0) 0 0 0x40000#64 Access.load false 1) = true ∧ isFirst (lateCopy 0) 0 3 (copyEntry (elemAt (2 ^ 40 + 0x300) 0x40000 true) (some 7)) = true := by decide +kernel
/-- The exception a thread is parked with. -/
def trapOf (t : Thread) : Option Trap := match t.status with
  | .parked (.trap tr _) => some tr
  | _ => none
/-- MessageSteps: the 1,024th link breaks the walk off; a link toward another owner's LINKED cell is halved; CPEEK at an
EMPTY root names it with its hops (05 R139, R144, R150). The cell at 2^40 + 0x400000 stands in core 1's slice. -/
def walking (hops x : Nat) (va y : Nat) (i : Instr) : Option State := (sent i x y).map fun s => { s with msgs := s.msgs.map fun m => (1, { m.2 with hops := hops, stage := .walk va }) }
theorem test_walk_edges : ((walking 1024 linked 0x100_0000_0100 0 (.cfill g7 (cell 10#7 0#7))).bind (after (.walkStep 1))).map (fun s => (trapOf (here s), s.msgs.length)) =
      some (some ⟨.conflictingFill, 3, 0x100_0000_0100#64, 0x100_0000_0100#64, 2#64, 0#64, none, none⟩, 0) ∧
    ((walking 1023 linked 0x100_0000_0100 0 (.cfill g7 (cell 10#7 0#7))).bind (after (.walkStep 1))).bind stageOf = some (.walk 0x100_0000_0200) ∧
    (((steps [.walkStep 1, .walkStep 1, .walkReply 1] (sent (.cpeek g7 0#4 (cell 4#7 0#7)) linked 0)).bind fun s => after (.queryEvent 1) s).map fun s => ((here s).rv64 4#7, (here s).rv64 6#7)) =
      some (0#64, BitVec.ofNat 64 (2 ^ 40 + 0x200 + 2 ^ 57)) := by decide +kernel
/-- Two owners: the cell at 0x100 of slice 0 is LINKED to one in slice 1, itself LINKED to the one at 0x200. -/
def halved : Option State := (after (.cfill g7 (cell 10#7 0#7)) { ((setCfield (cells [] (2 ^ 127 + 2 ^ 40 + 0x400000) 0) 0 320 144 3).write (2 ^ 52 + 0x400000) (toBytes 16 linked)) with choices := { mems.choices with mesh := true } }).map one
theorem test_path_halving : ((halved.bind (after (.walkStep 1))).map fun s => (leNat (s.read (2 ^ 52 + 0x100) 16), s.msgs.map (·.2.hops), stageOf s)) = some (linked, [1], some (.walk 0x100_0000_0200)) := by decide +kernel
/-- Arrivals: a record is held at a COUNT, finds no room at 512, and is lost with its wait at an unreachable module (05 R142;
22 R431). -/
def manyWaiters (s : State) : State := { s with cellWaiters := (List.range 512).map fun k => ⟨2 ^ 52 + 0x1000 + 16 * k, 0, 0, 1000 + k, none, none, 0⟩ }
theorem test_record_edges : ((after (.waiterRecordForward 5) (forwarding (3 * 2 ^ 126 + 5))).map fun s => (s.forwards.length, s.cellWaiters.map (·.loc))) = some (0, [2 ^ 52 + 0x100]) ∧
    ((after (.waiterRecordForward 5) (manyWaiters (forwarding 0))).map fun s => (s.forwards.length, s.cellWaiters.length)) = some (1, 512) ∧
    (((after (.waiterRecordForward 5) { forwarding 0 with forwards := [(5, ⟨2 ^ 52 + 0x200, 0x100_0000_0100, some (5 * 2 ^ 40), 0, none, 0, [(0, none)]⟩)], unreachable := [5] }).map here).map fun t => (trapOf t).map (·.cause)) = some (some .poison) := by decide +kernel
/-- CommandQueues: a descriptor of weight 0 leaves its queue failed and not enabled (14 R321, R324); rank words that are out of range (14 R336). -/
def badDesc : BitVec 512 := (queued 0 0 0 |>.queue 3).desc &&& ~~~(BitVec.ofNat 512 (0xFF * 2 ^ 72))
theorem test_queue_refusals : ((after (.queueEnable 3 badDesc) (mems.setQueue 3 Queue.reset)).map fun s => (qstate s 3, qfield s 3 58 1)) = some (2, 0) ∧
    ((after (.queueRecovery 3 badDesc) (queued 2 7 7)).map fun s => (qstate s 3, qfield s 3 58 1)) = some (2, 0) ∧
    queueFieldsOk mems (mergeDesc Queue.reset.desc badDesc) = false ∧ [0xC#32, 0x40#32, 0x10B#32, 0x2A#32 ||| 0x100#32].all (fun w => rankOk [w] == false) = true ∧
    rankOk [0xF#32, 1#32] = false ∧ rankOk [0xF#32, 0#32] = true := by decide +kernel
/-- Packets: under the default program on a queue of weight 2 beside one of weight 3, the rank is the later of vfin and gvt,
and vfin is that and ceil(5 / 2) = 3 (14 R339); dispatch jumps gvt to the first packet (14 R337). -/
def weighed (v : Word) : State := let s := reading [(6, { aPacket 8 0 joinBytes with queue := 4, stage := .ready, rank := 1005#32 }), (7, aPacket 8 0 joinBytes)]
  { (s.setQueue 3 { s.queue 3 with desc := setField (s.queue 3).desc 72 8 2, vfin := v }).setQueue 4 { s.queue 3 with desc := setField (s.queue 3).desc 72 8 3 } with gvt := 1000#32 }
theorem test_default_rank : ((after (.copyPacket 3) (weighed 0#32)).map fun s => (s.packets.map (·.2.rank), (s.queue 3).vfin, s.gvt)) = some ([1005#32, 1000#32], 1003#32, 1000#32) ∧
    ((after (.copyPacket 3) (weighed 1010#32)).map fun s => (s.packets.map (·.2.rank), (s.queue 3).vfin, s.gvt)) = some ([1005#32, 1010#32], 1013#32, 1005#32) ∧
    ((readyQueues (weighed 0#32) 3).map fun j => qfield (weighed 0#32) j 72 8).sum = 5 ∧ mayInsert (weighed 0#32) 3 = true := by decide +kernel
/-- BeatsAndTeams: the promotions of one running thread (12 R291, R292): none, a bound frame, no lane, a task, and a range
from 3 to 9 of grain 2, split at 3 + 2 ceil(6 / 4) = 7 with its count raised. -/
def local_ (l : List Frame) : State := { setCfield (setCfield (cells l (3 * 2 ^ 126 + 1) 0) 0 192 57 (2 ^ 40 + 2 ^ 21)) 0 256 40 (2 ^ 21) with beat := 1#64 }
def rangeOf (f : Frame) : Frame := { f with grain := 2#32 }
theorem test_no_promotion : (here (promotions (local_ []))).pnone = 1#64 ∧ (here (promotions (local_ [{ aFrame false false 0#32 with bound := true }]))).pskip = 1#64 ∧
    (here (promotions (local_ [aFrame false true 0#32]))).pnone = 1#64 ∧
    (here (promotions { setCfield (local_ [aFrame false false 0#32]) 0 921 2 1 with teams := [(1, { fetchTeam with x0 := 5 })] })).pdefer = 1#64 ∧ examined (here (local_ [])) = true := by decide +kernel
theorem test_promotion : ((promotions (local_ [aFrame false false 0#32])).threads.map fun e => (e.2.tid, e.2.rv 5#7, e.2.chip.length)) = [(0#32, 0#32, 1), (1#32, 16#32, 0)] ∧
    ((promotions (local_ [rangeOf (aFrame true false 9#32)])).threads.map fun e => e.2.chip.map fun f => (f.lo, f.hi, f.promoted)) =
      [[(3#32, 7#32, true)], [(7#32, 9#32, false)]] ∧
    leNat ((promotions (local_ [rangeOf (aFrame true false 9#32)])).read (2 ^ 52 + 0x100) 8) = 2 ∧
    (findBlock (local_ []) fetchTeam 0 1).isSome = true ∧ (lowestBlock (local_ []) 0 (takenBlocks (local_ []) 0) 1).isSome = true := by decide +kernel
/-- Step 1 of a beat: the budgets of the last beat are whole again, the account has what it held and 32,768 nJ, and no more
than twice that (14 R347, R348); gvt moves by its step (14 R337). -/
def spent : State := let s := { base with chron := 4096, gvt := 7#32 }
  (s.setCtx 0 { s.ctx 0 with used := [(0, 5)] }).setCore 0 { s.core 0 with energy := 50000, copyUsed := [(0, 9)] }
theorem test_replenishment : ((after .beat spent).map fun s => ((s.ctx 0).used, (s.core 0).copyUsed, (s.core 0).energy, s.gvt, s.nextBeat)) = some ([], [], 65536, 8#32, 8192) := by decide +kernel
/-- RecoveryCommands: a record whose queue nothing maps fails its context and stays (19 R399, R400); CONTINUE of a promise-miss
waits at its barrier, and goes on when the phase is over (19 R405). -/
def lostQueue : State := setCfield recorded 0 768 57 (2 ^ 40 + 2 ^ 30)
def missed (ph : Nat) : State := { edit ((code.write 0x40000 (fetchLineBytes [0x70000002#32])).write (2 ^ 52 + 0x200) (toBytes 16 ph)) fun t =>
    { t with status := .parked (.trap ⟨.promiseMiss, 0, 0x100_0000_0200#64, 3#64, 100#64, 0#64, none, some (2 ^ 52 + 0x200)⟩ true) } with
  rec_ := { Block8.reset with op := 1#4, mode := 2#2, busy := true, a := 1#64 } }
theorem test_recovery_edges : ((after (.faultRecordWrite 5) lostQueue).map fun s => (cfield s 0 30 2, s.records.length, s.records.map (queueTakes s))) = some (2, 1, [false]) ∧
    recordLoc lostQueue 0 (cfield lostQueue 0 768 57) 8 false Access.both = none ∧
    ((after .resume (missed 3)).map fun s => ((here s).status, (here s).npc, s.barWaiters.map (·.place))) = some (.parked (.barrier (2 ^ 52 + 0x200) 3#4), 0x40004#64, [0]) ∧
    ((after .resume (missed 4)).map fun s => ((here s).status, (here s).pc)) = some (.ready 0, 0x40004#64) := by decide +kernel
/-- A deadline that passes with a team not over, and one whose teams are all over (19 R413). -/
theorem test_deadline_edges : teamOver base 1 fetchTeam = false ∧ ((after (.preemptDeadline 0) { setCfield (base.setCtx 0 { base.ctx 0 with deadline := some 50 }) 0 921 2 1 with chron := 49 }).map fun s => (s.teams.length, pstate s 0)) = some (1, 1) := by
  decide +kernel
/-- IsolationCommands: equal key halves are refused by both key commands (16 R368); a failed context's disable makes it idle (16 R354). -/
theorem test_key_halves : ((after .keyload { isolating 4#4 9#13 with iso := { (isolating 4#4 9#13).iso with key2 := 5#256 } }).map fun s => (s.iso.status, mget s.keys 9)) = some (1#2, none) ∧
    ((after .keyclear { isolating 5#4 9#13 with iso := { (isolating 5#4 9#13).iso with key2 := 5#256 }, keys := [(9, (1#256, 2#256))] }).map fun s => (s.iso.status, mget s.keys 9)) = some (1#2, some (1#256, 2#256)) ∧
    ((after (.contextDisable 0) (setCfield (setCfield { base with teams := [] } 0 0 1 0) 0 30 2 2)).map fun s => cfield s 0 30 2) = some 0 ∧ (5#256 : BitVec 256) ≠ 6#256 := by decide +kernel
/-- Management: vectors 3 and 7 of the PF signal nothing, 2 and 8 do (22 R425); at stage 0 no register is written. -/
def mapped (v : Nat) : State := { base with intMap := [(5, BitVec.ofNat 32 v)] }
theorem test_vectors : ([3, 7] : List Nat).all (fun v => (signalCtx (mapped v) 5).msi == []) = true ∧ ([2, 8] : List Nat).all (fun v => (signalCtx (mapped v) 5).msi == [(0, v)]) = true ∧
    ((after (.registerWrite 0x44 [0x43#8, 0#8, 0#8, 0#8]) { base with stage := 0#2 }).map (·.step)) = some base.step := by decide +kernel
/-- Outside: a request before stage 2, and one beyond its context's budget of 64 bytes a beat and channel, do nothing (14 R348; 22 R433). -/
theorem test_remote_refusals : ((after (.remoteAccess 0 0 false 0x40000 (.write [9#8] false)) { base with stage := 1#2 }).map fun s => memByte s.mem 0x40000) = some 2#8 ∧
    allFit base 0 [(0x40000, 1)] = true ∧ remoteOk base 0 0x40000 1 = true := by decide +kernel
/-- FWLOAD of bytes that are no signed image (22 R435). -/
theorem test_fwload_refused : ((after .fwload { setCfield base 0 0 1 0 with mail := { Block8.reset with op := 1#4, busy := true, a := 0x5000#64, b := 96#64 } }).map fun s => (s.mail.status, s.stage)) = some (2#2, 2#2) ∧
    imageOk (mems.read (hostLoc (2 ^ 20) 0x5000) 96) = false := by decide +kernel
/-- AES-256 of FIPS 197, appendix C.3: the model's block cipher on its example (16 R366). -/
theorem test_aes_example : aes256 ((List.range 32).map (BitVec.ofNat 8 ·)) ((List.range 16).map fun k => BitVec.ofNat 8 (0x11 * k)) =
    [0x8E#8, 0xA2#8, 0xB7#8, 0xCA#8, 0x51#8, 0x67#8, 0x45#8, 0xBF#8, 0xEA#8, 0xFC#8, 0x49#8, 0x90#8, 0x4B#8, 0x49#8, 0x60#8, 0x89#8] := by decide +kernel
/-! Clauses stated for held adds, poisoned frames, released frames, waiting budgets and the corners of Table 3. -/

/-- FloatSpecials: the rest of 06 R169, Table 3: -inf for the roots and the logarithm, +inf for FRSQ, ±inf for FTANH, ±0 for
FEXP2, and the logarithm of 1. -/
def specials : State := holding flts [(7#7, 0xFF800000#32)]
def specialCases : List (Instr × Word × BitVec 5) := [
  (.fsqrt g7 0#4 (f2 7#7), 0x7FC00000#32, 1#5), (.frsq g7 0#4 (f2 7#7), 0x7FC00000#32, 1#5), (.flog2 g7 0#4 (f2 7#7), 0x7FC00000#32, 1#5),
  (.frsq g7 0#4 (f2 13#7), 0#32, 0#5), (.ftanh g7 0#4 (f2 13#7), 0x3F800000#32, 0#5), (.ftanh g7 0#4 (f2 7#7), 0xBF800000#32, 0#5),
  (.fexp2 g7 0#4 (f2 12#7), 0x3F800000#32, 0#5), (.fcos g7 0#4 (f2 12#7), 0x3F800000#32, 0#5), (.flog2 g7 0#4 (f2 8#7), 0#32, 0#5)]
theorem test_float_specials : givesF specials specialCases = true ∧ (specialCases.map (·.1)).all (fun i => readyB g7 i specials) = true := by decide +kernel
/-- Reductions: a signalling NaN that one active member alone brings is delivered as the default NaN with invalid (06 R161). -/
def lone : State := bound 4 fun k t => (t.setPred 0#3 (decide (k = 2))).setV 8#7 0x7F800001#32
theorem test_lone_nan : ((all (fun t => (t.rv 4#7, t.fpflags)) 4 (.lred ⟨false, 0#3⟩ 0#4 ⟨.add, .flt .f32, .rn, false, 4#7, 8#7⟩) lone)[2]?) = some (0x7FC00000#32, 1#5) ∧
    gatheredB false ⟨false, 0#3⟩ (.lred ⟨false, 0#3⟩ 0#4 ⟨.add, .flt .f32, .rn, false, 4#7, 8#7⟩) lone (row 4) = true := by decide +kernel
/-- BadTargets: branches, calls and the emulation return to a parcel that is no target (02 R68). -/
theorem test_bad_transfers : ([.braShort g7 3#21, .callShort g7 3#21, .bra g7 (.d28 3#28), .call g7 (.d32 3#32),
      .brc g7 ⟨.lt, .int .i32, 9#7, 8#7, .d18 3#18⟩, .brc g7 ⟨.lt, .int .i32, 9#7, 8#7, .d32 3#32⟩] : List Instr).all (fun i =>
        takes i code == some (.badTarget, 0) && readyB g7 i code) = true ∧
    takes (.emuret g7) (emulated.write (2 ^ 52 + 0xFC8) (toBytes 8 0x40008)) = some (.badTarget, 0) := by decide +kernel
/-- OrderedCells: an add of rank 1 is held behind rank 0 (03 R103), and the add of rank 0 applies both; 04 R121: until then an
acquire keeps a later load, and a relaxed add a later store, from issuing. -/
def add1 (acq : Bool) : Instr := .aaddf g7 ⟨false, if acq then .acq else .relaxed, if acq then .team else .th, 6#7, at2, 8#7⟩
def behind (acq : Bool) : State := match exec (add1 acq) (holding ord [(6#7, 1#32)]) with
  | .next s => s
  | _ => ord
theorem test_drain : ((behind false).ordered.map fun c => c.window.map fun h => (h.rank, h.span, h.acq)) = [[(1, 1, false)]] ∧
    ((after (add1 false) (holding (behind false) [(6#7, 0#32)])).map fun s => (s.ordered.map fun c => (c.e, c.window.length))) = some [(2, 0)] ∧
    mem 0x100 4 (add1 false) (holding (behind false) [(6#7, 0#32)]) = some 0x40400000 ∧
    ((behind false).ordered.map fun c => (c.window.map (·.rank), c.n)) = [([1], 3)] ∧ addHeldAt (behind false) 0 [(2 ^ 52 + 0x100, 4)] = true ∧
    readyB g7 (add1 false) (behind false) = true := by decide +kernel
theorem test_held_adds : addWaits (behind true) 0 (here (behind true)) (.ld g7 0#4 ⟨.n32, .relaxed, .th, 4#7, { at2 with off := .imm7 8#7 }⟩) [] = true ∧
    addWaits (behind false) 0 (here (behind false)) (.ld g7 0#4 ⟨.n32, .relaxed, .th, 4#7, { at2 with off := .imm7 8#7 }⟩) [(2 ^ 52 + 0x300, 4)] = false ∧
    addWaits (behind false) 0 (here (behind false)) (.st g7 ⟨.n32, .relaxed, .th, 4#7, at2⟩) [(2 ^ 52 + 0x300, 4)] = true ∧
    addWaits (behind false) 0 (here (behind false)) (.fence g7 .acq .team) [] = true := by decide +kernel
/-- Frames and joins at a frame read back poisoned (log 112). -/
def spoilt : State := framed [{ aFrame false false 0#32 with poison := true }]
theorem test_poisoned_frame : ([.join g7, .joinr g7, .fdrop g7 1#3, .fdepth g7 4#7] : List Instr).all (fun i => takes i spoilt == some (.poison, 0) && readyB g7 i spoilt) = true ∧
    (here spoilt).ending = false := by decide +kernel
/-- Engine operations: where they read and write memory, and that their frames are still granted; which buffer parts they write;
an add held at an address of one keeps it out of its queue (03 R96). -/
def opOf (q : Nat) (i : Instr) : Option EngOp := (opIn q i).bind fun x => (queueAt x.1 0 q).head?.bind fun e => match e.kind with
  | .eng op => some op
  | _ => none
theorem test_engine_places : ([.mld g7 ⟨1#4, 2#7, 9#7, 3#6⟩, .mldc g7 ⟨1#4, .f32, .rn, 2#7, 9#7, false, 1#11⟩, .mst g7 ⟨1#4, .f16, .rn, 2#7, 9#7, false, 1#11⟩] : List Instr).all (fun i =>
      ((opOf 4 i).map fun op => op.keys.length == op.locs.length && (op.locs.zip op.keys).all (fun x => mayStill rig x.2 x.1) && !writeHeld rig 0 op) == some true) = true ∧
    ([.sighSrp g7 ⟨1#4, .f32, 2#6, 12#7, 0#2, 16#5⟩, .sighKey g7 ⟨1#4, 12#7, 0#2, 8#7⟩, .sigb g7 ⟨1#4, .group, .f32, 3#6, 2#6, 12#7, 0#2⟩, .sigmap g7 ⟨1#4, 12#7, 0#2⟩] : List Instr).all (fun i =>
      ((opOf 6 i).map fun op => !op.bufsW.isEmpty && !writeHeld rig 0 op) == some true) = true ∧
    (row 32).all (fun m => !addHeldAt rig m [(2 ^ 52 + 0x1000, 32)]) = true := by decide +kernel
def heldAt1000 : State := { rig with ordered := [⟨2 ^ 52 + 0x1000, 3, 0, false, 0, [⟨some 0, false, 1, 1, 0#64⟩]⟩] }
theorem test_engine_held_add : got (·.status) (.mld g7 ⟨1#4, 2#7, 9#7, 3#6⟩) heldAt1000 = some (.stalled (.groupRoom 4)) ∧
    addHeldAt heldAt1000 0 [(2 ^ 52 + 0x1000, 32)] = true := by decide +kernel
/-- CopyOperations: an element of a frame that is granted and of one that is not; a sector acknowledged on a connection that has
become invalid is dropped with its record (22 R432). -/
def badSource : CopyElem := { elemAt (2 ^ 52 + 0x300) 0x100000 false with dkey := 4096 }
theorem test_allowed : elemAllowed mems (elemAt (2 ^ 52 + 0x100) (2 ^ 52 + 0x200) false) = true ∧ elemAllowed mems badSource = false ∧
    ((after (.copyLanding 0 1 40 0) (oneCopy mems 1 (copyEntry badSource none))).map fun s => (s.mem == mems.mem, (queueAt s 0 1).length, s.records.map fun r => (r.unit, r.kind))) = some (true, 0, [(145, 2)]) ∧
    sendHeld mems 0 badSource.dst = false ∧ heldCount mems (unitCopy 0) 0 = 0 ∧
    connValid sending 0 = false ∧ connValid { sending with transport := [(0, BitVec.ofNat 256 (2 ^ 159))] } 0 = true ∧
    ((after (.transportAck 0 40 0) sending).map fun s => s.records.map fun r => (r.unit, r.kind)) = some [(578, 2)] ∧
    ((after (.transportAck 0 40 0) { sending with transport := [(0, BitVec.ofNat 256 (2 ^ 159))] }).map fun s => (queueAt s 0 7).length) = some 0 := by
  decide +kernel
/-- ThreadEvents: a refused page is absent when the access comes again (22 R424); a gang whose blocks are not zeroed does not
start (14 R346). -/
def unzeroed : State := edit (being (.waiting 100)) fun t => { t with zero := true }
theorem test_refused_page : ((after (.pageRequestResponse 0 false) (being (.stalled (.page 4 9)))).map fun s => (here s).pri) = some (priCode 4 9 true) ∧
    zeroing unzeroed 1 = true ∧ at0 (.gangStart 1 0) unzeroed = some (.waiting 100, 0x40000#64) ∧
    allFit (being (.parked .beat)) 0 (framePlaces (being (.parked .beat)) (here base) 0 1) = true := by decide +kernel
/-- Arrivals: the budget and the context of a record's cell; a mesh write whose frame was released is not performed (log 109). -/
def released : State := { mems with mesh := [⟨6, 0, some 0, none, some 0, (6, 0x100000, 1), 2, 0, Vector.replicate 8 0, 0x100000, [0xAA#8], false⟩] }
theorem test_released_unit : ((after (.causalApply 6) released).map fun s => (s.mesh.length, s.mem == mems.mem, s.records.map fun r => (r.unit, r.kind))) = some (0, true, [(0, 2)]) ∧ released.mesh.map (unitAllowed released) = [false] ∧
    (onMesh 0).mesh.map (unitAllowed (onMesh 0)) = [true] ∧ ctxMay (forwarding 0) 0 (2 ^ 52 + 0x100) = true ∧ allFit (forwarding 0) 0 (((forwarding 0).forwards.map fun f => forwardCost (forwarding 0) f.2 (2 ^ 52 + 0x100)).flatten) = true ∧
    (forwarding linked).forwards.map (fun f => parentLoc (forwarding linked) f.2.ctx (2 ^ 52 + 0x100) 0x100_0000_0200) = [some (2 ^ 52 + 0x200)] ∧
    ((sent (.cfill g7 (cell 10#7 0#7)) linked 0).map fun s => s.msgs.map fun m => msgFits s m.2) = some [true] := by decide +kernel
/-- CommandQueues and Packets: what a packet reads and what its end writes are within the budgets. -/
theorem test_packet_budgets : allFit (slotted joinBytes) 0 (packetPlaces (slotted joinBytes) 0 1 (fun i => ringRead (slotted joinBytes) 3 i)
      fun i => devCost (slotted joinBytes) 0 (slotVa (slotted joinBytes) 3 i) 64) = true ∧
    endFits (reading []) (aPacket 4 0 joinBytes) [] = true ∧ endFits (reading []) (aPacket 6 0 cellBytes) (cellPlaces (reading []) (aPacket 6 0 cellBytes)) = true := by
  decide +kernel
/-- BeatsAndTeams: the hypotheses on budgets and blocks; no thread waits to be zeroed. -/
theorem test_team_budgets : allFit ended 0 (endCost ended 1 { fetchTeam with packet := 7 }) = true ∧ allFit draining 0 (swapFrames draining 1 ++
      swapWalks draining 0 0 (swapSize draining 1 fetchTeam) ++ ((swapTargets draining 0 0 (swapSize draining 1 fetchTeam)).getD [])) = true ∧
    ((takeBlocks launching 0 1 16 []).map fun l => l.all fun b => (blockLocs launching 0 b).isSome) = some true ∧
    (base.threads.all fun e => !e.2.zero && e.2.piece.isNone) = true ∧ allFit (local_ []) 0 (promoteCost (local_ []) 0 (here (local_ [])) 0 (aFrame false false 0#32)) = true ∧
    ((lowestBlock (local_ []) 0 (takenBlocks (local_ []) 0) 1).map fun b => (blockLocs (local_ []) 0 b).isSome) = some true := by decide +kernel
/-- RecoveryCommands: PREEMPT waits for a team that is over (19 R415, Table 8). -/
theorem test_preempt_retires : retiring { ended with rec_ := (trappedBy .absence 3#4 0#2).rec_ } 0 = true ∧ retiring (trappedBy .absence 3#4 0#2) 0 = false ∧
    ((after .preempt { ended with rec_ := (trappedBy .absence 3#4 0#2).rec_ }).map fun s => pstate s 0) = some 0 := by decide +kernel
/-- IsolationCommands: RELEASE of a range that is not aligned to its size (16 R368). -/
theorem test_release_unaligned : ((after .release { isolating 3#4 1#13 with iso := { (isolating 3#4 1#13).iso with a := 0x108000#64, size := 1#2 }, frames := [⟨33, 64, 1⟩] }).map fun s =>
      (s.iso.status, s.frames)) = some (0#2, []) := by decide +kernel
/-- Outside: a request of a cell's event, and what it reads. -/
theorem test_request_places : reqPlaces base 0 0x40000 (.write [9#8] false) = [(0x40000, 1)] ∧ allFit base 0 (reqPlaces base 0 0x40000 (.write [9#8] false)) = true ∧
    ((after (.thermalRecovery (readings 1519#16 0#32)) { base with shut := true, overTemp := true, stage := 1#2 }).map (·.overTemp)) = some false := by decide +kernel
/-! Clauses about waiting turns, poison met late, refused accesses, and readings. -/

/-- StageRings: a thread behind the one at place 7 stalls, and stands after it (04 R134). -/
def behindRing : State := { mems with teams := [(1, { fetchTeam with rings := Vector.replicate 8 { Ring.empty with putq := [7] } })] }
theorem test_ring_behind : ((after (.srput g7 .team 5#3 9#7) behindRing).map fun s => ((here s).status, (s.team 1).map fun t => (t.ring 5#3).putq)) =
      some (.stalled (.ring 5), some [7, 0]) ∧
    ((after (.srget g7 0#4 .team 5#3 4#7) mems).map fun s => (s.team 1).map fun t => (t.ring 5#3).getq) = some (some [0]) ∧
    ((behindRing.team 1).map fun t => (t.ring 5#3).putq.head?) = some (some 7) := by decide +kernel
/-- SlotsAndTokens: with all 64 slots bound by another team, MCLAIM waits (08 R242). -/
def fullSlots : State := rig.setCore 0 { rig.core 0 with binds := (List.range 64).map fun k => ⟨k, 2, k⟩ }
theorem test_no_free_slot : got (·.status) (.mclaim g7 9#6) fullSlots = some (.stalled .slot) ∧ slotOf? fullSlots 0 1 9 = none ∧
    freePhys fullSlots 0 = none ∧ (rig.threads.all fun e => e.2.board.isEmpty) = true ∧ gatheredB true g7 (.mclaim g7 9#6) fullSlots (row 32) = true := by decide +kernel
/-- EmulatedWords: a poisoned register that the record would hold (19 R398), before the stack limit (19 R395). -/
def tainted : State := edit emul fun t => t.markV 1#7
theorem test_retired_poison : takes (.retiredOpcodeShort g7 0x7000027C#32) tainted = some (.poison, 2) ∧
    takes (.retiredOpcodeShort g7 0x7000027C#32) (edit tainted fun t => { t with stklim := 0x100_0000_0FD0#64 }) = some (.poison, 2) ∧
    takes (.retiredOpcodeShort g7 0x7000027C#32) (edit emul fun t => t.markV 2#7) = none ∧ readyB g7 (.retiredOpcodeShort g7 0x7000027C#32) tainted = true := by decide +kernel
/-- WorkListsAndSpawn: the filter's word in a live ordered cell (03 R105). -/
theorem test_filter_live : takes (.wlins g7 ⟨1#3, .v 2#7, 9#7⟩) { filtered 4 with ordered := [⟨2 ^ 52 + 0x5FF8, 3, 2, false, 0, []⟩] } = some (.orderedCell, 0) ∧
    takes (.wlins g7 ⟨1#3, .v 2#7, 9#7⟩) { filtered 4 with ordered := [⟨2 ^ 52 + 0x5FF0, 3, 2, false, 0, []⟩] } = none := by decide +kernel
/-- ExceptionEntry: while a load is incomplete a thread stalls with its trap, its record held already, and parks as the load
completes (02 R75; 19 R396, R400). -/
def busyTrap : State := takeTrap base 0 { here base with board := [⟨4, 0, 1, [4#7], none, false⟩] } (mkTrap .breakpoint 0 0#64)
theorem test_trap_waits : ((here busyTrap).status, busyTrap.records.length) = (.stalled (.trap (mkTrap .breakpoint 0 0#64)), 1) ∧
    ((after (.longLatencyCompletion 0 4) busyTrap).map fun s => ((here s).status, (here s).replay, s.records.length)) =
      some (.parked (.trap (mkTrap .breakpoint 0 0#64) false), true, 1) := by decide +kernel
/-- MessageSteps: the reply of a walk to a FULL root passes back, and stops at a visited cell poisoned since (05 R139, R151). -/
def replying : Option State := steps [.walkStep 1, .walkStep 1] (sent (.cwait g7 (cell 10#7 0#7)) linked (2 ^ 126 + 9))
theorem test_reply : (replying.bind (after (.walkReply 1))).map (fun s => cellState (cellAt s (2 ^ 52 + 0x100))) = some .full ∧
    (replying.bind fun s => (after (.walkReply 1) { s with poison := [2 ^ 48 + 0x10] }).map fun s => (trapOf (here s), s.msgs.length)) =
      some (some ⟨.poison, 0, 0x100_0000_0100#64, 0#64, 0#64, 0#64, none, none⟩, 0) ∧
    (replying.map fun s => (s.msgs.map fun m => (m.2.visited, m.2.result.isNone), stageOf s, (here s).board.length)) =
      some ([([(2 ^ 52 + 0x100, 0x100_0000_0100)], true)], some (.reply ⟨0x100_0000_0200, 2 ^ 52 + 0x200, .full, 9#64, 1⟩), 0) ∧
    (replying.map fun s => s.msgs.map fun m => msgFits s m.2) = some [true] := by decide +kernel
/-- Management: whichever event brings the readings, firmware acts on them (22 R436). -/
theorem test_readings : ((after (.thermalThrottleEnd (readings 1680#16 2800001#32)) base).map fun s => (s.overTemp, s.overPower)) = some (true, true) ∧
    ((after (.thermalThrottle (readings 1519#16 2599999#32)) { base with overTemp := true, overPower := true }).map fun s => (s.overTemp, s.overPower)) = some (false, false) ∧
    ((after (.thermalRecovery (readings 1520#16 2600000#32)) { base with overTemp := true, overPower := true }).map fun s => (s.overTemp, s.overPower)) = some (true, true) := by decide +kernel
/-- BeatsAndTeams: a range promoted on a core whose copy budget the beat has spent waits with its frame, and starts with it
(12 R292; 16 R373). -/
def unpaid : State := let s := setCfield (local_ [rangeOf (aFrame true false 9#32)]) 0 512 16 1
  s.setCore 0 { s.core 0 with copyUsed := [(0, 1)] }
theorem test_piece_waits : ((promotions unpaid).threads.map fun e => (e.2.zero, e.2.chip.length, e.2.piece.map fun f => (f.lo, f.hi))) =
      [(false, 1, none), (true, 0, some (7#32, 9#32))] ∧
    ((retryZero (let s := promotions unpaid; s.setCore 0 { s.core 0 with copyUsed := [] }) 1).threads.map fun e => (e.2.zero, e.2.chip.map fun f => (f.lo, f.hi, f.promoted))) =
      [(false, [(3#32, 7#32, true)]), (false, [(7#32, 9#32, false)])] := by decide +kernel
/-- RecoveryCommands: what writing a record costs is within the budget; a header is cleared with the device's counts (19 R399). -/
theorem test_record_cost : allFit recorded 0 (recordCost recorded ⟨5, 576, 0, 2, none, none, List.replicate 64 0x11#8⟩ (2 ^ 52 + 0x4000) (2 ^ 52 + 0x4080)) = true ∧
    (recorded.ctx 0).frq.write = 3#32 ∧ ((after (.faultRecordWrite 5) recorded).map fun s => (s.ctx 0).frq.write) = some 4#32 := by decide +kernel
end Sys2Proof.Tests
end

section
/-! SUPPORT. Fields of words and of contexts' descriptors, and bytes, written and read back. -/

namespace Sys2Proof.Machine

/-- What a table holds for a key stands in it. -/
theorem mem_of_mget {α : Type} {m : Map α} {k : Nat} {x : α} (h : mget m k = some x) : (k, x) ∈ m := by
  induction m with
  | nil => cases h
  | cons e r ih =>
    obtain ⟨j, y⟩ := e
    unfold mget at h
    split at h
    · rename_i hj; cases h; subst hj; exact List.mem_cons_self
    · exact List.mem_cons_of_mem _ (ih h)

/-- A key that no entry has reads as nothing. -/
theorem mget_eq_none {α : Type} {m : Map α} {k : Nat} (h : k ∉ m.map (·.1)) : mget m k = none := by
  cases hm : mget m k with
  | none => rfl
  | some x => exact absurd (List.mem_map.2 ⟨_, mem_of_mget hm, rfl⟩) h

theorem getLsbD_setField {n : Nat} (x : BitVec n) (off w v i : Nat) :
    (setField x off w v).getLsbD i =
      if i < n ∧ off ≤ i ∧ i < off + w then v.testBit (i - off) else x.getLsbD i := by
  simp only [setField, BitVec.getLsbD_or, BitVec.getLsbD_and, BitVec.getLsbD_not, BitVec.getLsbD_ofNat,
    Nat.testBit_shiftLeft, Nat.testBit_two_pow_sub_one, Nat.testBit_mod_two_pow]
  by_cases hn : i < n
  · by_cases ho : off ≤ i
    · by_cases hw : i < off + w
      · simp [hn, ho, hw, show i - off < w by omega]
      · simp [hn, hw, show ¬ i - off < w by omega]
    · simp [hn, ho]
  · simp [hn, BitVec.getLsbD_of_ge x i (by omega)]

theorem testBit_field {n : Nat} (x : BitVec n) (off w i : Nat) :
    (field x off w).testBit i = (decide (i < w) && x.getLsbD (off + i)) := by
  simp [field, BitVec.testBit_toNat]

theorem field_setField_same {n : Nat} (x : BitVec n) {off w : Nat} (v : Nat) (h : off + w ≤ n) :
    field (setField x off w v) off w = v % 2 ^ w := by
  apply Nat.eq_of_testBit_eq
  intro i
  rw [testBit_field, getLsbD_setField, Nat.testBit_mod_two_pow]
  by_cases hi : i < w
  · rw [if_pos (by omega), Nat.add_sub_cancel_left]
  · simp [hi]

theorem field_setField_apart {n : Nat} (x : BitVec n) {off w off' w' : Nat} (v : Nat)
    (h : off' + w' ≤ off ∨ off + w ≤ off') : field (setField x off w v) off' w' = field x off' w' := by
  apply Nat.eq_of_testBit_eq
  intro i
  rw [testBit_field, testBit_field, getLsbD_setField]
  by_cases hi : i < w'
  · rw [if_neg (by omega)]
  · simp [hi]

@[simp] theorem toBytes_length (n x : Nat) : (toBytes n x).length = n := by
  induction n generalizing x with
  | zero => rfl
  | succ n ih => simp [toBytes, ih]

theorem leNat_toBytes (n x : Nat) : leNat (toBytes n x) = x % 256 ^ n := by
  induction n generalizing x with
  | zero => simp [toBytes, leNat, Nat.mod_one]
  | succ n ih =>
    rw [toBytes, leNat, ih, Nat.pow_succ, Nat.mul_comm (256 ^ n), Nat.mod_mul]
    simp

theorem memRead_congr {m m' : Memory} {a n : Nat} (h : ∀ k, k < n → memByte m (a + k) = memByte m' (a + k)) :
    memRead m a n = memRead m' a n := by
  apply List.ext_getElem?
  intro k
  by_cases hk : k < n
  · rw [memRead_getElem _ _ _ _ hk, memRead_getElem _ _ _ _ hk, h k hk]
  · rw [List.getElem?_eq_none (by rw [memRead_length]; omega), List.getElem?_eq_none (by rw [memRead_length]; omega)]

theorem memRead_memWrite_apart {m : Memory} {a n b : Nat} {bs : List Byte} (hm : memWf m = true)
    (h : a + n ≤ b ∨ b + bs.length ≤ a) : memRead (memWrite m b bs) a n = memRead m a n :=
  memRead_congr fun _ _ => memByte_memWrite_outside _ _ _ _ hm (by omega)

@[simp] theorem cfield_setCtx (s : State) (c : Nat) (x : Ctx) (off w : Nat) :
    cfield (s.setCtx c x) c off w = field x.desc off w := by
  simp [cfield]

theorem cfield_setCfield_same (s : State) (c v : Nat) {off w : Nat} (h : off + w ≤ 1024) :
    cfield (setCfield s c off w v) c off w = v % 2 ^ w := by
  rw [setCfield, cfield_setCtx, field_setField_same _ _ h]

theorem cfield_setCfield_apart (s : State) (c v : Nat) {off w off' w' : Nat}
    (h : off' + w' ≤ off ∨ off + w ≤ off') : cfield (setCfield s c off w v) c off' w' = cfield s c off' w' := by
  rw [setCfield, cfield_setCtx, field_setField_apart _ _ h]; rfl

theorem cfield_congr {s s' : State} (h : s'.ctxs = s.ctxs) (c off w : Nat) : cfield s' c off w = cfield s c off w := by
  unfold cfield State.ctx; rw [h]

end Sys2Proof.Machine
end

section
/-! SUPPORT. The writing of records and the recovery commands but for the reset (19 R399 to R413). -/

namespace Sys2Proof.Machine

/-! Interrupts. -/

theorem signal_frame (s : State) (fn vec : Nat) : signal s fn vec = { s with msi := (signal s fn vec).msi } := by
  unfold signal; split <;> rfl
theorem signalCtx_frame (s : State) (c : Nat) : signalCtx s c = { s with msi := (signalCtx s c).msi } := by
  unfold signalCtx
  dsimp only
  split
  · rfl
  · rw [signal_frame]

/-- The interrupts of a written record change nothing but what is signalled (19 R399). -/
theorem signalled_frame (s : State) (b : Bool) (c : Nat) : signalCtx (if b then signal s 0 2 else s) c =
    { s with msi := (signalCtx (if b then signal s 0 2 else s) c).msi } := by
  rw [signalCtx_frame]
  cases b
  · rfl
  · simp only [if_true]; rw [signal_frame]

theorem signalled_ctx (s : State) (b : Bool) (c j : Nat) :
    (signalCtx (if b then signal s 0 2 else s) c).ctx j = s.ctx j := by rw [signalled_frame]; rfl
@[simp] theorem write_ctx (s : State) (a : Nat) (bs : List Byte) (p : Bool) (c : Nat) :
    (s.write a bs p).ctx c = s.ctx c := rfl

/-! Records (19 R399, R400). -/

/-- A record that is no system call goes to the fault-record queue. -/
theorem toRing_of_ne (s : State) {r : HeldRecord} (h : r.kind ≠ 4) : toRing s r = false := by simp [toRing, h]
theorem recordQueue_of_ne (s : State) {r : HeldRecord} (h : r.kind ≠ 4) :
    recordQueue s r = (cfield s r.ctx 768 57, 2 ^ cfield s r.ctx 825 5, false) := by simp [recordQueue, toRing_of_ne s h]
theorem recordCount_of_ne (s : State) {r : HeldRecord} (h : r.kind ≠ 4) : recordCount s r = (s.ctx r.ctx).frq := by
  simp [recordCount, toRing_of_ne s h]

/-- Charging an access leaves the device's counts. -/
theorem chargeAll_frq (s : State) (c : Nat) (l : List (Nat × Nat)) (c' : Nat) :
    ((chargeAll s c l).ctx c').frq = (s.ctx c').frq := by
  have kept : (chargeAll s c l).ctxs = _ := congrArg State.ctxs (keepHost_frame ..)
  rw [State.ctx, kept]
  split
  · by_cases hc : c' = c
    · simp [hc, State.ctx]
    · simp [mget_mset_ne _ _ hc, State.ctx]
  · rfl

/-- A slot written, the record counted and the header written hold the records and change memory there alone. -/
theorem putCounted_records (s : State) (r : HeldRecord) (h l : Nat) (bs hd : List Byte) :
    ((countRecord (s.write l bs) r).write h hd).records = s.records := rfl
theorem putCounted_mem (s : State) (r : HeldRecord) (h l : Nat) (bs hd : List Byte) :
    ((countRecord (s.write l bs) r).write h hd).mem = memWrite (memWrite s.mem l bs) h hd := rfl

/-- The writing of a record that its queue has room for and its budget covers: the slot, then the count in the header, then the device's
own count. -/
theorem writeRecord_done {s : State} {r : HeldRecord} {h l w : Nat} (hw : w = (s.ctx r.ctx).frq.write.toNat)
    (hk : r.kind ≠ 4)
    (hh : recordLoc s r.ctx (cfield s r.ctx 768 57) 8 false Access.both = some h)
    (hl : recordLoc s r.ctx (cfield s r.ctx 768 57 + 64 + 64 * (w % 2 ^ cfield s r.ctx 825 5)) 64 false
      Access.store = some l)
    (lostH : isLost s h = false) (lostL : isLost s l = false)
    (room : (w + 2 ^ 32 - leNat (s.read (h + 4) 4)) % 2 ^ 32 ≠ 2 ^ cfield s r.ctx 825 5)
    (fit : allFit s r.ctx (recordCost s r h l) = true) :
    ∃ s', writeRecord s r = .done s' ∧ s'.records = s.records ∧
      s'.mem = memWrite (memWrite s.mem l r.bytes) h (toBytes 4 ((w + 1) % 2 ^ 32)) ∧
      (s'.ctx r.ctx).frq.write = BitVec.ofNat 32 (w + 1) := by
  subst hw
  have put : putRecord (chargeAll s r.ctx (recordCost s r h l)) r l =
      (chargeAll s r.ctx (recordCost s r h l)).write l r.bytes := by
    have : isLost (chargeAll s r.ctx (recordCost s r h l)) l = false := by rw [chargeAll_frame]; exact lostL
    simp [putRecord, this]
  have count : (((countRecord ((chargeAll s r.ctx (recordCost s r h l)).write l r.bytes) r)).ctx r.ctx).frq.write =
      (s.ctx r.ctx).frq.write + 1#32 := by
    simp [countRecord, toRing_of_ne _ hk, chargeAll_frq]
  simp only [writeRecord, recordQueue_of_ne s hk, recordCount_of_ne s hk, hh, hl, lostH, room, fit, beq_iff_eq,
    Bool.false_eq_true, if_false, if_true, put]
  refine ⟨_, rfl, ?_, ?_, ?_⟩
  · rw [signalled_frame]
    dsimp only
    rw [putCounted_records, chargeAll_frame]
  · rw [signalled_frame]
    dsimp only
    rw [putCounted_mem, chargeAll_frame]
  · rw [signalled_ctx, write_ctx, count, BitVec.ofNat_add, BitVec.ofNat_toNat, BitVec.setWidth_eq]

theorem find_ripe {s : State} {r : HeldRecord} {n : Nat} (h : s.records.find? (fun r => r.id == n) = some r)
    (ripe : recordRipe s r = true) : s.records.find? (fun r => r.id == n && recordRipe s r) = some r := by
  rw [List.find?_eq_some_iff_append] at h ⊢
  obtain ⟨hr, as, bs, hl, has⟩ := h
  refine ⟨by simp [hr, ripe], as, bs, hl, fun a ha => ?_⟩
  simp [show (a.id == n) = false by simpa using has a ha]

theorem execFaultRecordWrite_done {s s1 : State} {r : HeldRecord} {n : Nat}
    (h : s.records.find? (fun r => r.id == n) = some r) (ripe : recordRipe s r = true) (hp : r.place = none)
    (hw : writeRecord s r = .done s1) :
    execFaultRecordWrite n s = .next { s1 with records := s1.records.filter (·.id != n) } := by
  simp only [execFaultRecordWrite, find_ripe h ripe, hw, hp]

/-- A context failed with its fault-record queue, which takes no more, and its vector signalled (19 R400). -/
def faultQueue (s : State) (c : Nat) : State :=
  let s1 := setCfield s c 30 2 2
  signalCtx (s1.setCtx c { s1.ctx c with stopped := false :: (s1.ctx c).stopped }) c

/-- A record whose queue faults fails its context (19 R400). -/
theorem execFaultRecordWrite_fault {s : State} {r : HeldRecord} {n : Nat}
    (h : s.records.find? (fun r => r.id == n) = some r) (ripe : recordRipe s r = true) (hk : r.kind ≠ 4)
    (hw : writeRecord s r = .fault) :
    execFaultRecordWrite n s = .next (faultQueue s r.ctx) := by
  simp only [execFaultRecordWrite, find_ripe h ripe, hw, toRing_of_ne s hk, faultQueue]

/-- A header that nothing maps, or on an unreachable module, is a fault of the write (19 R400). -/
theorem writeRecord_fault {s : State} {r : HeldRecord} (hk : r.kind ≠ 4)
    (h : recordLoc s r.ctx (cfield s r.ctx 768 57) 8 false Access.both = none ∨
      ∃ h, recordLoc s r.ctx (cfield s r.ctx 768 57) 8 false Access.both = some h ∧ isLost s h = true) :
    writeRecord s r = .fault := by
  obtain h | ⟨l, h, lost⟩ := h
  · simp only [writeRecord, recordQueue_of_ne s hk, h]
  · simp only [writeRecord, recordQueue_of_ne s hk, h, lost, if_true]

/-! Resumption (19 R404, R405). -/

section Resume
variable {s : State} {p : Nat} {t u : Thread} {tr : Trap}

theorem afterPc_of_peek {p0 p1 : Word} {i : Instr} (h : peek s p t = some (p0, p1, i)) :
    afterPc s p t = nextPc t.pc (Decode.parcelCount p0) := by
  simp only [afterPc, h]

variable {b : Bool} {x : DWord} (hu : u = if b then t.setV64 0#7 x else t)
include hu

theorem resumeThread_retry :
    resumeThread s p none t tr 1 (if b then some x else none) = some (resumeAt s p u u.pc) := by
  subst hu; cases b <;> rfl

theorem resumeThread_replay :
    resumeThread s p none t tr 0 (if b then some x else none) = some (replayThread s p none u) := by
  subst hu; cases b <;> rfl

theorem resumeThread_continue (hc : tr.cause ≠ .promiseMiss) :
    resumeThread s p none t tr 2 (if b then some x else none) =
      some (resumeAt s p { u with ending := false } (afterPc s p u)) := by
  have : (tr.cause == .promiseMiss) = false := by simpa using hc
  subst hu; cases b <;> simp [resumeThread, resumeWho, this]

theorem resumeThread_miss (hc : tr.cause = .promiseMiss) :
    resumeThread s p none t tr 2 (if b then some x else none) = continueMiss s p none u tr := by
  subst hu; cases b <;> simp [resumeThread, hc]

/-- Setting v0:v1 leaves where a thread stands and goes back to. -/
theorem withValue_frame : u.pc = t.pc ∧ u.region = t.region ∧ u.replays = t.replays ∧ u.team = t.team := by
  subst hu; cases b <;> exact ⟨rfl, rfl, rfl, rfl⟩

end Resume

theorem replayThread_ok {s : State} {p : Nat} {u : Thread}
    (h : checkTarget s 144 (ctxOf s u) 1 (u.region.setWidth 64) = .ok ()) :
    replayThread s p none u =
      resumeAt s p { u with replays := u.replays + 1, ending := false } (u.region.setWidth 64) := by
  simp only [replayThread, h]
  rfl

section Miss
variable {s : State} {p : Nat} {u : Thread} {tr : Trap} {loc : Nat} (hb : tr.bar = some loc)
include hb

theorem continueMiss_done (h : barPhase (barRead s loc) ≠ tr.info0.extractLsb' 0 4) :
    continueMiss s p none u tr = some (resumeAt s p u (afterPc s p u)) := by
  simp [continueMiss, hb, barKept, resumeWho, h]

theorem continueMiss_full (h : barPhase (barRead s loc) = tr.info0.extractLsb' 0 4) (hs : isSlice loc = true)
    (hr : barRoom s loc = false) : continueMiss s p none u tr = none := by
  simp [continueMiss, hb, barKept, h, hs, hr]

theorem continueMiss_waits (h : barPhase (barRead s loc) = tr.info0.extractLsb' 0 4) (hr : barRoom s loc = true) :
    continueMiss s p none u tr = some (State.setThr
      { s with barWaiters := s.barWaiters ++ [⟨loc, tr.info0.extractLsb' 0 4, p, none⟩] } p
      { u with status := .parked (.barrier loc (tr.info0.extractLsb' 0 4)), replay := false, npc := afterPc s p u }) := by
  simp [continueMiss, hb, barKept, h, hr, whoSet]

end Miss

section Named
variable {s : State} {p : Nat} {t : Thread} {tr : Trap} (busy : s.rec_.busy = true) (op : s.rec_.op = 1#4)
  (hn : namedThread s = some (p, none, t, tr))
include busy op hn

variable (hm : s.rec_.mode ≠ 3#2)
include hm

theorem execResume_some {s1 : State}
    (h : resumeThread s p none t tr s.rec_.mode.toNat (if s.rec_.setv then some s.rec_.b else none) = some s1) :
    execResume s = .next (recDone s1 0#2) := by
  simp [execResume, recRuns, busy, op, hn, hm, h]

/-- A thread that must wait for room at a barrier unit leaves the command as it stands. -/
theorem execResume_none
    (h : resumeThread s p none t tr s.rec_.mode.toNat (if s.rec_.setv then some s.rec_.b else none) = none) :
    execResume s = .next s := by
  simp [execResume, recRuns, busy, op, hn, hm, h]

end Named

/-- What memory holds once a slot and then the count in a header beside it are written (19 R399). -/
theorem memWrite_slot_header {m m' : Memory} {h l w : Nat} {bs : List Byte} (hm : memWf m = true) (len : bs.length = 64)
    (apart : h + 8 ≤ l ∨ l + 64 ≤ h) (written : m' = memWrite (memWrite m l bs) h (toBytes 4 (w % 2 ^ 32))) :
    memRead m' l 64 = bs ∧ leNat (memRead m' h 4) = w % 2 ^ 32 ∧
      ∀ a, (a < h ∨ h + 4 ≤ a) → (a < l ∨ l + 64 ≤ a) → memByte m' a = memByte m a := by
  subst written
  have hslot := memWrite_wf m l bs hm
  refine ⟨?_, ?_, fun a ha hb => ?_⟩
  · rw [memRead_memWrite_apart hslot (by simp; omega), ← len, memRead_memWrite m l bs hm]
  · have head := memRead_memWrite _ h (toBytes 4 (w % 2 ^ 32)) hslot
    rw [toBytes_length] at head
    rw [head, leNat_toBytes]; omega
  · rw [memByte_memWrite_outside _ _ _ _ hslot (by simpa using ha), memByte_memWrite_outside _ _ _ _ hm (by omega)]

@[simp] theorem signalCtx_ctx (s : State) (c j : Nat) : (signalCtx s c).ctx j = s.ctx j := by rw [signalCtx_frame]; rfl
@[simp] theorem signalCtx_records (s : State) (c : Nat) : (signalCtx s c).records = s.records := by
  rw [signalCtx_frame]
@[simp] theorem signalCtx_mem (s : State) (c : Nat) : (signalCtx s c).mem = s.mem := by rw [signalCtx_frame]

@[simp] theorem faultQueue_ctx (s : State) (c : Nat) : (faultQueue s c).ctx c =
    { (setCfield s c 30 2 2).ctx c with stopped := false :: ((setCfield s c 30 2 2).ctx c).stopped } := by
  simp [faultQueue]
@[simp] theorem faultQueue_records (s : State) (c : Nat) : (faultQueue s c).records = s.records := by
  simp [faultQueue, setCfield]
@[simp] theorem faultQueue_mem (s : State) (c : Nat) : (faultQueue s c).mem = s.mem := by
  simp [faultQueue, setCfield]
theorem faultQueue_failed (s : State) (c : Nat) : cfield (faultQueue s c) c 30 2 = 2 := by
  rw [cfield, faultQueue_ctx]
  exact cfield_setCfield_same s c 2 (by omega)
theorem faultQueue_takes (s : State) {r : HeldRecord} (hk : r.kind ≠ 4) :
    queueTakes (faultQueue s r.ctx) r = false := by
  simp [queueTakes, toRing_of_ne _ hk]

/-! RESUME and RESUMEALL (19 R404, R405, R412). -/

section Resume
variable {s : State} {p : Nat} {t u : Thread} {tr : Trap} (busy : s.rec_.busy = true) (op : s.rec_.op = 1#4)
  (named : namedThread s = some (p, none, t, tr)) (hu : u = if s.rec_.setv then t.setV64 0#7 s.rec_.b else t)
include busy op named hu

theorem execResume_retry (mode : s.rec_.mode = 1#2) : execResume s = .next (recDone (resumeAt s p u u.pc) 0#2) :=
  execResume_some busy op named (by simp [mode]) (by rw [mode]; exact resumeThread_retry hu)

theorem execResume_replay (mode : s.rec_.mode = 0#2)
    (target : checkTarget s 144 (ctxOf s t) 1 (t.region.setWidth 64) = .ok ()) :
    execResume s = .next (recDone (resumeAt s p { u with replays := t.replays + 1, ending := false }
      (t.region.setWidth 64)) 0#2) := by
  obtain ⟨-, hregion, hreplays, hteam⟩ := withValue_frame hu
  rw [← hregion, ctxOf, teamOf, ← hteam] at target
  rw [← hregion, ← hreplays]
  refine execResume_some busy op named (by simp [mode]) ?_
  rw [mode]
  exact (resumeThread_replay hu).trans (congrArg some (replayThread_ok target))

variable {p0 p1 : Word} {i : Instr} (mode : s.rec_.mode = 2#2) (here : peek s p u = some (p0, p1, i))
include mode here

theorem execResume_continue (cause : tr.cause ≠ .promiseMiss) : execResume s = .next (recDone (resumeAt s p
    { u with ending := false } (nextPc t.pc (Decode.parcelCount p0))) 0#2) := by
  refine execResume_some busy op named (by simp [mode]) ?_
  rw [← (withValue_frame hu).1, ← afterPc_of_peek here, mode]
  exact resumeThread_continue hu cause

variable {loc : Nat} (cause : tr.cause = .promiseMiss) (bar : tr.bar = some loc)
include cause bar

theorem execResume_missDone (passed : barPhase (barRead s loc) ≠ tr.info0.extractLsb' 0 4) :
    execResume s = .next (recDone (resumeAt s p u (nextPc t.pc (Decode.parcelCount p0))) 0#2) := by
  refine execResume_some busy op named (by simp [mode]) ?_
  rw [← (withValue_frame hu).1, ← afterPc_of_peek here, mode]
  exact (resumeThread_miss hu cause).trans (continueMiss_done bar passed)

theorem execResume_missWaits (waits : barPhase (barRead s loc) = tr.info0.extractLsb' 0 4) (room : barRoom s loc = true) :
    execResume s = .next (recDone (State.setThr
      { s with barWaiters := s.barWaiters ++ [⟨loc, tr.info0.extractLsb' 0 4, p, none⟩] } p
      { u with status := .parked (.barrier loc (tr.info0.extractLsb' 0 4)), replay := false
               npc := nextPc t.pc (Decode.parcelCount p0) }) 0#2) := by
  refine execResume_some busy op named (by simp [mode]) ?_
  rw [← (withValue_frame hu).1, ← afterPc_of_peek here, mode]
  exact (resumeThread_miss hu cause).trans (continueMiss_waits bar waits room)

omit here in
theorem execResume_missFull (waits : barPhase (barRead s loc) = tr.info0.extractLsb' 0 4) (slice : isSlice loc = true)
    (full : barRoom s loc = false) : execResume s = .next s := by
  refine execResume_none busy op named (by simp [mode]) ?_
  rw [mode]
  exact (resumeThread_miss hu cause).trans (continueMiss_full bar waits slice full)

end Resume

theorem recDone_thr (s : State) (st : BitVec 2) (p : Nat) : (recDone s st).thr p = s.thr p := rfl

theorem execResumeall_breakpoint {s : State} {p : Nat} {t : Thread} {tr : Trap} (busy : s.rec_.busy = true)
    (op : s.rec_.op = 2#4) (one : trapped s s.rec_.ctx.toNat = [(p, none, t, tr)]) (ht : s.thr p = some t)
    (hc : tr.cause = .breakpoint) : execResumeall s = .next (recDone (resumeAt s p t t.pc) 0#2) := by
  have retry : resumeThread s p none t tr (defaultMode tr) none = some (resumeAt s p t t.pc) := by
    rw [defaultMode, hc]; rfl
  simp [execResumeall, recRuns, busy, op, recCtx, one, whoGet, ht, retry]

/-! PREEMPT and RESTART (19 R412, R413). -/

/-- A context in a state of pre-emption, with a deadline or none. -/
def setPreemption (s : State) (c v : Nat) (d : Option Nat) : State :=
  (setCfield s c 921 2 v).setCtx c { (setCfield s c 921 2 v).ctx c with deadline := d }

theorem setPreemption_pstate (s : State) (c : Nat) {v : Nat} (h : v < 4) (d : Option Nat) :
    pstate (setPreemption s c v d) c = v := by
  have set := cfield_setCfield_same s c v (off := 921) (w := 2) (by omega)
  rw [Nat.mod_eq_of_lt (by omega)] at set
  rw [pstate, setPreemption, cfield_setCtx]; exact set
theorem setPreemption_deadline (s : State) (c v : Nat) (d : Option Nat) :
    ((setPreemption s c v d).ctx c).deadline = d := by
  rw [setPreemption, State.ctx_setCtx]

theorem execPreempt_waits {s : State} (h : retiring s s.rec_.ctx.toNat = true) : execPreempt s = .next s := by
  simp [execPreempt, recCtx, h]

theorem execPreempt_sets {s : State} {c : Nat} (busy : s.rec_.busy = true) (hc : c = s.rec_.ctx.toNat)
    (op : s.rec_.op = 3#4) (retired : retiring s c = false) (state : pstate s c ≠ 1) :
    execPreempt s = .next (recDone (setPreemption s c 1
      (some (s.chron + (if cfield s c 896 24 = 0 then 2000 else cfield s c 896 24) * 1000))) 0#2) := by
  subst hc
  simp [execPreempt, recRuns, busy, op, recCtx, retired, state, setPreemption]

theorem execRestart_clears {s : State} {c : Nat} (busy : s.rec_.busy = true) (hc : c = s.rec_.ctx.toNat)
    (op : s.rec_.op = 4#4) :
    execRestart s = .next (recDone (setPreemption s c 0 none) 0#2) := by
  subst hc
  simp [execRestart, recRuns, busy, op, recCtx, setPreemption]

theorem execPreemptDrained_reports {s : State} {c : Nat} (state : pstate s c = 1)
    (drained : ∀ e ∈ s.teams, e.2.ctx = c → e.2.saved ≠ none) :
    execPreemptDrained c s = .next (report (setPreemption s c 2 none) c 22
      (s.teams.filter fun e => e.2.ctx == c).length 0) := by
  have gone : residents s c = [] := by
    refine List.filter_eq_nil_iff.2 fun e he => ?_
    simp only [Bool.and_eq_true, beq_iff_eq, Option.isNone_iff_eq_none, not_and]
    exact drained e he
  simp [execPreemptDrained, state, gone, setPreemption]

end Sys2Proof.Machine
end

section
/-! SUPPORT. What a forced reset leaves alone before its own report: the reports held and the queues' descriptors
(19 R414). -/

namespace Sys2Proof.Machine

/-- The reports a state holds (19 R401, Table 5): its records of kind 3. -/
def reports (s : State) : List HeldRecord := s.records.filter (·.kind == 3)

/-- What every step of a forced reset but the failing of its queues leaves alone: the reports held, and the descriptor of
every queue (19 R414). -/
structure KeepsReports (s s' : State) : Prop where
  reports : reports s' = reports s
  descs : ∀ q, (s'.queue q).desc = (s.queue q).desc

namespace KeepsReports

theorem refl (s : State) : KeepsReports s s := ⟨rfl, fun _ => rfl⟩

theorem trans {a b c : State} (h : KeepsReports a b) (k : KeepsReports b c) : KeepsReports a c :=
  ⟨k.reports.trans h.reports, fun q => (k.descs q).trans (h.descs q)⟩

/-- `trans` with the later step first, which gives the state between. -/
theorem after {a b c : State} (k : KeepsReports b c) (h : KeepsReports a b) : KeepsReports a c := h.trans k

theorem of_eq {s s' : State} (hr : s'.records = s.records) (hq : s'.queues = s.queues) : KeepsReports s s' :=
  ⟨by rw [Machine.reports, Machine.reports, hr], fun q => by rw [State.queue, State.queue, hq]⟩

theorem foldl {α : Type} {f : State → α → State} (h : ∀ s x, KeepsReports s (f s x)) (l : List α) (s : State) :
    KeepsReports s (l.foldl f s) := by
  induction l generalizing s with
  | nil => exact refl s
  | cons x r ih => exact (h s x).trans (ih _)

theorem ite {p : Prop} [Decidable p] {s a b : State} (ha : KeepsReports s a) (hb : KeepsReports s b) :
    KeepsReports s (if p then a else b) := by
  split
  · exact ha
  · exact hb

end KeepsReports

/-! Memory, cores, threads, contexts and packets. -/

theorem write_keepsReports (s : State) (a : Nat) (bs : List Byte) (p : Bool) :
    KeepsReports s (s.write a bs p) :=
  .of_eq rfl rfl
theorem setCore_keepsReports (s : State) (c : Nat) (x : CoreState) : KeepsReports s (s.setCore c x) := .of_eq rfl rfl
theorem setCtx_keepsReports (s : State) (c : Nat) (x : Ctx) : KeepsReports s (s.setCtx c x) := .of_eq rfl rfl

/-- A queue whose other fields alone change keeps its descriptor. -/
theorem setQueue_keepsReports {s : State} {q : Nat} {x : Queue} (h : x.desc = (s.queue q).desc) :
    KeepsReports s (s.setQueue q x) where
  reports := rfl
  descs j := by
    by_cases hj : j = q
    · subst hj; rw [State.queue_setQueue, h]
    · rw [State.queue, State.setQueue_queues, mget_mset_ne _ _ hj]; rfl

theorem chargeAll_keepsReports (s : State) (c : Nat) (l : List (Nat × Nat)) : KeepsReports s (chargeAll s c l) := by
  rw [chargeAll_frame]; exact .of_eq rfl rfl
theorem chargeDram_keepsReports (s : State) (c loc n : Nat) : KeepsReports s (chargeDram s c loc n) :=
  .ite (setCtx_keepsReports ..) (.refl s)
theorem whoSet_keepsReports (s : State) (p : Nat) (team : Option Nat) (t : Thread) :
    KeepsReports s (whoSet s p team t) := by
  unfold whoSet
  split
  · exact .of_eq rfl rfl
  · split
    · exact .of_eq rfl rfl
    · exact .refl s

/-! Records of devices. -/

theorem countLost_keepsReports (s : State) (c : Nat) : KeepsReports s (countLost s c) := by
  unfold countLost
  dsimp only
  split
  · exact .ite (setCtx_keepsReports ..) ((setCtx_keepsReports ..).trans (write_keepsReports ..))
  · exact setCtx_keepsReports ..

/-- A device record is no report. -/
theorem deviceRecord_keepsReports (s : State) (unit c cause sub addr i0 i1 i2 : Nat) :
    KeepsReports s (deviceRecord s unit c 2 cause sub addr i0 i1 i2) :=
  .ite (.ite (.refl s) (countLost_keepsReports ..)) ⟨by simp [reports], fun _ => rfl⟩

theorem lostRecord_keepsReports (s : State) (c loc : Nat) :
    KeepsReports s (lostRecord s c loc) :=
  deviceRecord_keepsReports ..
theorem store_keepsReports (s : State) (c loc : Nat) (bs : List Byte) (p : Bool) :
    KeepsReports s (store s c loc bs p) :=
  .ite (lostRecord_keepsReports ..) (write_keepsReports ..)
theorem failureRecord_keepsReports (s : State) (p : Packet) (sub st : Nat) :
    KeepsReports s (failureRecord s p sub st) :=
  deviceRecord_keepsReports ..
theorem conflictRecord_keepsReports (s : State) (c cell : Nat) (t : Trap) :
    KeepsReports s (conflictRecord s c cell t) :=
  deviceRecord_keepsReports ..
theorem queueRecord_keepsReports (s : State) (c q reason rd : Nat) : KeepsReports s (queueRecord s c q reason rd) :=
  deviceRecord_keepsReports ..

/-! Barriers and copies (19 R414, step 1). -/

theorem wakeBar_keepsReports (s : State) (w : BarWaiter) : KeepsReports s (wakeBar s w) := by
  unfold wakeBar
  split
  · split
    · exact whoSet_keepsReports ..
    · exact .refl s
  · exact .refl s
theorem wakeAllBar_keepsReports (s : State) (loc : Nat) : KeepsReports s (wakeAllBar s loc) :=
  (KeepsReports.of_eq rfl rfl : KeepsReports s { s with barWaiters := s.barWaiters.filter (·.bar != loc) }).trans
    (.foldl wakeBar_keepsReports _ _)
theorem barTest_keepsReports (s : State) (c loc : Nat) (x : BitVec 128) (p : Bool) :
    KeepsReports s (barTest s c loc x p) :=
  .ite ((write_keepsReports ..).trans (wakeAllBar_keepsReports ..))
    (.ite ((write_keepsReports ..).trans (deviceRecord_keepsReports ..)) (write_keepsReports ..))
theorem countLanding_keepsReports (s : State) (c : Nat) (e : CopyElem) : KeepsReports s (countLanding s c e) := by
  unfold countLanding
  split
  · exact (chargeDram_keepsReports ..).trans (barTest_keepsReports ..)
  · exact .refl s
theorem moveBytes_keepsReports (s : State) (c dst src n : Nat) : KeepsReports s (moveBytes s c dst src n) :=
  .foldl (fun _ _ => store_keepsReports ..) _ _
theorem landElem_keepsReports (s : State) (c : Nat) (e : CopyElem) : KeepsReports s (landElem s c e) :=
  .ite (lostRecord_keepsReports ..) ((moveBytes_keepsReports ..).trans (countLanding_keepsReports ..))
theorem stopElem_keepsReports (s : State) (c : Nat) (kept : Bool) (x : CopyElem) :
    KeepsReports s (stopElem s c kept x) := by
  unfold stopElem
  refine .ite (countLanding_keepsReports ..) (.ite (.refl s) (.ite ?_ (landElem_keepsReports ..)))
  split
  · exact landElem_keepsReports ..
  · exact .refl s
theorem engStore_keepsReports (s : State) (core c loc : Nat) (bs : List Byte) (p : Bool) :
    KeepsReports s (engStore s core c loc bs p) :=
  .ite ((store_keepsReports ..).trans (.of_eq rfl rfl)) (store_keepsReports ..)
theorem stopOp_keepsReports (s : State) (core : Nat) (e : QEntry) : KeepsReports s (stopOp s core e) := by
  unfold stopOp
  refine .ite (.refl s) ?_
  split
  · exact .refl s
  · dsimp only
    exact .after (.foldl (fun _ _ => stopElem_keepsReports ..) _ _) (.of_eq rfl rfl)
  · exact .after (.foldl (fun _ _ => engStore_keepsReports ..) _ _) (.of_eq rfl rfl)

/-! Engine queues, arrays and stores of a core (19 R414, steps 2 and 3). -/

theorem setArray_keepsReports (s : State) (core q : Nat) (a : ArrayState) :
    KeepsReports s (setArray s core q a) :=
  setCore_keepsReports ..
theorem holdArray_keepsReports (s : State) (core q : Nat) : KeepsReports s (holdArray s core q) := by
  unfold holdArray
  split
  · exact setArray_keepsReports ..
  · exact setArray_keepsReports ..
  · exact .refl s
theorem retireMarkers_keepsReports (n : Nat) (s : State) (core : Nat) : KeepsReports s (retireMarkers n s core) := by
  induction n generalizing s with
  | zero => exact .refl s
  | succ n ih =>
    unfold retireMarkers
    split
    · exact .refl s
    · exact (KeepsReports.foldl (fun _ _ => setCore_keepsReports ..) _ _).trans (ih _)
theorem dropOps_keepsReports (s : State) (c : Nat) (ks : List Nat) (core : Nat) :
    KeepsReports s (dropOps s c ks core) := by
  unfold dropOps
  have stopped := KeepsReports.foldl (fun s (e : Nat × QEntry) => stopOp_keepsReports s core e.2)
    ((List.range 8).flatMap fun q => ((queueAt s core q).filter (·.ctx == c)).map (q, ·)) s
  refine KeepsReports.trans ?_
    ((KeepsReports.foldl (fun _ _ => setCore_keepsReports ..) _ _).trans (retireMarkers_keepsReports ..))
  exact .ite (stopped.trans (.foldl (fun _ _ => .ite (setArray_keepsReports ..) (holdArray_keepsReports ..)) _ _)) stopped
theorem scrubCore_keepsReports (s : State) (ks : List Nat) (core : Nat) : KeepsReports s (scrubCore s ks core) :=
  (KeepsReports.foldl (fun _ _ => setCore_keepsReports ..) _ _).trans (setCore_keepsReports ..)
theorem putWsums_keepsReports (s : State) (ls : List Nat) :
    KeepsReports s (ls.foldl (fun s l => if isLost s l then s else putWsum s l) s) :=
  .foldl (fun s _ => .ite (.refl s) (write_keepsReports ..)) _ _
theorem dropWaiters_keepsReports (s : State) (ps ks : List Nat) : KeepsReports s (dropWaiters s ps ks) :=
  ⟨(putWsums_keepsReports ..).reports, (putWsums_keepsReports ..).descs⟩
theorem flushMesh_keepsReports (s : State) (c : Nat) (ps : List Nat) : KeepsReports s (flushMesh s c ps) :=
  (KeepsReports.foldl (fun _ _ => store_keepsReports ..) _ _).trans (.of_eq rfl rfl)

/-! The end of a packet: its done cell filled, its records written (14 R328). -/

theorem wakeCell_keepsReports (s : State) (v : DWord) (w : Nat × Option Nat) : KeepsReports s (wakeCell s v w) := by
  unfold wakeCell
  split
  · split
    · exact whoSet_keepsReports ..
    · exact .refl s
  · exact .refl s
theorem fillCell_keepsReports (s : State) (loc : Nat) (v : DWord) : KeepsReports s (fillCell s loc v) :=
  ((KeepsReports.of_eq rfl rfl : KeepsReports s { s with cellWaiters := s.cellWaiters.filter (·.loc != loc) }).trans
    (write_keepsReports ..)).trans (.foldl (fun _ _ => wakeCell_keepsReports ..) _ _)
theorem rewriteLinked_keepsReports (s : State) (loc : Nat) (v : DWord) : KeepsReports s (rewriteLinked s loc v) :=
  .ite (write_keepsReports ..) (.refl s)
theorem passBack_keepsReports (s : State) (named : Nat) (v : DWord) (l : List (Nat × Nat)) :
    KeepsReports s (passBack s named v l).1 := by
  induction l generalizing s with
  | nil => exact .refl s
  | cons x r ih =>
    unfold passBack
    split
    · exact .refl s
    · split
      · exact .refl s
      · exact (rewriteLinked_keepsReports ..).trans (ih _)
theorem noteLink_keepsReports (s : State) (loc : Nat) (parent : Option Nat) :
    KeepsReports s (noteLink s loc parent) :=
  .of_eq rfl rfl
theorem devWalk_keepsReports (s : State) (c named : Nat) (a : Access) (n va : Nat) (vis : List (Nat × Nat))
    (hops : Nat) : KeepsReports s (devWalk s c named a n va vis hops).1 := by
  induction n generalizing s va vis hops with
  | zero => exact .refl s
  | succ n ih =>
    unfold devWalk
    split
    · exact .refl s
    · exact .refl s
    · dsimp only
      split
      · exact chargeAll_keepsReports ..
      · split
        · exact chargeAll_keepsReports ..
        · exact chargeAll_keepsReports ..
        · refine KeepsReports.trans ?_ (ih ..)
          refine .ite ?_ (chargeAll_keepsReports ..)
          exact .after (noteLink_keepsReports ..) (.after (write_keepsReports ..) (chargeAll_keepsReports ..))

/-- The state an event of the device ends in. -/
def DevRes.state : DevRes → State
  | .ok s _ => s
  | .trap s _ => s

theorem devBack_keepsReports {s a : State} (h : KeepsReports s a) (named : Nat) (vis : List (Nat × Nat)) (v : DWord)
    {go : State → DevRes} (hgo : ∀ a, (go a).state = a) : KeepsReports s (devBack a named vis v go).state := by
  have back := h.trans (passBack_keepsReports a named v vis.reverse)
  unfold devBack
  split
  · rename_i hb; rw [hb] at back; exact back
  · rename_i hb; rw [hb] at back; rw [hgo]; exact back
theorem devFill_keepsReports (s : State) (c cell : Nat) (x : DWord) : KeepsReports s (devFill s c cell x).state := by
  have walk := devWalk_keepsReports s c cell Access.both 1025 cell [] 0
  unfold devFill
  split
  · rename_i hw; rw [hw] at walk; exact walk
  · rename_i hw; rw [hw] at walk; exact walk
  · rename_i hw
    rw [hw] at walk
    split
    · exact devBack_keepsReports (walk.trans (fillCell_keepsReports ..)) _ _ _ fun _ => rfl
    · exact devBack_keepsReports walk _ _ _ fun _ => by split <;> rfl
    · exact walk
theorem dispatch_keepsReports (n : Nat) (s : State) : KeepsReports s (dispatch n s) := by
  induction n generalizing s with
  | zero => exact .refl s
  | succ n ih =>
    unfold dispatch
    split
    · exact .refl s
    · exact .ite (.after (ih _) (.of_eq rfl rfl)) (.ite (.after (ih _) (.of_eq rfl rfl)) (.refl s))
theorem delPacket_keepsReports (s : State) (k : Nat) :
    KeepsReports s { s with packets := mdel s.packets k } :=
  .of_eq rfl rfl
theorem dropPacket_keepsReports {s s1 : State} (h : KeepsReports s s1) (k q : Nat) (stop : Option Nat) :
    KeepsReports s
      (dispatchAll (State.setQueue { s1 with packets := mdel s1.packets k } q { s1.queue q with stop := stop })) :=
  .after (dispatch_keepsReports ..) (.after (setQueue_keepsReports rfl) (.after (delPacket_keepsReports ..) h))
theorem completePacket_keepsReports (s : State) (k status : Nat) : KeepsReports s (completePacket s k status) := by
  unfold completePacket
  split
  · exact .refl s
  · rename_i p hp
    refine dropPacket_keepsReports ?_ _ _ _
    refine .ite (.ite (.refl s) (failureRecord_keepsReports ..)) ?_
    have fill := devFill_keepsReports s p.ctx (packetDone p.bytes) (BitVec.ofNat 64 status)
    split
    · rename_i hf
      rw [hf] at fill
      exact .ite fill (fill.trans (failureRecord_keepsReports ..))
    · rename_i t hf
      rw [hf] at fill
      refine .ite ?_ ?_
      · have told := fill.trans (conflictRecord_keepsReports _ p.ctx (packetDone p.bytes) t)
        exact .ite told (told.trans (failureRecord_keepsReports ..))
      · split
        · exact fill.trans ((lostRecord_keepsReports ..).trans (failureRecord_keepsReports ..))
        · exact fill.trans (failureRecord_keepsReports ..)
theorem writeFailure_keepsReports (s : State) (c q : Nat) : KeepsReports s (writeFailure s c q) := by
  unfold writeFailure
  split
  · exact .after (queueRecord_keepsReports ..) (setQueue_keepsReports rfl)
  · exact .refl s
theorem endFailure_keepsReports (s : State) (c q : Nat) : KeepsReports s (endFailure s c q) := by
  unfold endFailure
  exact .ite (writeFailure_keepsReports ..) (.refl s)
theorem resetPacket_keepsReports (s : State) (k : Nat) : KeepsReports s (resetPacket s k) := by
  unfold resetPacket
  split
  · exact (completePacket_keepsReports ..).trans (endFailure_keepsReports ..)
  · exact .refl s

end Sys2Proof.Machine
end

section
/-! SUPPORT. The forced reset (19 R414). -/

namespace Sys2Proof.Machine

/-! The queues of a reset context (14 R324; 19 R414). -/

/-- A queue stands failed, its enable bit 0 (14 R324). -/
def QueueFailed (s : State) (q : Nat) : Prop := qstate s q = 2 ∧ qfield s q 58 1 = 0

theorem QueueFailed.step {s s' : State} {q : Nat} (h : QueueFailed s q) (k :
    KeepsReports s s') : QueueFailed s' q := by
  rw [QueueFailed, qstate, qfield, qfield, k.descs q]; exact h

theorem resetQueue_desc (s : State) (q j : Nat) : ((resetQueue s q).queue j).desc =
    if j = q then setField (setField (s.queue q).desc 192 2 2) 58 1 0 else (s.queue j).desc := by
  unfold resetQueue
  rw [(queueRecord_keepsReports ..).descs]
  by_cases hj : j = q
  · simp [hj, setQfield]
  · simp [hj, setQfield, State.queue, mget_mset_ne]

theorem resetQueue_reports (s : State) (q : Nat) : reports (resetQueue s q) = reports s :=
  (queueRecord_keepsReports ..).reports

theorem resetQueue_failed (s : State) (q : Nat) : QueueFailed (resetQueue s q) q := by
  rw [QueueFailed, qstate, qfield, qfield, resetQueue_desc, if_pos rfl]
  exact ⟨(field_setField_apart _ _ (by omega)).trans (field_setField_same _ _ (by omega)),
    field_setField_same _ _ (by omega)⟩

theorem QueueFailed.resetQueue {s : State} {j : Nat} (h : QueueFailed s j) (q : Nat) :
    QueueFailed (resetQueue s q) j := by
  by_cases hj : j = q
  · exact hj ▸ resetQueue_failed s j
  · rw [QueueFailed, qstate, qfield, qfield, resetQueue_desc, if_neg hj]; exact h

theorem resetQueues_failed {l : List Nat} {s : State} {q : Nat} (h : q ∈ l ∨ QueueFailed s q) :
    QueueFailed (l.foldl Machine.resetQueue s) q := by
  induction l generalizing s with
  | nil => exact h.resolve_left (by simp)
  | cons x r ih =>
    refine ih ?_
    obtain hm | hf := h
    · obtain rfl | hm := List.mem_cons.mp hm
      · exact .inr (resetQueue_failed s q)
      · exact .inl hm
    · exact .inr (hf.resetQueue x)

theorem resetQueues_reports (l : List Nat) (s : State) : reports (l.foldl resetQueue s) = reports s := by
  induction l generalizing s with
  | nil => rfl
  | cons x r ih => rw [List.foldl_cons, ih, resetQueue_reports]

/-- A queue that no one has touched names context 0, so one that names another is listed (14 R320). -/
theorem mem_queuesOf {s : State} {q c : Nat} (hq : q < 8192) (h : qfield s q 96 12 = c) : q ∈ queuesOf s c := by
  unfold queuesOf
  refine List.mem_filter.2 ⟨?_, by simpa using h⟩
  by_cases hc : c = 0
  · simpa [hc] using hq
  · simp only [beq_iff_eq, hc, if_false]
    refine Classical.byContradiction fun hm => ?_
    have untouched : mget s.queues q = none := mget_eq_none hm
    rw [qfield, State.queue, untouched] at h
    exact hc (h.symm.trans (by decide +kernel))

/-! A forced reset (19 R414). -/

/-- Steps 1 to 3 but for the context's threads and records: its writes performed, its queues and packets ended, its
operations stopped, its cores scrubbed, its waits dropped. -/
def stopContext (s : State) (c : Nat) : State :=
  dropWaiters
    ((List.range 144).foldl (fun s' core => scrubCore (dropOps s' c (ctxTeams s c) core) (ctxTeams s c) core)
      (((s.packets.filter fun e => e.2.ctx == c).map (·.1)).foldl resetPacket
        ((queuesOf s c).foldl resetQueue (flushMesh s c (ctxPlaces s c)))))
    (ctxPlaces s c) (ctxTeams s c)

theorem stopContext_reports (s : State) (c : Nat) : reports (stopContext s c) = reports s := by
  unfold stopContext
  rw [(dropWaiters_keepsReports ..).reports,
    (KeepsReports.foldl (fun _ _ => (dropOps_keepsReports ..).trans (scrubCore_keepsReports ..)) _ _).reports,
    (KeepsReports.foldl resetPacket_keepsReports _ _).reports, resetQueues_reports, (flushMesh_keepsReports ..).reports]

theorem stopContext_failed {s : State} {c q : Nat} (hq : q < 8192) (h : qfield s q 96 12 = c) :
    QueueFailed (stopContext s c) q := by
  have failed := resetQueues_failed (s := flushMesh s c (ctxPlaces s c)) (.inl (mem_queuesOf hq h))
  exact ((failed.step (.foldl resetPacket_keepsReports _ _)).step
    (.foldl (fun _ _ => (dropOps_keepsReports ..).trans (scrubCore_keepsReports ..)) _ _)).step
    (dropWaiters_keepsReports ..)

/-- The threads at some places, the groups of some teams, and the ordered cells and records of a context gone, but for its
reports. -/
def clearThreads (s : State) (c : Nat) (ps ks : List Nat) : State :=
  { s with
    threads := s.threads.filter fun e => !ps.contains e.1
    groups := s.groups.filter fun e => !ks.contains e.2.team
    ordered := (ps.foldl forgetAdds s).ordered.filter (·.ctx != c)
    records := s.records.filter fun r => r.ctx != c || r.kind == 3
    issue := s.issue.filter fun p => !ps.contains p }

/-- The teams of a context gone, and the cores that only waited for them out of its partition (16 R356). -/
def clearTeams (s : State) (c : Nat) : State :=
  ((s.teams.filter fun e => e.2.ctx == c && e.2.saved.isNone).flatMap fun e => teamCores e.2).foldl
    (fun s core => leavePartition s c core) { s with teams := s.teams.filter fun e => e.2.ctx != c }

/-- A context not enabled, failed and reset, without a deadline. -/
def failContext (s : State) (c : Nat) : State :=
  let s1 := setCfield (setCfield (setCfield s c 921 2 3) c 30 2 2) c 0 1 0
  s1.setCtx c { s1.ctx c with deadline := none, bad := [] }

/-- The state a forced reset reports from: nothing of the context runs, its queues have failed. -/
def cleared (s : State) (c : Nat) : State :=
  clearTeams (clearThreads (stopContext s c) c (ctxPlaces s c) (ctxTeams s c)) c

/-- A forced reset in its parts. -/
theorem forcedReset_eq (s : State) (c : Nat) : forcedReset s c = wakeTokens (failContext (report (cleared s c) c 23
    (ctxThreads s c).length ((s.packets.filter fun e => e.2.ctx == c).map (·.1)).length) c) := rfl

theorem leavePartition_frame (s : State) (c core : Nat) : leavePartition s c core =
    { s with cores := (leavePartition s c core).cores, ctxs := (leavePartition s c core).ctxs } := by
  unfold leavePartition; split <;> rfl

theorem clearTeams_frame (s : State) (c : Nat) : clearTeams s c =
    { s with teams := s.teams.filter (·.2.ctx != c), cores := (clearTeams s c).cores,
             ctxs := (clearTeams s c).ctxs } := by
  unfold clearTeams
  refine List.foldlRecOn (motive := fun (a : State) => a =
    { s with teams := s.teams.filter (·.2.ctx != c), cores := a.cores, ctxs := a.ctxs }) _ _ rfl ?_
  intro a ha core _
  rw [leavePartition_frame, ha]

/-- A thread set in a state that differs in its threads alone. -/
theorem setThr_frame {s a : State} (h : a = { s with threads := a.threads }) (p : Nat) (t : Thread) :
    a.setThr p t = { s with threads := (a.setThr p t).threads } := by
  generalize a.threads = m at h
  subst h
  rfl

/-- MWAITs woken change threads alone. -/
theorem wakeTokens_frame (s : State) : wakeTokens s = { s with threads := (wakeTokens s).threads } := by
  unfold wakeTokens
  refine List.foldlRecOn (motive := fun (a : State) => a = { s with threads := a.threads }) _ _ rfl ?_
  intro a ha e _
  split
  · split
    · split
      · exact setThr_frame ha ..
      · exact ha
    · exact ha
  · exact ha

/-- No thread comes where none was. -/
theorem wakeTokens_thr_none {s : State} {p : Nat} (h : s.thr p = none) : (wakeTokens s).thr p = none := by
  unfold wakeTokens
  refine List.foldlRecOn (motive := fun (a : State) => a.thr p = none) _ _ h ?_
  intro a ha e _
  split
  · rename_i t ht
    have hne : p ≠ e.1 := by rintro rfl; rw [ha] at ht; cases ht
    split
    · split
      · rw [State.thr_setThr_ne _ _ hne, ha]
      · exact ha
    · exact ha
  · exact ha

theorem failContext_cfield (s : State) (c off w : Nat) : cfield (failContext s c) c off w =
    cfield (setCfield (setCfield (setCfield s c 921 2 3) c 30 2 2) c 0 1 0) c off w :=
  cfield_setCtx ..

theorem failContext_pstate (s : State) (c : Nat) : pstate (failContext s c) c = 3 := by
  rw [pstate, failContext_cfield, cfield_setCfield_apart _ _ _ (by omega), cfield_setCfield_apart _ _ _ (by omega),
    cfield_setCfield_same _ _ _ (by omega), Nat.mod_eq_of_lt (by decide)]

theorem failContext_failed (s : State) (c : Nat) : cfield (failContext s c) c 30 2 = 2 := by
  rw [failContext_cfield, cfield_setCfield_apart _ _ _ (by omega), cfield_setCfield_same _ _ _ (by omega),
    Nat.mod_eq_of_lt (by decide)]

theorem failContext_disabled (s : State) (c : Nat) : ctxEnabled (failContext s c) c = false := by
  rw [ctxEnabled, failContext_cfield, cfield_setCfield_same _ _ _ (by omega)]; rfl

@[simp] theorem failContext_thr (s : State) (c p : Nat) : (failContext s c).thr p = s.thr p := by
  simp [failContext, setCfield, State.thr]
@[simp] theorem failContext_teams (s : State) (c : Nat) : (failContext s c).teams = s.teams := by
  simp [failContext, setCfield]
@[simp] theorem failContext_records (s : State) (c : Nat) : (failContext s c).records = s.records := by
  simp [failContext, setCfield]
@[simp] theorem failContext_queues (s : State) (c : Nat) : (failContext s c).queues = s.queues := by
  simp [failContext, setCfield]
@[simp] theorem report_thr (s : State) (c cause i0 i1 p : Nat) : (report s c cause i0 i1).thr p = s.thr p := rfl
@[simp] theorem report_teams (s : State) (c cause i0 i1 : Nat) : (report s c cause i0 i1).teams = s.teams := rfl
@[simp] theorem report_queues (s : State) (c cause i0 i1 : Nat) : (report s c cause i0 i1).queues = s.queues := rfl
@[simp] theorem report_records (s : State) (c cause i0 i1 : Nat) : (report s c cause i0 i1).records =
    s.records ++ [⟨s.serial, unitFirmware, c, 3, none, none, reportBytes c cause i0 i1⟩] := rfl
@[simp] theorem clearTeams_thr (s : State) (c p : Nat) : (clearTeams s c).thr p = s.thr p := by
  rw [clearTeams_frame]; rfl
@[simp] theorem clearTeams_teams (s : State) (c : Nat) : (clearTeams s c).teams = s.teams.filter (·.2.ctx != c) := by
  rw [clearTeams_frame]
@[simp] theorem clearTeams_records (s : State) (c : Nat) : (clearTeams s c).records = s.records := by
  rw [clearTeams_frame]
@[simp] theorem clearTeams_queues (s : State) (c : Nat) : (clearTeams s c).queues = s.queues := by
  rw [clearTeams_frame]
@[simp] theorem clearThreads_records (s : State) (c : Nat) (ps ks : List Nat) :
    (clearThreads s c ps ks).records = s.records.filter fun r => r.ctx != c || r.kind == 3 := rfl
@[simp] theorem clearThreads_queues (s : State) (c : Nat) (ps ks : List Nat) :
    (clearThreads s c ps ks).queues = s.queues := rfl
theorem clearThreads_thr (s : State) (c p : Nat) (ps ks : List Nat) (h : p ∈ ps) :
    (clearThreads s c ps ks).thr p = none :=
  mget_eq_none (by simp [clearThreads, h])

/-- What the reset of a context leaves of it (19 R414): no thread and no team, a context that is not enabled, has failed and
stands reset, of its records the reports and one more, and its queues failed. -/
structure IsReset (s s' : State) (c : Nat) : Prop where
  threads : ∀ p t, s.thr p = some t → ctxOf s t = c → s'.thr p = none
  teams : ∀ e ∈ s'.teams, e.2.ctx ≠ c
  disabled : ctxEnabled s' c = false
  state : pstate s' c = 3
  failed : cfield s' c 30 2 = 2
  records : ∃ r, r.kind = 3 ∧
    s'.records.filter (·.ctx == c) = s.records.filter (fun r => r.ctx == c && r.kind == 3) ++ [r]
  queues : ∀ q, q < 8192 → qfield s q 96 12 = c → QueueFailed s' q

theorem cleared_thr {s : State} {c p : Nat} {t : Thread} (h : s.thr p = some t) (hc : ctxOf s t = c) :
    (cleared s c).thr p = none := by
  have mine : p ∈ ctxPlaces s c := List.mem_filterMap.2 ⟨(p, t), mem_of_mget h, by simp [hc]⟩
  rw [cleared, clearTeams_thr, clearThreads_thr _ _ _ _ _ mine]

theorem cleared_teams (s : State) (c : Nat) : ∀ e ∈ (cleared s c).teams, e.2.ctx ≠ c := by
  simp [cleared]

/-- Of a context's records the reports alone are left. -/
theorem cleared_records (s : State) (c : Nat) : (cleared s c).records.filter (·.ctx == c) =
    s.records.filter (fun r => r.ctx == c && r.kind == 3) := by
  calc (cleared s c).records.filter (·.ctx == c)
      = (reports (stopContext s c)).filter (·.ctx == c) := by
        rw [cleared, clearTeams_records, clearThreads_records, reports, List.filter_filter, List.filter_filter]
        congr 1
        funext r
        cases h : r.ctx == c <;> simp [h, bne]
    _ = s.records.filter (fun r => r.ctx == c && r.kind == 3) := by
        rw [stopContext_reports, reports, List.filter_filter]

theorem QueueFailed.congr {s s' : State} {q : Nat} (h : QueueFailed s q) (hq : s'.queues = s.queues) :
    QueueFailed s' q := by
  rw [QueueFailed, qstate, qfield, qfield, State.queue, hq]; exact h

theorem cleared_failed {s : State} {c q : Nat} (hq : q < 8192) (h : qfield s q 96 12 = c) :
    QueueFailed (cleared s c) q :=
  (stopContext_failed hq h).congr (by rw [cleared, clearTeams_queues, clearThreads_queues])

@[simp] theorem wakeTokens_teams (s : State) : (wakeTokens s).teams = s.teams := by rw [wakeTokens_frame]
@[simp] theorem wakeTokens_records (s : State) : (wakeTokens s).records = s.records := by rw [wakeTokens_frame]
@[simp] theorem wakeTokens_queues (s : State) : (wakeTokens s).queues = s.queues := by rw [wakeTokens_frame]
@[simp] theorem wakeTokens_ctxs (s : State) : (wakeTokens s).ctxs = s.ctxs := by rw [wakeTokens_frame]

/-- A state from which nothing of a context is left is, reported and with the context failed, that of its reset. -/
theorem IsReset.of_cleared {s x : State} {c : Nat} (n k : Nat)
    (threads : ∀ p t, s.thr p = some t → ctxOf s t = c → x.thr p = none) (teams : ∀ e ∈ x.teams, e.2.ctx ≠ c)
    (records : x.records.filter (·.ctx == c) = s.records.filter (fun r => r.ctx == c && r.kind == 3))
    (queues : ∀ q, q < 8192 → qfield s q 96 12 = c → QueueFailed x q) :
    IsReset s (wakeTokens (failContext (report x c 23 n k) c)) c := by
  have field (off w : Nat) := cfield_congr (wakeTokens_ctxs (failContext (report x c 23 n k) c)) c off w
  constructor
  case threads => exact fun p t h hc => wakeTokens_thr_none (by simp [threads p t h hc])
  case teams => simpa using teams
  case disabled => rw [ctxEnabled, field]; exact failContext_disabled ..
  case state => rw [pstate, field]; exact failContext_pstate ..
  case failed => rw [field]; exact failContext_failed ..
  case records =>
    refine ⟨⟨x.serial, unitFirmware, c, 3, none, none, reportBytes c 23 n k⟩, rfl, ?_⟩
    simp [← records]
  case queues => exact fun q hq h => (queues q hq h).congr (by simp)

theorem forcedReset_isReset (s : State) (c : Nat) : IsReset s (forcedReset s c) c := by
  rw [forcedReset_eq]
  exact .of_cleared _ _ (fun _ _ => cleared_thr) (cleared_teams s c) (cleared_records s c) (fun _ => cleared_failed)

theorem IsReset.recDone {s s' : State} {c : Nat} (h : IsReset s s' c) (st : BitVec 2) : IsReset s (recDone s' st) c :=
  ⟨h.threads, h.teams, h.disabled, h.state, h.failed, h.records, h.queues⟩

/-- A reset commanded, one of firmware, and a deadline that passes with a team not over reset the context (19 R412 to
R414). -/
theorem exec_reset {s : State} {c : Nat} {i : Instr} {d : Nat}
    (h : i = .forcedReset c ∨ (i = .reset ∧ s.rec_.busy = true ∧ s.rec_.op = 5#4 ∧ c = s.rec_.ctx.toNat) ∨
      (i = .preemptDeadline c ∧ (s.ctx c).deadline = some d ∧ d ≤ s.chron ∧ pstate s c = 1 ∧
        ∃ e ∈ s.teams, e.2.ctx = c ∧ e.2.saved = none ∧ teamOver s e.1 e.2 = false)) :
    ∃ s', exec i s = .next s' ∧ IsReset s s' c := by
  have reset := forcedReset_isReset s c
  obtain rfl | ⟨rfl, busy, op, rfl⟩ | ⟨rfl, hd, past, state, e, he, hc, saved, more⟩ := h
  · exact ⟨_, rfl, reset⟩
  · have runs : recRuns s 5#4 = true := by simp [recRuns, busy, op]
    exact ⟨_, if_pos runs, reset.recDone 0#2⟩
  · have resident : (residents s c).any (fun e => !teamOver s e.1 e.2) = true :=
      List.any_eq_true.2 ⟨e, List.mem_filter.2 ⟨he, by simp [hc, saved]⟩, by simp [more]⟩
    refine ⟨_, ?_, reset⟩
    show execPreemptDeadline c s = _
    simp [execPreemptDeadline, hd, past, state, resident]

end Sys2Proof.Machine
end

section
/-! Fault records and the recovery commands: the statement settled. -/

namespace Sys2Proof.Machine

/-- Settles O54, each clause by the equation of its event: the record written or its queue's fault, a thread resumed in each
mode, PREEMPT, RESTART and the report of a drained context; of a reset the invariant that its steps keep the reports and the
queues' descriptors. -/
theorem recoveryCommands : Obligations.RecoveryCommands := by
  intro s c _
  refine ⟨?_, ?_, ?_, ?_, ?_, ?_, ?_⟩
  · intro r h l n w mem hw found ripe hk len place hh hl apart lostH lostL room fit
    obtain ⟨s1, done, records, memory, count⟩ := writeRecord_done hw hk hh hl lostH lostL room fit
    obtain ⟨slot, header, rest⟩ := memWrite_slot_header mem len apart memory
    exact ⟨_, execFaultRecordWrite_done found ripe place done, by simp only [records], slot, header, count, rest⟩
  · intro r n found ripe hk fault
    exact ⟨_, execFaultRecordWrite_fault found ripe hk (writeRecord_fault hk fault), faultQueue_failed ..,
      faultQueue_records .., faultQueue_takes s hk, faultQueue_mem ..⟩
  · intro p t u tr busy op named hu
    refine ⟨fun mode => ?retry, fun mode target => ?replay, fun p0 p1 i mode cause here => ?onward,
      fun p0 p1 i loc mode cause bar here => ?miss⟩
    case retry =>
      exact ⟨_, execResume_retry busy op named hu mode, resumeAt_thr .., rfl, rfl,
        fun p' hp' => State.thr_setThr_ne _ _ hp'⟩
    case replay => exact ⟨_, execResume_replay busy op named hu mode target, resumeAt_thr .., rfl⟩
    case onward => exact ⟨_, execResume_continue busy op named hu mode here cause, resumeAt_thr .., rfl⟩
    case miss =>
      exact ⟨fun done => ⟨_, execResume_missDone busy op named hu mode here cause bar done, resumeAt_thr ..⟩,
        fun waits room => ⟨_, execResume_missWaits busy op named hu mode here cause bar waits room, rfl,
          State.thr_setThr ..⟩,
        execResume_missFull busy op named hu mode cause bar⟩
  · intro p t tr busy op one ht cause
    exact ⟨_, execResumeall_breakpoint busy op one ht cause, resumeAt_thr .., rfl⟩
  · intro busy hc
    refine ⟨fun op pending => execPreempt_waits (hc ▸ pending), fun op retired state => ?_, fun op => ?_⟩
    · exact ⟨_, execPreempt_sets busy hc op retired state, setPreemption_pstate s c (by omega) _, rfl,
        setPreemption_deadline ..⟩
    · exact ⟨_, execRestart_clears busy hc op, setPreemption_pstate s c (by omega) _, setPreemption_deadline .., rfl⟩
  · intro state drained
    exact ⟨_, _, execPreemptDrained_reports state drained, setPreemption_pstate s c (by omega) _,
      setPreemption_deadline .., rfl, rfl, rfl⟩
  · intro i d h
    obtain ⟨s', hs, reset⟩ := exec_reset h
    exact ⟨s', hs, reset.threads, reset.teams, reset.disabled, reset.state, reset.failed, reset.records, reset.queues⟩

end Sys2Proof.Machine
end

section
/-! SUPPORT. The address an operand names (01_assembly_language.md R27; 04_memory_instructions.md R106, R107), and what an
access at an address that is not a multiple of its size answers (04 R110). -/

namespace Sys2Proof.Machine

/-! The parts of an address. -/

/-- The base of an operand in the g space. -/
def globalBase (s : State) (t : Thread) (m : MemOp) : DWord :=
  match m.base with
  | .v n => t.rv64 n
  | .s n => sread64 s t n
  | .sp => t.sp
/-- The base of an operand in the w space. -/
def windowBase (s : State) (t : Thread) (m : MemOp) : Word :=
  match m.base with
  | .v n => t.rv n
  | .s n => sread s t n
  | .sp => lo32 t.sp
/-- The shifted index of an operand. -/
def indexVal (t : Thread) (m : MemOp) : DWord :=
  match m.idx with
  | some n => (t.rv n).setWidth 64 <<< m.shift.toNat
  | none => 0#64

theorem memEa_global (s : State) (t : Thread) {m : MemOp} (h : m.win = false) :
    memEa s t m = globalBase s t m + indexVal t m + offVal m.off := if_neg (by simp [h])
theorem memEa_window (s : State) (t : Thread) {m : MemOp} (h : m.win = true) :
    memEa s t m = (lo32 ((windowBase s t m).setWidth 64 + indexVal t m + offVal m.off)).setWidth 64 := if_pos h

/-! Their values. -/

theorem lo32_toNat (x : DWord) : (lo32 x).toNat = x.toNat % 2 ^ 32 := by simp [lo32]

theorem globalBase_toNat (s : State) (t : Thread) (m : MemOp) : (globalBase s t m).toNat =
    match m.base with
    | .v n => (t.rv64 n).toNat
    | .s n => (sread64 s t n).toNat
    | .sp => t.sp.toNat := by
  unfold globalBase; cases m.base <;> rfl
theorem windowBase_toNat (s : State) (t : Thread) (m : MemOp) : (windowBase s t m).toNat =
    match m.base with
    | .v n => (t.rv n).toNat
    | .s n => (sread s t n).toNat
    | .sp => t.sp.toNat % 2 ^ 32 := by
  unfold windowBase
  cases m.base with
  | v n => rfl
  | s n => rfl
  | sp => exact lo32_toNat t.sp

/-- An index shifted by at most 3 loses no bit in 64. -/
theorem indexVal_toNat (t : Thread) (m : MemOp) : (indexVal t m).toNat =
    match m.idx with
    | some n => (t.rv n).toNat * 2 ^ m.shift.toNat
    | none => 0 := by
  unfold indexVal
  cases m.idx with
  | none => rfl
  | some n =>
    have shift : 2 ^ m.shift.toNat ≤ 2 ^ 3 := Nat.pow_le_pow_right (by omega) (by omega)
    have fits : (t.rv n).toNat * 2 ^ m.shift.toNat < 2 ^ 64 := calc
      _ ≤ (2 ^ 32 - 1) * 2 ^ 3 := Nat.mul_le_mul (by omega) shift
      _ < 2 ^ 64 := by decide
    have wide : (t.rv n).toNat % 2 ^ 64 = (t.rv n).toNat := Nat.mod_eq_of_lt (by omega)
    simp only [BitVec.toNat_shiftLeft, BitVec.toNat_setWidth, Nat.shiftLeft_eq, wide]
    exact Nat.mod_eq_of_lt fits

theorem offVal_toNat (o : MOff) : (offVal o).toNat =
    match o with
    | .imm7 x => (x.signExtend 64).toNat
    | .lit x => (x.signExtend 64).toNat := by
  cases o <;> rfl

section Sum
variable {s : State} {t : Thread} {m : MemOp} {base index off : Nat}

/-- In the g space the sum is taken modulo 2^64. -/
theorem memEa_global_toNat (hb : (globalBase s t m).toNat = base) (hi : (indexVal t m).toNat = index)
    (ho : (offVal m.off).toNat = off) (h : m.win = false) : (memEa s t m).toNat = (base + index + off) % 2 ^ 64 := by
  rw [memEa_global s t h]
  simp only [BitVec.toNat_add, Nat.mod_add_mod, hb, hi, ho]

/-- In the w space it is taken modulo 2^32. -/
theorem memEa_window_toNat (hb : (windowBase s t m).toNat = base) (hi : (indexVal t m).toNat = index)
    (ho : (offVal m.off).toNat = off) (h : m.win = true) : (memEa s t m).toNat = (base + index + off) % 2 ^ 32 := by
  rw [memEa_window s t h]
  simp only [BitVec.toNat_setWidth, lo32_toNat, BitVec.toNat_add, hi, ho]
  omega
end Sum

/-! Alignment (04 R110). -/

/-- The alignment exception of an access of `n` bytes. -/
def alignTrap (ea : DWord) (n : Nat) : Trap := mkTrap .alignment 0 ea (BitVec.ofNat 64 n)

theorem alignCheck_misaligned {ea : DWord} {n : Nat} (h : ea.toNat % n ≠ 0) : alignCheck ea n = .trap (alignTrap ea n) :=
  if_neg h

section Misaligned
variable {s : State} {t : Thread} {m : MemOp} {n : Nat} (p : Nat) (a : Access)

theorem locate_misaligned {ea : DWord} (h : ea.toNat % n ≠ 0) (win : Bool) :
    locate s p t win ea n a = .trap (alignTrap ea n) := by
  rw [locate, alignCheck_misaligned h]; rfl

theorem locateCell16_misaligned (h : (memEa s t m).toNat % 16 ≠ 0) :
    locateCell16 s p t m a = .trap (alignTrap (memEa s t m) 16) := by
  rw [locateCell16, locate_misaligned p _ h]; rfl

theorem locateBar_misaligned (h : (memEa s t m).toNat % 16 ≠ 0) :
    locateBar s p t m = .trap (alignTrap (memEa s t m) 16) := by
  rw [locateBar, alignCheck_misaligned h]; rfl
end Misaligned

/-- With a trap of its own checks a ready thread takes it. -/
theorem Ready.run_trap {α : Type} {g : Guard} {i : Instr} {s : State} {t : Thread} {tr : Trap} (h : Ready g i s t)
    {checks : Thread → Chk α} (hc : checks t = .trap tr) (effect : Thread → α → State) :
    Machine.run g i s noCheck checks effect = .next (takeTrap s s.cur t tr) := by
  rw [h.run]; simp only [noCheck, Chk.bind, hc]

end Sys2Proof.Machine
end

section
/-! Effective addresses and the alignment exception: the statement settled. -/

namespace Sys2Proof.Machine

/-- Settles O30: an address is the sum of its parts' values; at one that is not a multiple of the size, the check of the
access, of the ordered cell or of the barrier answers the exception. -/
theorem addresses : Obligations.Addresses := by
  refine ⟨fun s t m ix off hix hoff => ?_, fun s t g ea n i form h ready => ?_⟩
  · have index := (indexVal_toNat t m).trans hix.symm
    have offset := (offVal_toNat m.off).trans hoff.symm
    exact ⟨memEa_global_toNat (globalBase_toNat s t m) index offset,
      memEa_window_toNat (windowBase_toNat s t m) index offset⟩
  · obtain ⟨la, o, rfl, rfl, rfl⟩ | ⟨o, rfl, rfl, rfl⟩ | ⟨la, o, rfl, rfl, rfl⟩ | ⟨o, word, rfl, rfl⟩ |
      ⟨o, word, rfl, rfl⟩ := form
    · exact ready.run_trap (locate_misaligned _ _ h _) _
    · exact ready.run_trap (locate_misaligned _ _ h _) _
    · exact ready.run_trap (locate_misaligned _ _ h _) _
    · obtain rfl | rfl := word <;> exact ready.run_trap (locateCell16_misaligned _ _ h) _
    · obtain rfl | rfl | rfl | rfl | rfl := word <;> exact ready.run_trap (locateBar_misaligned _ h) _

end Sys2Proof.Machine
end
